-- ==== Sys2Proof/Word.lean ====
section
/-!
DEFINITION. Word.lean: the words of the Z830 and their plainest names (R9, R386).
-/
namespace Sys2Proof

/-- A register, a scalar register or a station-code word: 64 bits (R9, R379). -/
abbrev Word := BitVec 64
/-- One lane of a vector or thread register (R379, R445). -/
abbrev Lane := BitVec 32
/-- One byte of any memory. -/
abbrev Byte := BitVec 8

end Sys2Proof
end

