-- ==== Sys2Proof/Syntax.lean ====
section
/-!
DEFINITION. Syntax.lean: the commands of the Z830 taken as a block, one constructor per row of
spec/opcode_table.json, and the operands they carry.
-/
namespace Sys2Proof

/-- The two issue contexts of a sequencer: D runs decode, P runs prefill and back-fill (R379). -/
inductive Ctx where
  | d | p
  deriving DecidableEq, Repr

/-- Where a station-code instruction issues: the logical position of R89 and the context. -/
structure Issue where
  core : Fin 624
  ctx  : Ctx
  deriving DecidableEq, Repr

/-- The operand fields of an instruction word (R386); MAJOR and MINOR are the constructor. -/
structure Fields where
  dst  : BitVec 6
  srca : BitVec 6
  srcb : BitVec 6
  imm  : BitVec 34
  deriving DecidableEq, Repr

/-- Where a group instruction issues: core, group context, and one active lane of the subgroup. -/
structure GIssue where
  core : Fin 624
  gctx : Fin 16
  lane : Fin 32
  deriving DecidableEq, Repr

/-- The two host ports (R493, R539). -/
inductive Port where
  | a | b
  deriving DecidableEq, Repr

/-- A ring of host memory (R503). -/
inductive RingId where
  | sub (i : Fin 64) | comp (i : Fin 64) | out (i : Fin 256) | ev (i : Fin 2)
  deriving DecidableEq, Repr

/-- A submission entry as the device reads it (R513): word 0 by field, then words 1 to 7. -/
structure HostCmd where
  sq   : Fin 64
  opc  : BitVec 8
  cid  : BitVec 16
  fence : Bool
  seq  : BitVec 8
  rsv0 : BitVec 31
  w1 : Word
  w2 : Word
  w3 : Word
  w4 : Word
  w5 : Word
  w6 : Word
  w7 : Word
  deriving DecidableEq, Repr

/-- One tier-mover descriptor as stored: its eight words (R254). -/
structure DescWords where
  w0 : Word
  w1 : Word
  w2 : Word
  w3 : Word
  w4 : Word
  w5 : Word
  w6 : Word
  w7 : Word
  deriving DecidableEq, Repr

/-- A stream of the image's stream table (R285, R291, R292, R295). -/
structure StreamDef where
  prod      : Fin 624
  prodEntry : Nat
  prodLayer : Nat
  cons      : Fin 624
  consEntry : Nat
  consLayer : Nat
  /-- the attention pipeline whose input buffer receives, when one does -/
  toPipe    : Option (Fin 96)
  cap       : Nat
  /-- where its receive buffer lies in the consumer core's store, when it lies there (R292) -/
  bufAt     : Nat
  spill     : Option Nat
  deriving DecidableEq, Repr

/-- The station-code program of one core (R285 CODE, R380, R390, R416, R641). -/
structure Program where
  pos      : Fin 624
  entryD   : BitVec 20
  entryP   : Option (BitVec 20)
  lo       : Nat
  hi       : Nat
  codeAt   : Nat
  code     : List Byte
  carryLo  : Nat
  carryLen : Nat
  /-- host address ranges that the image declares for egress: base and length -/
  egress   : List (Nat × Nat)
  /-- the layers at which this core has a station -/
  layers   : List Nat
  deriving DecidableEq, Repr

/-- A kernel entry (R449). -/
structure KernelDef where
  num   : Nat
  entry : BitVec 20
  stop  : BitVec 20
  pack  : Bool
  code  : List Byte
  cores : List (Fin 624)
  deriving DecidableEq, Repr

/-- One BACK fill of the RUNS section (R285, R150): source, alternate, destination and 512-byte units. -/
structure RunFill where
  pos  : Fin 624
  foff : Nat
  len  : Nat
  src  : Nat
  alt  : Option Nat
  deriving DecidableEq, Repr

/-- The sections of a placement image (R285). -/
inductive ImageSection where
  | header | code | runs | streams | pipes | kernels | vocab | manifest | signature
  deriving DecidableEq, Repr

/-- A configuration of the PIPES section: the core store that holds it, its offset there, and the record of R335 (R285). -/
structure PipeCfg where
  core   : Fin 624
  offset : Nat
  words  : List (BitVec 64)
  deriving DecidableEq, Repr

/-- A placement image (R285) by the facts that LOAD acts on. The image's byte format is not in the
spec; what only the bytes decide (signature, decryption, check values, digests) is an operand. -/
structure Image where
  wellFormed  : Bool
  /-- the sections that it carries, in their order (R285) -/
  sections    : List ImageSection
  crcOk       : Bool
  sigOk       : Bool
  enc         : Bool
  decryptOk   : Bool
  digest      : List Word
  ownerDigest : List Word
  manifestDigest : List Word
  gmMeas      : List Word
  minFprop    : List (Fin 624 × Nat)
  chunks      : BitVec 32
  programs    : List Program
  runs        : List RunFill
  /-- tile runs: position, field offset, bytes (R143) -/
  tileRuns    : List (Fin 624 × Nat × Nat)
  streams     : List StreamDef
  /-- attention pipeline configurations (R285 PIPES) -/
  pipes       : List PipeCfg
  kernels     : List KernelDef
  layers      : Nat
  groups      : Nat
  vocab       : Nat
  /-- the bytes of each token (R285 VOCAB) -/
  text        : List (List Byte)
  /-- the tokeniser tables, as bytes (R285 VOCAB) -/
  tokTable    : List Byte
  /-- KV slots that positions contribute: position and slot number (R342) -/
  kvSlots     : List (Fin 624 × Nat)
  poolBase    : BitVec 48
  poolIds     : BitVec 24
  hpoolBase   : BitVec 48
  hpoolPages  : BitVec 24
  /-- where the page maps of sequences lie: base of map 0 and stride (R349) -/
  mapBase     : Nat
  mapStride   : Nat
  /-- device memory ranges that the image declares beyond the above: base and length (R677) -/
  ranges      : List (Nat × Nat)
  sealFlag    : Bool
  /-- EGRESS entries: station position and output ring (R747) -/
  egressPos   : List (Fin 624 × Fin 256)
  buffers     : List (Nat × Nat)
  peers       : List (Fin 64)
  manifestOk  : Bool
  budget      : BitVec 32
  prefillPeriod : Nat
  lossBound   : Nat
  budWarn     : Bool
  /-- checkpoint bytes per stack, and the waves allowed in flight (R644) -/
  ckptBytes   : List Nat
  maxWaves    : Nat
  deriving DecidableEq, Repr

/-- A write to a doorbell: its value, and whether it is a whole and aligned access (R10, R502). -/
structure BellWrite where
  value : Word
  whole : Bool
  deriving DecidableEq, Repr

/-- A layer of a wave that runs again, and the stall that this costs, in A-cycles (R534, R647). -/
structure LayerStall where
  layer : Fin 256
  stall : BitVec 48
  deriving DecidableEq, Repr

/-- A staged page whose fetch is complete: its place among the pages that the units of a pipeline still wait for, in unit order, and
the status of the fetch (R260, R363, R371). -/
structure StagedPage where
  idx    : Nat
  status : BitVec 8
  deriving DecidableEq, Repr

/-- What has lost lock: the PLL of a die, or every PLL because REFCLK is gone (R26). -/
inductive LockLoss where
  | pll (die : Fin 12)
  | refclk
  deriving DecidableEq, Repr

/-- What a churn reads and finds (R678): outside facts, as its operands. Temperatures are in
0.125 °C, dies 0 to 11 and HBM stacks 0 to 7. -/
structure ChurnSample where
  dieTemp   : List Int
  hbmTemp   : List Int
  /-- results of the tests of suspect groups: group index of R814 and failed bonds -/
  bondTests : List (Nat × Nat)
  /-- rows to replace: physical position number, base half, bank, row (R165) -/
  badRows   : List (Fin 624 × Bool × Fin 16 × Nat)
  /-- cluster numbers whose free spare fails its self-test (R659) -/
  spareFail : List (Fin 48)
  deriving DecidableEq, Repr

/-- What a 10 µs window measures (R699): power in 0.125 W, supplies in mV, rails as stack, rail,
mean mV and mean 0.125 A, and the VCOR_T phase currents of each stack in 0.125 A. -/
structure PowerSample where
  p     : Nat
  vin   : Nat
  vaux  : Nat
  rails : List (Fin 4 × Fin 8 × Nat × Nat)
  phases : List (List Nat)
  deriving DecidableEq, Repr

/-- A DIMM as its SPD shows it (R240, R241, R604): capacity in GiB, device width in bits, ranks, serial number. -/
structure Dimm where
  cap    : Nat
  width  : Nat
  ranks  : Nat
  serial : Nat
  deriving DecidableEq, Repr

/-- What a bring-up stage finds in the world outside (R592 to R600). -/
structure StageResult where
  /-- no other cause makes the stage fail; else detail names it -/
  ok      : Bool
  detail  : BitVec 8
  unitWord : Word
  /-- PLLs that are locked: bit 3 s + l as in GLB_CLKSTAT (R25, R27, R591) -/
  pll     : BitVec 12
  /-- stage 0: temperatures of the dies in 0.125 °C (R717) -/
  dieTemp : List Int
  /-- stage 1: keys matched, versions -/
  keyOk   : Bool
  fwSvn   : BitVec 32
  seSvn   : BitVec 32
  /-- stage 0: stored map and settings present and signed (R599) -/
  stored  : Bool
  /-- interfaces whose saved setting fails the short margin test (R600), numbered as in Machine/Boot.lean -/
  margin  : List Nat
  /-- units that the census or a self-test finds: positions that fail, bond groups with their failed bonds, pipelines, mesh links -/
  posFail : List (Fin 48 × Fin 13)
  bonds   : List (Nat × Nat)
  pipesOut : List (Fin 96)
  meshOut : List (Fin 4 × Fin 17)
  /-- stage 4: device identification of each HBM4 stack (R604), and the stacks that are not online, by STATE code (R284) -/
  hbmId   : List (Fin 8 × Nat)
  hbmNot  : List (Fin 8 × Fin 4)
  /-- stage 4: DIMMs that SPD shows as stage 5 begins, by channel and slot 1 -/
  dimms   : List (Fin 16 × Bool × Dimm)
  /-- stage 5: channels that train -/
  ddrUp   : List (Fin 16)
  /-- stage 3: stacks whose system area failed parity; memory controllers whose memory was not kept: H0 to H7, D0 to D15 -/
  sysLost : List (Fin 4)
  memLost : List (Fin 24)
  /-- stage 6: ring edges that train, host ports that train, quads with rate and width -/
  edgesUp : List (Fin 4)
  portsUp : List Port
  quads   : List (Fin 8 × BitVec 2 × BitVec 2)
  deriving DecidableEq, Repr

/-- An access of a BAR0 register (R10): a write with its value, or a read. -/
inductive RegAccess where
  | write (v : Word)
  | read
  deriving DecidableEq, Repr

/-- Where a flit failed parity on a network path (R630, R665). -/
inductive NetPath where
  | stream (i : Nat)
  | mesh (i : Nat) (stack : Fin 4) (link : Fin 17)
  deriving DecidableEq, Repr

/-- Where a column-reduce input comes from (R411). -/
inductive ReduceSrc where
  | link (e : Fin 2)
  | handle (i : Fin 16)
  deriving DecidableEq, Repr

/-- The transport that an SPDM request uses (R740). -/
inductive SpdmPort where
  | doe (p : Port) | mctp
  deriving DecidableEq, Repr

/-- The key-exchange group asked for (R740). -/
inductive SpdmGroup where
  | secp384r1 | ffdhe4096 | other
  deriving DecidableEq, Repr

/-- What NEGOTIATE_ALGORITHMS offers of the algorithms of R740. -/
structure SpdmAlgs where
  rsassa4096 : Bool
  sha512     : Bool
  secp384r1  : Bool
  ffdhe4096  : Bool
  aes256gcm  : Bool
  deriving DecidableEq, Repr

/-- The commands, one constructor per row of spec/opcode_table.json. -/
inductive Instr where
  /-- NOP (R389). -/
  | nop (u : Issue) (f : Fields)
  /-- BR (R389). -/
  | br (u : Issue) (f : Fields)
  /-- BEQ (R389). -/
  | beq (u : Issue) (f : Fields)
  /-- BNE (R389). -/
  | bne (u : Issue) (f : Fields)
  /-- BLT (R389). -/
  | blt (u : Issue) (f : Fields)
  /-- BGE (R389). -/
  | bge (u : Issue) (f : Fields)
  /-- BLTU (R389). -/
  | bltu (u : Issue) (f : Fields)
  /-- BGEU (R389). -/
  | bgeu (u : Issue) (f : Fields)
  /-- BPZ (R389). -/
  | bpz (u : Issue) (f : Fields)
  /-- BPNZ (R389). -/
  | bpnz (u : Issue) (f : Fields)
  /-- JAL (R389). -/
  | jal (u : Issue) (f : Fields)
  /-- JR (R389). -/
  | jr (u : Issue) (f : Fields)
  /-- FENCE (R437). -/
  | fence (u : Issue) (f : Fields)
  /-- WNEXT (R391). -/
  | wnext (u : Issue) (f : Fields)
  /-- WBAR (R393). -/
  | wbar (u : Issue) (f : Fields)
  /-- GAP (R394). -/
  | gap (u : Issue) (f : Fields)
  /-- HINT (R708). -/
  | hint (u : Issue) (f : Fields)
  /-- ADD (R395). -/
  | add (u : Issue) (f : Fields)
  /-- SUB (R395). -/
  | sub (u : Issue) (f : Fields)
  /-- MUL (R395). -/
  | mul (u : Issue) (f : Fields)
  /-- MULH (R395). -/
  | mulh (u : Issue) (f : Fields)
  /-- AND (R395). -/
  | and (u : Issue) (f : Fields)
  /-- OR (R395). -/
  | or (u : Issue) (f : Fields)
  /-- XOR (R395). -/
  | xor (u : Issue) (f : Fields)
  /-- SHL (R395). -/
  | shl (u : Issue) (f : Fields)
  /-- SHR (R395). -/
  | shr (u : Issue) (f : Fields)
  /-- SRA (R395). -/
  | sra (u : Issue) (f : Fields)
  /-- SLT (R395). -/
  | slt (u : Issue) (f : Fields)
  /-- SLTU (R395). -/
  | sltu (u : Issue) (f : Fields)
  /-- MIN (R395). -/
  | min (u : Issue) (f : Fields)
  /-- MAX (R395). -/
  | max (u : Issue) (f : Fields)
  /-- MOVH (R395). -/
  | movh (u : Issue) (f : Fields)
  /-- MRS (R396). -/
  | mrs (u : Issue) (f : Fields)
  /-- MSR (R396). -/
  | msr (u : Issue) (f : Fields)
  /-- VADD (R399). -/
  | vadd (u : Issue) (f : Fields)
  /-- VSUB (R399). -/
  | vsub (u : Issue) (f : Fields)
  /-- VMUL (R399). -/
  | vmul (u : Issue) (f : Fields)
  /-- VFMA (R399). -/
  | vfma (u : Issue) (f : Fields)
  /-- VFMS (R399). -/
  | vfms (u : Issue) (f : Fields)
  /-- VDIV (R399). -/
  | vdiv (u : Issue) (f : Fields)
  /-- VSQRT (R399). -/
  | vsqrt (u : Issue) (f : Fields)
  /-- VMIN (R399). -/
  | vmin (u : Issue) (f : Fields)
  /-- VMAX (R399). -/
  | vmax (u : Issue) (f : Fields)
  /-- VMINN (R399). -/
  | vminn (u : Issue) (f : Fields)
  /-- VMAXN (R399). -/
  | vmaxn (u : Issue) (f : Fields)
  /-- VRINT (R399). -/
  | vrint (u : Issue) (f : Fields)
  /-- VCMP (R400). -/
  | vcmp (u : Issue) (f : Fields)
  /-- VEXP2 (R401). -/
  | vexp2 (u : Issue) (f : Fields)
  /-- VRCP (R401). -/
  | vrcp (u : Issue) (f : Fields)
  /-- VRSQ (R401). -/
  | vrsq (u : Issue) (f : Fields)
  /-- VLOG2 (R401). -/
  | vlog2 (u : Issue) (f : Fields)
  /-- VCVT (R806). -/
  | vcvt (u : Issue) (f : Fields)
  /-- VIADD (R405). -/
  | viadd (u : Issue) (f : Fields)
  /-- VISUB (R405). -/
  | visub (u : Issue) (f : Fields)
  /-- VIMUL (R405). -/
  | vimul (u : Issue) (f : Fields)
  /-- VAND (R405). -/
  | vand (u : Issue) (f : Fields)
  /-- VOR (R405). -/
  | vor (u : Issue) (f : Fields)
  /-- VXOR (R405). -/
  | vxor (u : Issue) (f : Fields)
  /-- VSHL (R405). -/
  | vshl (u : Issue) (f : Fields)
  /-- VSHR (R405). -/
  | vshr (u : Issue) (f : Fields)
  /-- VSRA (R405). -/
  | vsra (u : Issue) (f : Fields)
  /-- VIMIN (R405). -/
  | vimin (u : Issue) (f : Fields)
  /-- VIMAX (R405). -/
  | vimax (u : Issue) (f : Fields)
  /-- VSEL (R405). -/
  | vsel (u : Issue) (f : Fields)
  /-- VMOV (R405). -/
  | vmov (u : Issue) (f : Fields)
  /-- VRSUM (R406). -/
  | vrsum (u : Issue) (f : Fields)
  /-- VRMAX (R406). -/
  | vrmax (u : Issue) (f : Fields)
  /-- VRMIN (R406). -/
  | vrmin (u : Issue) (f : Fields)
  /-- VPERM (R406). -/
  | vperm (u : Issue) (f : Fields)
  /-- VEXT (R406). -/
  | vext (u : Issue) (f : Fields)
  /-- VINS (R406). -/
  | vins (u : Issue) (f : Fields)
  /-- PLOG (R406). -/
  | plog (u : Issue) (f : Fields)
  /-- PSET (R406). -/
  | pset (u : Issue) (f : Fields)
  /-- PGET (R406). -/
  | pget (u : Issue) (f : Fields)
  /-- ELD (R49). -/
  | eld (u : Issue) (f : Fields)
  /-- EWS (R63). -/
  | ews (u : Issue) (f : Fields)
  /-- EDR (R74). -/
  | edr (u : Issue) (f : Fields)
  /-- ECF (R48). -/
  | ecf (u : Issue) (f : Fields)
  /-- RCX (R411). -/
  | rcx (u : Issue) (f : Fields)
  /-- LDF (R414). -/
  | ldf (u : Issue) (f : Fields)
  /-- STF (R414). -/
  | stf (u : Issue) (f : Fields)
  /-- LDC (R414). -/
  | ldc (u : Issue) (f : Fields)
  /-- STC (R414). -/
  | stc (u : Issue) (f : Fields)
  /-- RED (R415). -/
  | red (u : Issue) (f : Fields)
  /-- CHUCK (R199). -/
  | chuck (u : Issue) (f : Fields)
  /-- UNCHUCK (R202). -/
  | unchuck (u : Issue) (f : Fields)
  /-- CWB (R414). -/
  | cwb (u : Issue) (f : Fields)
  /-- LDS (R414). -/
  | lds (u : Issue) (f : Fields)
  /-- STS (R414). -/
  | sts (u : Issue) (f : Fields)
  /-- HST (R416). -/
  | hst (u : Issue) (f : Fields)
  /-- SRX (R418). -/
  | srx (u : Issue) (f : Fields)
  /-- STX (R418). -/
  | stx (u : Issue) (f : Fields)
  /-- SWT (R418). -/
  | swt (u : Issue) (f : Fields)
  /-- HSET (R418). -/
  | hset (u : Issue) (f : Fields)
  /-- ACFG (R421). -/
  | acfg (u : Issue) (f : Fields)
  /-- ASTART (R421). -/
  | astart (u : Issue) (f : Fields)
  /-- TMV (R423). -/
  | tmv (u : Issue) (f : Fields)
  /-- GLN (R424). -/
  | gln (u : Issue) (f : Fields)
  /-- GWT (R485). -/
  | gwt (u : Issue) (f : Fields)
  /-- GNOP (R455). -/
  | gnop (g : GIssue) (f : Fields)
  /-- BRA (R455). -/
  | bra (g : GIssue) (f : Fields)
  /-- BRU (R455). -/
  | bru (g : GIssue) (f : Fields)
  /-- BRD (R467). -/
  | brd (g : GIssue) (f : Fields)
  /-- RCV (R469). -/
  | rcv (g : GIssue) (f : Fields)
  /-- GEXIT (R471). -/
  | gexit (g : GIssue) (f : Fields)
  /-- GFENCE (R459). -/
  | gfence (g : GIssue) (f : Fields)
  /-- IADD (R455). -/
  | iadd (g : GIssue) (f : Fields)
  /-- ISUB (R455). -/
  | isub (g : GIssue) (f : Fields)
  /-- IMUL (R455). -/
  | imul (g : GIssue) (f : Fields)
  /-- GROUP_AND (R455). -/
  | groupAnd (g : GIssue) (f : Fields)
  /-- GROUP_OR (R455). -/
  | groupOr (g : GIssue) (f : Fields)
  /-- GROUP_XOR (R455). -/
  | groupXor (g : GIssue) (f : Fields)
  /-- GROUP_SHL (R455). -/
  | groupShl (g : GIssue) (f : Fields)
  /-- GROUP_SHR (R455). -/
  | groupShr (g : GIssue) (f : Fields)
  /-- GROUP_SRA (R455). -/
  | groupSra (g : GIssue) (f : Fields)
  /-- IMIN (R455). -/
  | imin (g : GIssue) (f : Fields)
  /-- IMAX (R455). -/
  | imax (g : GIssue) (f : Fields)
  /-- UMIN (R455). -/
  | umin (g : GIssue) (f : Fields)
  /-- UMAX (R455). -/
  | umax (g : GIssue) (f : Fields)
  /-- SEQ (R455). -/
  | seq (g : GIssue) (f : Fields)
  /-- SNE (R455). -/
  | sne (g : GIssue) (f : Fields)
  /-- GROUP_SLT (R455). -/
  | groupSlt (g : GIssue) (f : Fields)
  /-- GROUP_SLTU (R455). -/
  | groupSltu (g : GIssue) (f : Fields)
  /-- SEL (R455). -/
  | sel (g : GIssue) (f : Fields)
  /-- MOV (R455). -/
  | mov (g : GIssue) (f : Fields)
  /-- FADD (R456). -/
  | fadd (g : GIssue) (f : Fields)
  /-- FSUB (R456). -/
  | fsub (g : GIssue) (f : Fields)
  /-- FMUL (R456). -/
  | fmul (g : GIssue) (f : Fields)
  /-- FFMA (R456). -/
  | ffma (g : GIssue) (f : Fields)
  /-- FMIN (R456). -/
  | fmin (g : GIssue) (f : Fields)
  /-- FMAX (R456). -/
  | fmax (g : GIssue) (f : Fields)
  /-- FEQ (R455). -/
  | feq (g : GIssue) (f : Fields)
  /-- FLT (R455). -/
  | flt (g : GIssue) (f : Fields)
  /-- FLE (R455). -/
  | fle (g : GIssue) (f : Fields)
  /-- FEXP2 (R456). -/
  | fexp2 (g : GIssue) (f : Fields)
  /-- FRCP (R456). -/
  | frcp (g : GIssue) (f : Fields)
  /-- FLOG2 (R456). -/
  | flog2 (g : GIssue) (f : Fields)
  /-- I2F (R456). -/
  | i2f (g : GIssue) (f : Fields)
  /-- F2I (R456). -/
  | f2i (g : GIssue) (f : Fields)
  /-- F2H (R455). -/
  | f2h (g : GIssue) (f : Fields)
  /-- H2F (R455). -/
  | h2f (g : GIssue) (f : Fields)
  /-- UADD (R455). -/
  | uadd (g : GIssue) (f : Fields)
  /-- USUB (R455). -/
  | usub (g : GIssue) (f : Fields)
  /-- UMUL (R455). -/
  | umul (g : GIssue) (f : Fields)
  /-- UAND (R455). -/
  | uand (g : GIssue) (f : Fields)
  /-- UOR (R455). -/
  | uor (g : GIssue) (f : Fields)
  /-- UXOR (R455). -/
  | uxor (g : GIssue) (f : Fields)
  /-- USHL (R455). -/
  | ushl (g : GIssue) (f : Fields)
  /-- USHR (R455). -/
  | ushr (g : GIssue) (f : Fields)
  /-- USLT (R455). -/
  | uslt (g : GIssue) (f : Fields)
  /-- UMOV (R455). -/
  | umov (g : GIssue) (f : Fields)
  /-- UXT (R455). -/
  | uxt (g : GIssue) (f : Fields)
  /-- UBC (R455). -/
  | ubc (g : GIssue) (f : Fields)
  /-- VOTE (R455). -/
  | vote (g : GIssue) (f : Fields)
  /-- SHFL (R455). -/
  | shfl (g : GIssue) (f : Fields)
  /-- GLDS (R458). -/
  | glds (g : GIssue) (f : Fields)
  /-- GSTS (R458). -/
  | gsts (g : GIssue) (f : Fields)
  /-- GLDC (R458). -/
  | gldc (g : GIssue) (f : Fields)
  /-- GSTC (R458). -/
  | gstc (g : GIssue) (f : Fields)
  /-- GATOM (R478). -/
  | gatom (g : GIssue) (f : Fields)
  /-- GRED (R482). -/
  | gred (g : GIssue) (f : Fields)
  /-- GMMA (R475). -/
  | gmma (g : GIssue) (f : Fields)
  /-- GSPEC (R457). -/
  | gspec (g : GIssue) (f : Fields)
  /-- LAUNCH_START (R446). -/
  | launchStart (core : Fin 624)
  /-- PLANE_ENTRY (R76). -/
  | planeEntry (core : Fin 624) (e : Fin 2) (g : Fin 32)
  /-- WEIGHT_REREAD (R82). -/
  | weightReread (core : Fin 624) (e : Fin 2) (g : Fin 32)
  /-- TILE_COMBINE (R68). -/
  | tileCombine (core : Fin 624) (e : Fin 2)
  /-- TILE_RETIRE (R71). -/
  | tileRetire (core : Fin 624) (e : Fin 2) (cg : Fin 8)
  /-- REDUCE_TILE_ARRIVAL (R290). -/
  | reduceTileArrival (core : Fin 624) (src : ReduceSrc)
  /-- FLIT_ARRIVAL (R291). -/
  | flitArrival (stream : Nat)
  /-- CREDIT_RETURN (R293). -/
  | creditReturn (stream : Nat)
  /-- BEAT_RESTORATION (R147). -/
  | beatRestoration (core : Fin 624) (beat : Fin 65536)
  /-- FLD_SPLIT_WRITE (R134). -/
  | fldSplitWrite (port : Port) (core : Fin 624) (v : Word)
  /-- SPLIT_CHANGE_COMPLETE (R134). -/
  | splitChangeComplete (core : Fin 624)
  /-- REGION_TABLE_WRITE (R182). -/
  | regionTableWrite (port : Port) (i : Fin 16) (lim : Bool) (v : Word)
  /-- CACHE_PROBE (R226). -/
  | cacheProbe (stack : Fin 4) (v : Word)
  /-- FLUSH_WRITE_BACK (R227). -/
  | flushWriteBack (stack : Fin 4) (v : Word)
  /-- FLUSH_WRITE_BACK_INVALIDATE (R227). -/
  | flushWriteBackInvalidate (stack : Fin 4) (v : Word)
  /-- FLUSH_INVALIDATE (R227). -/
  | flushInvalidate (stack : Fin 4) (v : Word)
  /-- FLUSH_COMPLETE (R227). -/
  | flushComplete (stack : Fin 4)
  /-- SLICE_REQUEST (R220). -/
  | sliceRequest (idx : Nat)
  /-- LINE_FILL (R207). -/
  | lineFill (line : Nat)
  /-- RED_APPLY (R208). -/
  | redApply (line : Nat)
  /-- SKIM_DROP (R194). -/
  | skimDrop (line : Nat)
  /-- WRITE_BACK_ISSUE (R813). -/
  | writeBackIssue (line : Nat)
  /-- WRITE_BACK_ACK (R212). -/
  | writeBackAck (line : Nat)
  /-- MEMORY_READ (R239). -/
  | memoryRead (ctl : Fin 24) (idx : Nat)
  /-- MEMORY_WRITE (R246). -/
  | memoryWrite (ctl : Fin 24) (idx : Nat)
  /-- CONTROLLER_LEVEL_UPDATE (R272). -/
  | controllerLevelUpdate (ctl : Fin 24)
  /-- CLASS_STEP_DECAY (R274). -/
  | classStepDecay (req : Nat) (cls : Fin 8)
  /-- PATROL_SCRUB (R247). -/
  | patrolScrub (flit : Nat)
  /-- CALIBRATION_WINDOW_OPEN (R679). -/
  | calibrationWindowOpen (ctl : Fin 24)
  /-- CALIBRATION_WINDOW_CLOSE (R276). -/
  | calibrationWindowClose (ctl : Fin 24)
  /-- CHUNK_FILL_COMPLETE (R249). -/
  | chunkFillComplete (chunk : Fin 32)
  /-- DESCRIPTOR_START (R258). -/
  | descriptorStart (m : Fin 16) (q : Fin 4)
  /-- DESCRIPTOR_COPY (R255). -/
  | descriptorCopy (m : Fin 16) (q : Fin 4) (idx : Nat)
  /-- DESCRIPTOR_RELEASE (R264). -/
  | descriptorRelease (m : Fin 16) (q : Fin 4) (idx : Nat)
  /-- DESCRIPTOR_FENCE (R255). -/
  | descriptorFence (m : Fin 16) (q : Fin 4) (idx : Nat)
  /-- PEERW (R568). -/
  | peerw (m : Fin 16) (q : Fin 4) (idx : Nat)
  /-- DESCRIPTOR_COMPLETE (R260). -/
  | descriptorComplete (m : Fin 16) (q : Fin 4) (idx : Nat)
  /-- WACK_TIMEOUT (R572). -/
  | wackTimeout (m : Fin 16) (q : Fin 4) (idx : Nat)
  /-- WAVE_START (R300). -/
  | waveStart (prefill : Bool)
  /-- WAVE_BOUNDARY (R304). -/
  | waveBoundary (sampled : List (Fin 8 × BitVec 32))
  /-- BACKFILL_ISSUE (R308). -/
  | backfillIssue (core : Fin 624) (e : Fin 2)
  /-- GAP_END (R394). -/
  | gapEnd (core : Fin 624)
  /-- CHECKPOINT_COMMIT (R643). -/
  | checkpointCommit (wave : BitVec 48) (layer : Fin 256)
  /-- LAYER_REPLAY (R647). -/
  | layerReplay (wave : BitVec 48) (layer : LayerStall)
  /-- PAGE_REGENERATION (R651). -/
  | pageRegeneration (page : BitVec 24)
  /-- DEGRADED_MEASUREMENT (R316). -/
  | degradedMeasurement (period : BitVec 32)
  /-- KV_APPEND (R343). -/
  | kvAppend (q : Fin 96) (lane : Fin 8) (key : List (BitVec 16)) (val : List (BitVec 16))
  /-- STAGED_PAGE_ATTEND (R363). -/
  | stagedPageAttend (q : Fin 96) (x : StagedPage)
  /-- PARTIAL_MERGE (R339). -/
  | partialMerge (q : Fin 96)
  /-- RESERVE_TOP_UP (R352). -/
  | reserveTopUp (q : Fin 96)
  /-- PAGE_DEMOTION (R365). -/
  | pageDemotion (cluster : Fin 48)
  /-- DEMOTION_COMPLETE (R365). -/
  | demotionComplete (page : BitVec 24)
  /-- CORE_FAILOVER (R656). -/
  | coreFailover (core : Fin 624) (stall : BitVec 48)
  /-- MISSED_HEARTBEAT (R655). -/
  | missedHeartbeat (core : Fin 624)
  /-- PLANNED_FAILOVER (R661). -/
  | plannedFailover (core : Fin 624)
  /-- PLANNED_FAILOVER_SWITCH (R661). -/
  | plannedFailoverSwitch (cluster : Fin 48) (stall : BitVec 48)
  /-- ROTATION (R660). -/
  | rotation (cluster : Fin 48)
  /-- FIELD_LOSS (R663). -/
  | fieldLoss (core : Fin 624) (stall : BitVec 48)
  /-- FLIT_PARITY_FAILURE (R630). -/
  | flitParityFailure (path : NetPath)
  /-- RING_EDGE_FAILURE (R35). -/
  | ringEdgeFailure (edge : Fin 4)
  /-- CORE_RESET (R86). -/
  | coreReset (core : Fin 624)
  /-- BASE_LOGIC_RESET (R671). -/
  | baseLogicReset (stack : Fin 4) (stall : BitVec 48)
  /-- FORCED_BASE_LOGIC_RESET (R672). -/
  | forcedBaseLogicReset (stack : Fin 4)
  /-- STACK_RESET (R669). -/
  | stackReset (stack : Fin 4)
  /-- WHOLE_DEVICE_RECOVERY (R673). -/
  | wholeDeviceRecovery
  /-- RECOVERY_RESUME (R675). -/
  | recoveryResume (stall : BitVec 48)
  /-- HANG (R769). -/
  | hang
  /-- CHURN (R678). -/
  | churn (c : ChurnSample)
  /-- LIFE_RECORD_WRITE (R779). -/
  | lifeRecordWrite
  /-- POWER_WINDOW (R704). -/
  | powerWindow (m : PowerSample)
  /-- CHATTER (R695). -/
  | chatter (stack : Fin 4)
  /-- CHATTER_SKIP_END (R695). -/
  | chatterSkipEnd (stack : Fin 4)
  /-- MODULE_LOSS (R711). -/
  | moduleLoss (mdl : Fin 16)
  /-- THERMAL_TRIP (R715). -/
  | thermalTrip (die : Fin 12) (temp : BitVec 16)
  /-- HINT_LEAD_EXPIRY (R708). -/
  | hintLeadExpiry
  /-- FLASH_WRITE_RESUME (R718). -/
  | flashWriteResume
  /-- FLASH_RECORD_WRITE (R609). -/
  | flashRecordWrite (settings : Bool)
  /-- PLL_LOSS_OF_LOCK (R26). -/
  | pllLossOfLock (loss : LockLoss)
  /-- RESET_L_ASSERT (R792). -/
  | resetLAssert (auxCycles : Nat)
  /-- RESET_L_DEASSERT (R589). -/
  | resetLDeassert (auxCycles : Nat)
  /-- PWRGD_IN_LOW (R790). -/
  | pwrgdInLow (auxCycles : Nat)
  /-- PWRGD_IN_HIGH (R790). -/
  | pwrgdInHigh (auxCycles : Nat)
  /-- PERST_ASSERT (R540). -/
  | perstAssert (port : Port) (auxCycles : Nat)
  /-- PERST_DEASSERT (R789). -/
  | perstDeassert (port : Port) (auxCycles : Nat)
  /-- BRINGUP_STAGE_COMPLETE (R593). -/
  | bringupStageComplete (r : StageResult)
  /-- HOST_LINK_DOWN (R539). -/
  | hostLinkDown (port : Port)
  /-- LEASE_TIMEOUT (R543). -/
  | leaseTimeout
  /-- FRAME_RECEIVE (R565). -/
  | frameReceive (quad : Fin 8) (frame : List Byte)
  /-- LACK_TIMEOUT (R566). -/
  | lackTimeout (quad : Fin 8)
  /-- RETRAIN_COMPLETE (R566). -/
  | retrainComplete (quad : Fin 8) (ok : Bool) (rate : BitVec 2) (width : BitVec 2)
  /-- SUBMISSION_DOORBELL (R507). -/
  | submissionDoorbell (i : Fin 64) (w : BellWrite) (entries : List HostCmd)
  /-- COMPLETION_DOORBELL (R547). -/
  | completionDoorbell (i : Fin 64) (w : BellWrite)
  /-- OUTPUT_DOORBELL (R645). -/
  | outputDoorbell (i : Fin 256) (w : BellWrite)
  /-- EVENT_DOORBELL (R511). -/
  | eventDoorbell (i : Fin 2) (w : BellWrite)
  /-- RING_ENABLE (R512). -/
  | ringEnable (port : Port) (r : RingId) (v : Word)
  /-- RING_DISABLE (R512). -/
  | ringDisable (port : Port) (r : RingId) (v : Word)
  /-- TRACE_RING_ENABLE (R778). -/
  | traceRingEnable (port : Port) (v : Word)
  /-- LOAD (R519). -/
  | hostLoad (c : HostCmd) (img : Image) (readOk : Bool)
  /-- UNLOAD (R520). -/
  | hostUnload (c : HostCmd)
  /-- OPEN (R521). -/
  | hostOpen (c : HostCmd)
  /-- CLOSE (R524). -/
  | hostClose (c : HostCmd)
  /-- FEED (R523): what the device reads in the buffer, text as bytes in byte mode, and otherwise token numbers, each stored in
  4 bytes, lowest byte first. -/
  | hostFeed (c : HostCmd) (data : List Byte) (readOk : Bool) (tokens : List (BitVec 32))
  /-- HOST_HINT (R709). -/
  | hostHint (c : HostCmd)
  /-- TIER (R527). -/
  | hostTier (c : HostCmd) (descs : List DescWords) (readOk : Bool)
  /-- LEND (R267). -/
  | hostLend (c : HostCmd)
  /-- RECLAIM (R269). -/
  | hostReclaim (c : HostCmd)
  /-- LEASE_QUERY (R516). -/
  | hostLeaseQuery (c : HostCmd)
  /-- LEASE_TAKE (R543). -/
  | hostLeaseTake (c : HostCmd)
  /-- LEASE_RELEASE (R543). -/
  | hostLeaseRelease (c : HostCmd)
  /-- LEASE_RENEW (R543). -/
  | hostLeaseRenew (c : HostCmd)
  /-- SAVE (R525). -/
  | hostSave (c : HostCmd)
  /-- DROP (R525). -/
  | hostDrop (c : HostCmd)
  /-- XREAD (R528). -/
  | hostXread (c : HostCmd)
  /-- XWRITE (R528). -/
  | hostXwrite (c : HostCmd) (data : List Byte) (readOk : Bool)
  /-- SYNC (R516). -/
  | hostSync (c : HostCmd)
  /-- SELFTEST (R662). -/
  | hostSelftest (c : HostCmd) (failed : List (Fin 624)) (pipesFailed : List (Fin 96)) (links : List (Fin 4 × Fin 17)) (bonds : List (Nat × Nat))
  /-- CAP (R701). -/
  | hostCap (c : HostCmd)
  /-- SETTIME (R776). -/
  | hostSettime (c : HostCmd)
  /-- DUMPREAD (R774). -/
  | hostDumpread (c : HostCmd)
  /-- BMC_CAP (R701). -/
  | bmcCap (watts : BitVec 16)
  /-- HDM_READ (R537). -/
  | hdmRead (port : Port) (pa : BitVec 48) (len : Nat)
  /-- HDM_WRITE (R537). -/
  | hdmWrite (port : Port) (pa : BitVec 48) (mask : BitVec 64) (data : List Byte)
  /-- VMODE_WRITE (R443). -/
  | vmodeWrite (port : Port) (core : Fin 624) (v : Word)
  /-- WAVE_CTL_WRITE (R322). -/
  | waveCtlWrite (port : Port) (v : Word)
  /-- FLIP_ARM (R686). -/
  | flipArm (port : Port) (v : Word)
  /-- WDOG_DUMP (R770). -/
  | wdogDump (port : Port) (v : Word)
  /-- DUMP_RELEASE (R771). -/
  | dumpRelease (port : Port) (v : Word)
  /-- MBX_WRITE (R618). -/
  | mbxWrite (port : Port) (v : Word)
  /-- MBX_COMMIT (R618). -/
  | mbxCommit (port : Port) (v : Word) (verified : Bool)
  /-- MBX_SELECT (R618). -/
  | mbxSelect (port : Port) (v : Word)
  /-- LANE_NEXT_WRITE (R585). -/
  | laneNextWrite (port : Port) (v : Word)
  /-- CHK_CONFIG_WRITE (R582). -/
  | chkConfigWrite (port : Port) (n : Fin 16) (reg : Fin 5) (v : Word)
  /-- GRN_PROBE (R628). -/
  | grnProbe (port : Port) (v : Word)
  /-- REGISTER_WRITE (R12). -/
  | registerWrite (port : Port) (off : Nat) (bytes : Nat) (a : RegAccess)
  /-- GET_VERSION (R740). -/
  | getVersion (t : SpdmPort)
  /-- GET_CAPABILITIES (R740). -/
  | getCapabilities (t : SpdmPort)
  /-- NEGOTIATE_ALGORITHMS (R740). -/
  | negotiateAlgorithms (t : SpdmPort) (a : SpdmAlgs)
  /-- GET_DIGESTS (R740). -/
  | getDigests (t : SpdmPort)
  /-- GET_CERTIFICATE (R737). -/
  | getCertificate (t : SpdmPort) (slot : BitVec 8) (off : Nat) (len : Nat)
  /-- CHALLENGE (R740). -/
  | challenge (t : SpdmPort) (slot : BitVec 8) (nonce : List Byte)
  /-- GET_MEASUREMENTS (R741). -/
  | getMeasurements (t : SpdmPort) (idx : BitVec 8) (nonce : List Byte)
  /-- KEY_EXCHANGE (R740). -/
  | keyExchange (t : SpdmPort) (group : SpdmGroup) (slot : BitVec 8)
  /-- FINISH (R740). -/
  | finish (t : SpdmPort) (sid : Nat) (ok : Bool)
  /-- END_SESSION (R740). -/
  | endSession (t : SpdmPort) (sid : Nat)
  /-- KEY_UPDATE (R740). -/
  | keyUpdate (t : SpdmPort) (sid : Nat)
  /-- HEARTBEAT (R740). -/
  | heartbeat (t : SpdmPort) (sid : Nat)
  /-- VENDOR_DEFINED_REQUEST (R743). -/
  | vendorDefinedRequest (t : SpdmPort) (sid : Nat) (cacheMemKeys : Bool)
  /-- REFCLK_PRESENT (R589). -/
  | refclkPresent
  /-- HOST_LINK_UP (R541). -/
  | hostLinkUp (port : Port)
  /-- VAUX_LOSS (R692). -/
  | vauxLoss
  /-- MSI_X_MESSAGE (R510). -/
  | msiXMessage (vec : Fin 66)
  /-- HOST_SNOOP (R495). -/
  | hostSnoop (port : Port) (addr : BitVec 64)
  /-- SMBUS_FALLBACK (R797). -/
  | smbusFallback
  /-- MCTP_FIRMWARE_IMAGE (R606). -/
  | mctpFirmwareImage (bytes : List Byte)
  /-- MCTP_MESSAGE_COLLECT (R798). -/
  | mctpMessageCollect
  deriving DecidableEq, Repr

end Sys2Proof
end

