-- ==== Sys2Proof/Decode.lean ====
section
/-!
DEFINITION. Decode.lean: the table of commands gives no row any bits, so no word spells a command; and the instruction words
of station code (R386 to R424) and of thread groups (R453 to R458), with their encoder.
-/
namespace Sys2Proof

/-- The command that a word spells by the table's bits: no row has bits, so none. -/
def decodeTableWord (_nbits _w : Nat) : Option Instr := none

/-! Instruction words (R386). -/

/-- The operand fields of an instruction word: DST, SRCA, SRCB, IMM. -/
def wordFields (w : BitVec 64) : Fields :=
  { dst := w.extractLsb' 46 6, srca := w.extractLsb' 40 6, srcb := w.extractLsb' 34 6, imm := w.extractLsb' 0 34 }

/-- MAJOR and MINOR of an instruction word: 64 times MAJOR plus MINOR. -/
def wordCode (w : BitVec 64) : BitVec 12 := w.extractLsb' 52 12

/-- The word of a code and operand fields. -/
def wordOf (code : BitVec 12) (f : Fields) : BitVec 64 := code ++ f.dst ++ f.srca ++ f.srcb ++ f.imm

/-- The station-code instruction of a code; none for a reserved major or minor code (R388 to R424). -/
def stationInstr (u : Issue) (code : BitVec 12) (f : Fields) : Option Instr :=
  match code with
  | 0x000 => some (.nop u f)
  | 0x001 => some (.br u f)
  | 0x002 => some (.beq u f)
  | 0x003 => some (.bne u f)
  | 0x004 => some (.blt u f)
  | 0x005 => some (.bge u f)
  | 0x006 => some (.bltu u f)
  | 0x007 => some (.bgeu u f)
  | 0x008 => some (.bpz u f)
  | 0x009 => some (.bpnz u f)
  | 0x00A => some (.jal u f)
  | 0x00B => some (.jr u f)
  | 0x010 => some (.fence u f)
  | 0x040 => some (.wnext u f)
  | 0x041 => some (.wbar u f)
  | 0x042 => some (.gap u f)
  | 0x043 => some (.hint u f)
  | 0x100 => some (.add u f)
  | 0x101 => some (.sub u f)
  | 0x102 => some (.mul u f)
  | 0x103 => some (.mulh u f)
  | 0x104 => some (.and u f)
  | 0x105 => some (.or u f)
  | 0x106 => some (.xor u f)
  | 0x107 => some (.shl u f)
  | 0x108 => some (.shr u f)
  | 0x109 => some (.sra u f)
  | 0x10A => some (.slt u f)
  | 0x10B => some (.sltu u f)
  | 0x10C => some (.min u f)
  | 0x10D => some (.max u f)
  | 0x10E => some (.movh u f)
  | 0x180 => some (.mrs u f)
  | 0x181 => some (.msr u f)
  | 0x200 => some (.vadd u f)
  | 0x201 => some (.vsub u f)
  | 0x202 => some (.vmul u f)
  | 0x203 => some (.vfma u f)
  | 0x204 => some (.vfms u f)
  | 0x205 => some (.vdiv u f)
  | 0x206 => some (.vsqrt u f)
  | 0x207 => some (.vmin u f)
  | 0x208 => some (.vmax u f)
  | 0x209 => some (.vminn u f)
  | 0x20A => some (.vmaxn u f)
  | 0x20E => some (.vrint u f)
  | 0x20F => some (.vcmp u f)
  | 0x210 => some (.vexp2 u f)
  | 0x211 => some (.vrcp u f)
  | 0x212 => some (.vrsq u f)
  | 0x213 => some (.vlog2 u f)
  | 0x240 => some (.vcvt u f)
  | 0x280 => some (.viadd u f)
  | 0x281 => some (.visub u f)
  | 0x282 => some (.vimul u f)
  | 0x283 => some (.vand u f)
  | 0x284 => some (.vor u f)
  | 0x285 => some (.vxor u f)
  | 0x286 => some (.vshl u f)
  | 0x287 => some (.vshr u f)
  | 0x288 => some (.vsra u f)
  | 0x289 => some (.vimin u f)
  | 0x28A => some (.vimax u f)
  | 0x28B => some (.vsel u f)
  | 0x28C => some (.vmov u f)
  | 0x2C0 => some (.vrsum u f)
  | 0x2C1 => some (.vrmax u f)
  | 0x2C2 => some (.vrmin u f)
  | 0x2C3 => some (.vperm u f)
  | 0x2C4 => some (.vext u f)
  | 0x2C5 => some (.vins u f)
  | 0x2C6 => some (.plog u f)
  | 0x2C7 => some (.pset u f)
  | 0x2C8 => some (.pget u f)
  | 0x400 => some (.eld u f)
  | 0x401 => some (.ews u f)
  | 0x402 => some (.edr u f)
  | 0x403 => some (.ecf u f)
  | 0x404 => some (.rcx u f)
  | 0x500 => some (.ldf u f)
  | 0x501 => some (.stf u f)
  | 0x540 => some (.ldc u f)
  | 0x541 => some (.stc u f)
  | 0x542 => some (.red u f)
  | 0x543 => some (.chuck u f)
  | 0x544 => some (.unchuck u f)
  | 0x545 => some (.cwb u f)
  | 0x580 => some (.lds u f)
  | 0x581 => some (.sts u f)
  | 0x5C0 => some (.hst u f)
  | 0x600 => some (.srx u f)
  | 0x601 => some (.stx u f)
  | 0x602 => some (.swt u f)
  | 0x603 => some (.hset u f)
  | 0x700 => some (.acfg u f)
  | 0x701 => some (.astart u f)
  | 0x740 => some (.tmv u f)
  | 0x800 => some (.gln u f)
  | 0x801 => some (.gwt u f)
  | _ => none

/-- The station-code instruction that a context reads from a word. -/
def decodeStation (u : Issue) (w : BitVec 64) : Option Instr := stationInstr u (wordCode w) (wordFields w)

/-- Context, code and fields of a station-code instruction; none for any other command. -/
def stationParts : Instr → Option (Issue × BitVec 12 × Fields)
  | .nop u f => some (u, 0x000, f)
  | .br u f => some (u, 0x001, f)
  | .beq u f => some (u, 0x002, f)
  | .bne u f => some (u, 0x003, f)
  | .blt u f => some (u, 0x004, f)
  | .bge u f => some (u, 0x005, f)
  | .bltu u f => some (u, 0x006, f)
  | .bgeu u f => some (u, 0x007, f)
  | .bpz u f => some (u, 0x008, f)
  | .bpnz u f => some (u, 0x009, f)
  | .jal u f => some (u, 0x00A, f)
  | .jr u f => some (u, 0x00B, f)
  | .fence u f => some (u, 0x010, f)
  | .wnext u f => some (u, 0x040, f)
  | .wbar u f => some (u, 0x041, f)
  | .gap u f => some (u, 0x042, f)
  | .hint u f => some (u, 0x043, f)
  | .add u f => some (u, 0x100, f)
  | .sub u f => some (u, 0x101, f)
  | .mul u f => some (u, 0x102, f)
  | .mulh u f => some (u, 0x103, f)
  | .and u f => some (u, 0x104, f)
  | .or u f => some (u, 0x105, f)
  | .xor u f => some (u, 0x106, f)
  | .shl u f => some (u, 0x107, f)
  | .shr u f => some (u, 0x108, f)
  | .sra u f => some (u, 0x109, f)
  | .slt u f => some (u, 0x10A, f)
  | .sltu u f => some (u, 0x10B, f)
  | .min u f => some (u, 0x10C, f)
  | .max u f => some (u, 0x10D, f)
  | .movh u f => some (u, 0x10E, f)
  | .mrs u f => some (u, 0x180, f)
  | .msr u f => some (u, 0x181, f)
  | .vadd u f => some (u, 0x200, f)
  | .vsub u f => some (u, 0x201, f)
  | .vmul u f => some (u, 0x202, f)
  | .vfma u f => some (u, 0x203, f)
  | .vfms u f => some (u, 0x204, f)
  | .vdiv u f => some (u, 0x205, f)
  | .vsqrt u f => some (u, 0x206, f)
  | .vmin u f => some (u, 0x207, f)
  | .vmax u f => some (u, 0x208, f)
  | .vminn u f => some (u, 0x209, f)
  | .vmaxn u f => some (u, 0x20A, f)
  | .vrint u f => some (u, 0x20E, f)
  | .vcmp u f => some (u, 0x20F, f)
  | .vexp2 u f => some (u, 0x210, f)
  | .vrcp u f => some (u, 0x211, f)
  | .vrsq u f => some (u, 0x212, f)
  | .vlog2 u f => some (u, 0x213, f)
  | .vcvt u f => some (u, 0x240, f)
  | .viadd u f => some (u, 0x280, f)
  | .visub u f => some (u, 0x281, f)
  | .vimul u f => some (u, 0x282, f)
  | .vand u f => some (u, 0x283, f)
  | .vor u f => some (u, 0x284, f)
  | .vxor u f => some (u, 0x285, f)
  | .vshl u f => some (u, 0x286, f)
  | .vshr u f => some (u, 0x287, f)
  | .vsra u f => some (u, 0x288, f)
  | .vimin u f => some (u, 0x289, f)
  | .vimax u f => some (u, 0x28A, f)
  | .vsel u f => some (u, 0x28B, f)
  | .vmov u f => some (u, 0x28C, f)
  | .vrsum u f => some (u, 0x2C0, f)
  | .vrmax u f => some (u, 0x2C1, f)
  | .vrmin u f => some (u, 0x2C2, f)
  | .vperm u f => some (u, 0x2C3, f)
  | .vext u f => some (u, 0x2C4, f)
  | .vins u f => some (u, 0x2C5, f)
  | .plog u f => some (u, 0x2C6, f)
  | .pset u f => some (u, 0x2C7, f)
  | .pget u f => some (u, 0x2C8, f)
  | .eld u f => some (u, 0x400, f)
  | .ews u f => some (u, 0x401, f)
  | .edr u f => some (u, 0x402, f)
  | .ecf u f => some (u, 0x403, f)
  | .rcx u f => some (u, 0x404, f)
  | .ldf u f => some (u, 0x500, f)
  | .stf u f => some (u, 0x501, f)
  | .ldc u f => some (u, 0x540, f)
  | .stc u f => some (u, 0x541, f)
  | .red u f => some (u, 0x542, f)
  | .chuck u f => some (u, 0x543, f)
  | .unchuck u f => some (u, 0x544, f)
  | .cwb u f => some (u, 0x545, f)
  | .lds u f => some (u, 0x580, f)
  | .sts u f => some (u, 0x581, f)
  | .hst u f => some (u, 0x5C0, f)
  | .srx u f => some (u, 0x600, f)
  | .stx u f => some (u, 0x601, f)
  | .swt u f => some (u, 0x602, f)
  | .hset u f => some (u, 0x603, f)
  | .acfg u f => some (u, 0x700, f)
  | .astart u f => some (u, 0x701, f)
  | .tmv u f => some (u, 0x740, f)
  | .gln u f => some (u, 0x800, f)
  | .gwt u f => some (u, 0x801, f)
  | _ => none

/-- The word of a station-code instruction. -/
def encodeStation (i : Instr) : Option (BitVec 64) := (stationParts i).map fun x => wordOf x.2.1 x.2.2

/-- The group instruction of a code; none for a reserved one (R453, R455). -/
def groupInstr (g : GIssue) (code : BitVec 12) (f : Fields) : Option Instr :=
  match code with
  | 0xC00 => some (.gnop g f)
  | 0xC01 => some (.bra g f)
  | 0xC02 => some (.bru g f)
  | 0xC03 => some (.brd g f)
  | 0xC04 => some (.rcv g f)
  | 0xC05 => some (.gexit g f)
  | 0xC06 => some (.gfence g f)
  | 0xC40 => some (.iadd g f)
  | 0xC41 => some (.isub g f)
  | 0xC42 => some (.imul g f)
  | 0xC43 => some (.groupAnd g f)
  | 0xC44 => some (.groupOr g f)
  | 0xC45 => some (.groupXor g f)
  | 0xC46 => some (.groupShl g f)
  | 0xC47 => some (.groupShr g f)
  | 0xC48 => some (.groupSra g f)
  | 0xC49 => some (.imin g f)
  | 0xC4A => some (.imax g f)
  | 0xC4B => some (.umin g f)
  | 0xC4C => some (.umax g f)
  | 0xC4D => some (.seq g f)
  | 0xC4E => some (.sne g f)
  | 0xC4F => some (.groupSlt g f)
  | 0xC50 => some (.groupSltu g f)
  | 0xC51 => some (.sel g f)
  | 0xC52 => some (.mov g f)
  | 0xC80 => some (.fadd g f)
  | 0xC81 => some (.fsub g f)
  | 0xC82 => some (.fmul g f)
  | 0xC83 => some (.ffma g f)
  | 0xC84 => some (.fmin g f)
  | 0xC85 => some (.fmax g f)
  | 0xC86 => some (.feq g f)
  | 0xC87 => some (.flt g f)
  | 0xC88 => some (.fle g f)
  | 0xC89 => some (.fexp2 g f)
  | 0xC8A => some (.frcp g f)
  | 0xC8B => some (.flog2 g f)
  | 0xC8C => some (.i2f g f)
  | 0xC8D => some (.f2i g f)
  | 0xC8E => some (.f2h g f)
  | 0xC8F => some (.h2f g f)
  | 0xCC0 => some (.uadd g f)
  | 0xCC1 => some (.usub g f)
  | 0xCC2 => some (.umul g f)
  | 0xCC3 => some (.uand g f)
  | 0xCC4 => some (.uor g f)
  | 0xCC5 => some (.uxor g f)
  | 0xCC6 => some (.ushl g f)
  | 0xCC7 => some (.ushr g f)
  | 0xCC8 => some (.uslt g f)
  | 0xCC9 => some (.umov g f)
  | 0xCCA => some (.uxt g f)
  | 0xCCB => some (.ubc g f)
  | 0xCCC => some (.vote g f)
  | 0xD00 => some (.shfl g f)
  | 0xD40 => some (.glds g f)
  | 0xD41 => some (.gsts g f)
  | 0xD42 => some (.gldc g f)
  | 0xD43 => some (.gstc g f)
  | 0xD44 => some (.gatom g f)
  | 0xD45 => some (.gred g f)
  | 0xD80 => some (.gmma g f)
  | 0xD81 => some (.gspec g f)
  | _ => none

/-- The group instruction that a subgroup reads from a word. -/
def decodeGroup (g : GIssue) (w : BitVec 64) : Option Instr := groupInstr g (wordCode w) (wordFields w)

/-- Subgroup, code and fields of a group instruction; none for any other command. -/
def groupParts : Instr → Option (GIssue × BitVec 12 × Fields)
  | .gnop g f => some (g, 0xC00, f)
  | .bra g f => some (g, 0xC01, f)
  | .bru g f => some (g, 0xC02, f)
  | .brd g f => some (g, 0xC03, f)
  | .rcv g f => some (g, 0xC04, f)
  | .gexit g f => some (g, 0xC05, f)
  | .gfence g f => some (g, 0xC06, f)
  | .iadd g f => some (g, 0xC40, f)
  | .isub g f => some (g, 0xC41, f)
  | .imul g f => some (g, 0xC42, f)
  | .groupAnd g f => some (g, 0xC43, f)
  | .groupOr g f => some (g, 0xC44, f)
  | .groupXor g f => some (g, 0xC45, f)
  | .groupShl g f => some (g, 0xC46, f)
  | .groupShr g f => some (g, 0xC47, f)
  | .groupSra g f => some (g, 0xC48, f)
  | .imin g f => some (g, 0xC49, f)
  | .imax g f => some (g, 0xC4A, f)
  | .umin g f => some (g, 0xC4B, f)
  | .umax g f => some (g, 0xC4C, f)
  | .seq g f => some (g, 0xC4D, f)
  | .sne g f => some (g, 0xC4E, f)
  | .groupSlt g f => some (g, 0xC4F, f)
  | .groupSltu g f => some (g, 0xC50, f)
  | .sel g f => some (g, 0xC51, f)
  | .mov g f => some (g, 0xC52, f)
  | .fadd g f => some (g, 0xC80, f)
  | .fsub g f => some (g, 0xC81, f)
  | .fmul g f => some (g, 0xC82, f)
  | .ffma g f => some (g, 0xC83, f)
  | .fmin g f => some (g, 0xC84, f)
  | .fmax g f => some (g, 0xC85, f)
  | .feq g f => some (g, 0xC86, f)
  | .flt g f => some (g, 0xC87, f)
  | .fle g f => some (g, 0xC88, f)
  | .fexp2 g f => some (g, 0xC89, f)
  | .frcp g f => some (g, 0xC8A, f)
  | .flog2 g f => some (g, 0xC8B, f)
  | .i2f g f => some (g, 0xC8C, f)
  | .f2i g f => some (g, 0xC8D, f)
  | .f2h g f => some (g, 0xC8E, f)
  | .h2f g f => some (g, 0xC8F, f)
  | .uadd g f => some (g, 0xCC0, f)
  | .usub g f => some (g, 0xCC1, f)
  | .umul g f => some (g, 0xCC2, f)
  | .uand g f => some (g, 0xCC3, f)
  | .uor g f => some (g, 0xCC4, f)
  | .uxor g f => some (g, 0xCC5, f)
  | .ushl g f => some (g, 0xCC6, f)
  | .ushr g f => some (g, 0xCC7, f)
  | .uslt g f => some (g, 0xCC8, f)
  | .umov g f => some (g, 0xCC9, f)
  | .uxt g f => some (g, 0xCCA, f)
  | .ubc g f => some (g, 0xCCB, f)
  | .vote g f => some (g, 0xCCC, f)
  | .shfl g f => some (g, 0xD00, f)
  | .glds g f => some (g, 0xD40, f)
  | .gsts g f => some (g, 0xD41, f)
  | .gldc g f => some (g, 0xD42, f)
  | .gstc g f => some (g, 0xD43, f)
  | .gatom g f => some (g, 0xD44, f)
  | .gred g f => some (g, 0xD45, f)
  | .gmma g f => some (g, 0xD80, f)
  | .gspec g f => some (g, 0xD81, f)
  | _ => none

/-- The word of a group instruction. -/
def encodeGroup (i : Instr) : Option (BitVec 64) := (groupParts i).map fun x => wordOf x.2.1 x.2.2

end Sys2Proof
end

