-- ==== Sys2Proof/Config.lean ====
section
/-!
DEFINITION. Config.lean: what the spec leaves open. Every constant is opaque: no proof can see a value
of it, and a statement about it holds for every value.
-/
namespace Sys2Proof.Config

/-- The free values: the value the model takes where the spec names an effect but no value, indexed
by a counter of State so that each use is fresh (notes/assumptions/2.md). -/
opaque freeValue : Nat → BitVec 64

/-- The code an estimate returns before the bound of R401 is applied to it: kind (0 exp2, 1 reciprocal,
2 reciprocal square root, 3 log2), operand code (notes/assumptions/3.md). -/
opaque estimate : Nat → BitVec 32 → BitVec 32

/-- What a reduction over no active lane returns, a function of its operation (0 sum, 1 maximum, 2 minimum), the RND and SAT
fields of VMODE and the lanes of its operand (R123, R406; notes/assumptions/11.md). -/
opaque emptyReduce : Nat → Nat → List (BitVec 32) → BitVec 32

/-- Whether a fused multiply-add of zero, infinity and a quiet NaN sets INV: IEEE 754-2019 leaves it to the
implementation (notes/assumptions/3.md). -/
opaque fmaNanInvalid : Bool

/-- The bytes a signature, a digest chain or a nonce of the seal engine consists of: subject and index
(notes/assumptions/2.md). -/
opaque sealByte : Nat → Nat → BitVec 8

/-- The length of the DER encryption-key certificate (notes/assumptions/2.md). -/
opaque certLength : Nat

/-- The bytes of a dump whose layout the spec does not give: number of the dump and offset (notes/assumptions/2.md). -/
opaque dumpByte : Nat → Nat → BitVec 8

/-- The token numbers that the tokeniser kernel makes of a text with the tokeniser tables of the VOCAB section: tables, text
(R285, R530; notes/assumptions/85.md). -/
opaque tokenise : List (BitVec 8) → List (BitVec 8) → List (BitVec 32)

/-- Yunaot's vendor ID, the device serial number of this device, and the 64-bit hash of an HBM4 stack's identification
(R499, R779; notes/assumptions/2.md). -/
opaque vendorId : BitVec 16
/-- See vendorId. -/
opaque serialNumber : BitVec 64
/-- See vendorId. -/
opaque idHash : Nat → BitVec 64

end Sys2Proof.Config
end

