-- ==== Sys2Proof/Machine/Bits.lean ====
section
/-!
DEFINITION. Bits.lean: bit fields, byte order and keyed tables, the helpers that every meaning uses.
-/
namespace Sys2Proof.Machine

/-- Bits hi down to lo of a number, as the spec writes [hi:lo]. -/
def bitsOf (n hi lo : Nat) : Nat := (n >>> lo) % 2 ^ (hi + 1 - lo)

/-- Bits hi down to lo of a 64-bit word. -/
def fieldOf (w : Word) (hi lo : Nat) : Nat := bitsOf w.toNat hi lo

/-- Bit i of a 64-bit word. -/
def bitOf (w : Word) (i : Nat) : Bool := w.getLsbD i

/-- A word whose bits hi down to lo are ones. -/
def maskOf (hi lo : Nat) : Word := BitVec.ofNat 64 ((2 ^ (hi + 1 - lo) - 1) <<< lo)

/-- The word w with bits hi down to lo replaced by v. -/
def putField (w : Word) (hi lo v : Nat) : Word :=
  (w &&& ~~~ maskOf hi lo) ||| (BitVec.ofNat 64 (v <<< lo) &&& maskOf hi lo)

/-- A field of IMM (R386). -/
def immBits (f : Fields) (hi lo : Nat) : Nat := bitsOf f.imm.toNat hi lo

/-- A bit of IMM (R386). -/
def immBit (f : Fields) (i : Nat) : Bool := f.imm.getLsbD i

/-- n read as a two's-complement number of w bits. -/
def signedOf (w n : Nat) : Int := (BitVec.ofNat w n).toInt

/-- n sign-extended from w bits to a 64-bit word. -/
def sext64 (w n : Nat) : Word := BitVec.ofInt 64 (signedOf w n)

/-- Saturate to 32 bits; the flag says that the value did not fit (R69, R205). -/
def sat32 (v : Int) : BitVec 32 × Bool :=
  if v > 2 ^ 31 - 1 then (0x7FFFFFFF#32, true)
  else if v < -(2 ^ 31) then (0x80000000#32, true)
  else (BitVec.ofInt 32 v, false)

/-- A condition as a number, 1 when it holds. -/
def flag (b : Bool) : Nat := if b then 1 else 0

/-- The n bytes of a number, lowest first (little-endian). -/
def leBytes : Nat → Nat → List Byte
  | 0, _ => []
  | n + 1, v => BitVec.ofNat 8 (v % 256) :: leBytes n (v / 256)

/-- The number that bytes, lowest first, spell (little-endian). -/
def leNat : List Byte → Nat
  | [] => 0
  | b :: bs => b.toNat + 256 * leNat bs

/-- The number of ones among the lowest n bits of v. -/
def onesIn : Nat → Nat → Nat
  | 0, _ => 0
  | n + 1, v => v % 2 + onesIn n (v / 2)

/-- The list cut or zero-padded to n bytes. -/
def padTo (n : Nat) (l : List Byte) : List Byte := (l ++ List.replicate n 0#8).take n

/-- A bit mask of w bits from the positions for which p holds. -/
def maskBy (w : Nat) (p : Nat → Bool) : BitVec w :=
  BitVec.ofNat w ((List.range w).foldl (fun acc i => acc + (if p i then 2 ^ i else 0)) 0)

/-- The value listed under a key. -/
def tabGet? {α : Type} : List (Nat × α) → Nat → Option α
  | [], _ => none
  | (k, v) :: t, key => if k = key then some v else tabGet? t key

/-- The value listed under a key, or the default of unlisted keys. -/
def tabGetD {α : Type} (t : List (Nat × α)) (key : Nat) (d : α) : α :=
  (tabGet? t key).getD d

/-- Insert or replace the value under a key; keys stay strictly ascending. -/
def tabSet {α : Type} : List (Nat × α) → Nat → α → List (Nat × α)
  | [], key, v => [(key, v)]
  | (k, w) :: t, key, v =>
    if key < k then (key, v) :: (k, w) :: t
    else if key = k then (key, v) :: t
    else (k, w) :: tabSet t key v

/-- Remove a key. -/
def tabErase {α : Type} (t : List (Nat × α)) (key : Nat) : List (Nat × α) := t.filter fun x => decide (x.1 ≠ key)

/-- Insert or replace a value, or remove the key where the value is the default. -/
def tabPut {α : Type} [DecidableEq α] (t : List (Nat × α)) (key : Nat) (v d : α) : List (Nat × α) :=
  if v = d then tabErase t key else tabSet t key v

/-- Replace entry i of a list; out of range, nothing changes. -/
def listSet {α : Type} (l : List α) (i : Nat) (v : α) : List α := l.set i v

/-- Remove entry i of a list. -/
def listDrop {α : Type} (l : List α) (i : Nat) : List α := l.eraseIdx i

end Sys2Proof.Machine
end

