-- ==== Sys2Proof/Machine/Float.lean ====
section
/-!
DEFINITION. Float.lean: the number formats and their exact arithmetic (R94 to R121, R399 to R404, R804 to
R807). Every operation takes exact values, computes exactly, and rounds once at the end.
-/
namespace Sys2Proof.Machine

/-- Exception flags, bit 0 INV, 1 DZ, 2 OFL, 3 UFL, 4 INX (the order of R112 and R492). -/
abbrev FpFlags := BitVec 5

/-- INV alone. -/
def flInv : FpFlags := 1#5
/-- DZ alone. -/
def flDz : FpFlags := 2#5
/-- OFL alone. -/
def flOfl : FpFlags := 4#5
/-- UFL alone. -/
def flUfl : FpFlags := 8#5
/-- INX alone. -/
def flInx : FpFlags := 16#5

/-- The rounding directions of RND codes 0 to 4 (R112). -/
inductive Rnd where
  | near | away | up | down | zero
  deriving DecidableEq, Repr

/-- RND code to direction; RND never holds 5 to 7 (R117). -/
def rndOf (c : Nat) : Rnd :=
  match c with
  | 0 => .near
  | 1 => .away
  | 2 => .up
  | 3 => .down
  | _ => .zero

/-- A binary format with infinities and NaN: precision (hidden bit included), smallest and largest
exponent, width (R105). -/
structure FpFmt where
  prec  : Nat
  emin  : Int
  emax  : Int
  width : Nat
  deriving DecidableEq, Repr

/-- FP32 (R105). -/
def fmt32 : FpFmt := { prec := 24, emin := -126, emax := 127, width := 32 }
/-- FP16 (R105). -/
def fmt16 : FpFmt := { prec := 11, emin := -14, emax := 15, width := 16 }
/-- BF16 (R105). -/
def fmtBf : FpFmt := { prec := 8, emin := -126, emax := 127, width := 16 }

/-- A decoded operand: a finite value (−1)^s · m · 2^e, an infinity, or a NaN with its fraction bits
left-aligned to 52. -/
inductive Num where
  | fin (s : Bool) (m : Nat) (e : Int)
  | inf (s : Bool)
  | nan (s : Bool) (quiet : Bool) (frac : Nat)
  deriving DecidableEq, Repr

/-- The all-ones exponent code of a format. -/
def FpFmt.expMax (f : FpFmt) : Nat := 2 ^ (f.width - f.prec) - 1

/-- Decode a code of a format with infinities and NaN (R105). -/
def unpack (f : FpFmt) (c : Nat) : Num :=
  let fb := f.prec - 1
  let s := decide ((c >>> (f.width - 1)) % 2 = 1)
  let ex := (c >>> fb) % 2 ^ (f.width - f.prec)
  let fr := c % 2 ^ fb
  if ex = f.expMax then
    if fr = 0 then .inf s
    else .nan s (decide ((fr >>> (fb - 1)) % 2 = 1)) (fr <<< (52 - fb))
  else if ex = 0 then .fin s fr (f.emin - fb)
  else .fin s (fr + 2 ^ fb) (f.emin - fb + (ex - 1 : Nat))

/-- The sign bit of a format as a number. -/
def FpFmt.signBit (f : FpFmt) (s : Bool) : Nat := if s then 2 ^ (f.width - 1) else 0

/-- The infinity code. -/
def FpFmt.infCode (f : FpFmt) (s : Bool) : Nat := f.signBit s + f.expMax <<< (f.prec - 1)

/-- The largest finite code. -/
def FpFmt.maxCode (f : FpFmt) (s : Bool) : Nat := f.infCode s - 1

/-- The default NaN (R109). -/
def FpFmt.defaultNan (f : FpFmt) : Nat := f.infCode false + 2 ^ (f.prec - 2)

/-- A NaN of the format: sign and as many top payload bits as fit, the quiet bit set (R109, R119, R806). -/
def FpFmt.nanCode (f : FpFmt) (s : Bool) (frac : Nat) : Nat :=
  let fr := frac >>> (52 - (f.prec - 1))
  f.infCode s + (fr % 2 ^ (f.prec - 2)) + 2 ^ (f.prec - 2)

/-- The number of bits of a nonzero number. -/
def bitLen (m : Nat) : Nat := if m = 0 then 0 else Nat.log2 m + 1

/-- Round m · 2^e to a multiple of 2^q: the integer significand and whether it is inexact. -/
def roundAt (rm : Rnd) (s : Bool) (m : Nat) (e q : Int) : Nat × Bool :=
  if q ≤ e then (m <<< (e - q).toNat, false)
  else
    let d := (q - e).toNat
    let sig := m >>> d
    let rem := m % 2 ^ d
    let half := 2 ^ (d - 1)
    let inc : Bool :=
      match rm with
      | .near => decide (rem > half) || (decide (rem = half) && decide (sig % 2 = 1))
      | .away => decide (rem ≥ half)
      | .up => decide (rem ≠ 0) && !s
      | .down => decide (rem ≠ 0) && s
      | .zero => false
    (if inc then sig + 1 else sig, decide (rem ≠ 0))

/-- Round the exact value (−1)^s · m · 2^e once into a format, with overflow to the largest finite value
where sat is set (R107, R108, R113). -/
def roundTo (f : FpFmt) (rm : Rnd) (sat : Bool) (s : Bool) (m : Nat) (e : Int) : Nat × FpFlags :=
  if m = 0 then (f.signBit s, 0#5)
  else
    let top := e + (bitLen m : Int) - 1
    let fb : Int := (f.prec : Int) - 1
    let q := max (top - fb) (f.emin - fb)
    let (sig, inx) := roundAt rm s m e q
    let carry := decide (sig = 2 ^ f.prec)
    let sig' := if carry then sig / 2 else sig
    let q' := if carry then q + 1 else q
    let beyond := decide (q' + fb > f.emax) && decide (sig' ≥ 2 ^ (f.prec - 1))
    if beyond then
      let toMax : Bool :=
        sat || (match rm with
          | .near => false
          | .away => false
          | .up => s
          | .down => !s
          | .zero => true)
      (if toMax then f.maxCode s else f.infCode s, flOfl ||| flInx)
    else
      let code : Nat :=
        if sig' < 2 ^ (f.prec - 1) then sig'
        else ((q' - (f.emin - fb)).toNat + 1) <<< (f.prec - 1) ||| (sig' % 2 ^ (f.prec - 1))
      let (sigU, _) := roundAt rm s m e (top - fb)
      let tiny := decide (top < f.emin) && !(decide (sigU = 2 ^ f.prec) && decide (top = f.emin - 1))
      (f.signBit s + code,
        (if inx then flInx else 0#5) ||| (if tiny && inx then flUfl else 0#5))

/-- How an operation rounds: direction and saturation (R112, R113). -/
structure FpMode where
  rnd : Rnd
  sat : Bool
  deriving DecidableEq, Repr

/-- Nearest even without saturation: the column-reduce unit, the group unit, RED (R290, R456, R205). -/
def modeIeee : FpMode := { rnd := .near, sat := false }

/-- Whether a decoded operand is a NaN. -/
def Num.isNan : Num → Bool
  | .nan _ _ _ => true
  | _ => false

/-- Whether a decoded operand is a signaling NaN. -/
def Num.isSnan : Num → Bool
  | .nan _ q _ => !q
  | _ => false

/-- The first NaN among operands, quieted, INV when any operand is signaling; none when no operand is a
NaN (R109, R110). -/
def nanOut (f : FpFmt) : List Num → Option (Nat × FpFlags)
  | ops =>
    match ops.find? Num.isNan with
    | some (.nan s _ fr) => some (f.nanCode s fr, if ops.any Num.isSnan then flInv else 0#5)
    | _ => none

/-- The default NaN with INV (R109). -/
def invalid (f : FpFmt) : Nat × FpFlags := (f.defaultNan, flInv)

/-- The sign of a decoded number. -/
def Num.sign : Num → Bool
  | .fin s _ _ => s
  | .inf s => s
  | .nan s _ _ => s

/-- A number with its sign inverted; a NaN keeps its sign. -/
def Num.neg : Num → Num
  | .fin s m e => .fin (!s) m e
  | .inf s => .inf (!s)
  | n => n

/-- The exact sum of two finite values as sign, magnitude and exponent; an exact zero takes the sign that
the rounding direction gives it (IEEE 754-2019, R107). -/
def exactAdd (rm : Rnd) (s1 : Bool) (m1 : Nat) (e1 : Int) (s2 : Bool) (m2 : Nat) (e2 : Int) :
    Bool × Nat × Int :=
  let e := min e1 e2
  let v1 : Int := ((m1 <<< (e1 - e).toNat : Nat) : Int)
  let v2 : Int := ((m2 <<< (e2 - e).toNat : Nat) : Int)
  let v := (if s1 then -v1 else v1) + (if s2 then -v2 else v2)
  if v = 0 then
    (if m1 = 0 ∧ m2 = 0 ∧ s1 = s2 then s1 else decide (rm = .down), 0, 0)
  else (decide (v < 0), v.natAbs, e)

/-- Addition (R399). -/
def fpAdd (f : FpFmt) (md : FpMode) (a b : Num) : Nat × FpFlags :=
  match nanOut f [a, b] with
  | some r => r
  | none =>
    match a, b with
    | .inf s1, .inf s2 => if s1 = s2 then (f.infCode s1, 0#5) else invalid f
    | .inf s1, _ => (f.infCode s1, 0#5)
    | _, .inf s2 => (f.infCode s2, 0#5)
    | .fin s1 m1 e1, .fin s2 m2 e2 =>
      let (s, m, e) := exactAdd md.rnd s1 m1 e1 s2 m2 e2
      roundTo f md.rnd md.sat s m e
    | _, _ => invalid f

/-- Subtraction; a NaN operand keeps its sign (R109, R399). -/
def fpSub (f : FpFmt) (md : FpMode) (a b : Num) : Nat × FpFlags := fpAdd f md a b.neg

/-- The exact product of two operands, when it is finite; none for an invalid product. -/
def mulNum (a b : Num) : Option Num :=
  match a, b with
  | .fin s1 m1 e1, .fin s2 m2 e2 => some (.fin (s1 != s2) (m1 * m2) (e1 + e2))
  | .inf s1, .fin s2 m2 _ => if m2 = 0 then none else some (.inf (s1 != s2))
  | .fin s1 m1 _, .inf s2 => if m1 = 0 then none else some (.inf (s1 != s2))
  | .inf s1, .inf s2 => some (.inf (s1 != s2))
  | _, _ => none

/-- Multiplication (R399). -/
def fpMul (f : FpFmt) (md : FpMode) (a b : Num) : Nat × FpFlags :=
  match nanOut f [a, b] with
  | some r => r
  | none =>
    match mulNum a b with
    | some (.fin s m e) => roundTo f md.rnd md.sat s m e
    | some (.inf s) => (f.infCode s, 0#5)
    | _ => invalid f

/-- Fused multiply-add, one rounding (R399). An invalid product of zero and infinity with a NaN addend
returns the NaN; whether it sets INV IEEE 754-2019 leaves to the implementation (notes/assumptions/3.md). -/
def fpFma (f : FpFmt) (md : FpMode) (a b c : Num) : Nat × FpFlags :=
  match nanOut f [a, b, c] with
  | some (r, fl) =>
    if a.isNan || b.isNan then (r, fl)
    else (r, if (mulNum a b).isNone && Config.fmaNanInvalid then fl ||| flInv else fl)
  | none =>
    match mulNum a b with
    | some (.fin s m e) =>
      match c with
      | .fin s2 m2 e2 =>
        let (s', m', e') := exactAdd md.rnd s m e s2 m2 e2
        roundTo f md.rnd md.sat s' m' e'
      | .inf s2 => (f.infCode s2, 0#5)
      | _ => invalid f
    | some (.inf s) =>
      match c with
      | .inf s2 => if s = s2 then (f.infCode s, 0#5) else invalid f
      | _ => (f.infCode s, 0#5)
    | _ => invalid f

/-- Division, rounded from an exact quotient with a sticky bit (R399, R114). -/
def fpDiv (f : FpFmt) (md : FpMode) (a b : Num) : Nat × FpFlags :=
  match nanOut f [a, b] with
  | some r => r
  | none =>
    match a, b with
    | .inf _, .inf _ => invalid f
    | .inf s1, .fin s2 _ _ => (f.infCode (s1 != s2), 0#5)
    | .fin s1 _ _, .inf s2 => (f.signBit (s1 != s2), 0#5)
    | .fin s1 m1 e1, .fin s2 m2 e2 =>
      if m2 = 0 then (if m1 = 0 then invalid f else (f.infCode (s1 != s2), flDz))
      else if m1 = 0 then (f.signBit (s1 != s2), 0#5)
      else
        let k := bitLen m2 + f.prec + 4
        let q := (m1 <<< k) / m2
        let r := (m1 <<< k) % m2
        roundTo f md.rnd md.sat (s1 != s2) (2 * q + flag (decide (r ≠ 0))) (e1 - e2 - k - 1)
    | _, _ => invalid f

/-- Integer square root by pairs of bits; fuel bounds the number of pairs. -/
def isqrt : Nat → Nat → Nat
  | 0, _ => 0
  | fuel + 1, n =>
    let r := 2 * isqrt fuel (n / 4)
    if (r + 1) * (r + 1) ≤ n then r + 1 else r

/-- Square root (R399). -/
def fpSqrt (f : FpFmt) (md : FpMode) (a : Num) : Nat × FpFlags :=
  match nanOut f [a] with
  | some r => r
  | none =>
    match a with
    | .inf s => if s then invalid f else (f.infCode false, 0#5)
    | .fin s m e =>
      if m = 0 then (f.signBit s, 0#5)
      else if s then invalid f
      else
        let k := 2 * (f.prec + 4) + (e % 2).toNat
        let n := m <<< k
        let r := isqrt (bitLen n) n
        roundTo f md.rnd md.sat false (2 * r + flag (decide (r * r ≠ n))) ((e - k) / 2 - 1)
    | _ => invalid f

/-- Three-way comparison of two numbers that are no NaN. -/
def numCmp (a b : Num) : Ordering :=
  match a, b with
  | .inf s1, .inf s2 => if s1 = s2 then .eq else if s1 then .lt else .gt
  | .inf s, _ => if s then .lt else .gt
  | _, .inf s => if s then .gt else .lt
  | .fin s1 m1 e1, .fin s2 m2 e2 =>
    let e := min e1 e2
    let v1 : Int := ((m1 <<< (e1 - e).toNat : Nat) : Int)
    let v2 : Int := ((m2 <<< (e2 - e).toNat : Nat) : Int)
    compare (if s1 then -v1 else v1) (if s2 then -v2 else v2)
  | _, _ => .eq

/-- Whether a is the smaller of two non-NaN numbers, −0 below +0. -/
def numBelow (a b : Num) : Bool :=
  match numCmp a b with
  | .lt => true
  | .gt => false
  | .eq => a.sign && !b.sign

/-- minimum or maximum of IEEE 754-2019 (R399): codes of the operands and their decoded values. -/
def fpMinMax (f : FpFmt) (mx : Bool) (ca cb : Nat) (a b : Num) : Nat × FpFlags :=
  match nanOut f [a, b] with
  | some r => r
  | none => (if numBelow a b != mx then ca else cb, 0#5)

/-- minimumNumber or maximumNumber of IEEE 754-2019 (R399). -/
def fpMinMaxNum (f : FpFmt) (mx : Bool) (ca cb : Nat) (a b : Num) : Nat × FpFlags :=
  let fl := if a.isSnan || b.isSnan then flInv else 0#5
  match a.isNan, b.isNan with
  | true, true => ((nanOut f [a, b]).getD (invalid f) |>.1, fl)
  | true, false => (cb, fl)
  | false, true => (ca, fl)
  | false, false => (if numBelow a b != mx then ca else cb, 0#5)

/-- roundToIntegralExact (R399). -/
def fpRint (f : FpFmt) (md : FpMode) (c : Nat) (a : Num) : Nat × FpFlags :=
  match nanOut f [a] with
  | some r => r
  | none =>
    match a with
    | .fin s m e =>
      let (sig, inx) := roundAt md.rnd s m e (max e 0)
      let (r, _) := roundTo f .near false s sig (max e 0)
      if e ≥ 0 then (c, 0#5) else (r, if inx then flInx else 0#5)
    | _ => (c, 0#5)

/-- The comparisons of VCMP by code (R400), with INV for a signaling comparison on any NaN and for a
signaling NaN. -/
def fpCompare (code : Nat) (a b : Num) : Bool × FpFlags :=
  let un := a.isNan || b.isNan
  let inv := if code ≥ 2 ∧ code ≤ 5 then un else a.isSnan || b.isSnan
  let o := numCmp a b
  let r : Bool :=
    match code with
    | 0 => !un && o == .eq
    | 1 => un || o != .eq
    | 2 => !un && o == .lt
    | 3 => !un && o != .gt
    | 4 => !un && o == .gt
    | 5 => !un && o != .lt
    | 6 => un
    | _ => !un
  (r, if inv then flInv else 0#5)

/-! Estimates (R401): the free value where it meets the bound, else the first code that does. -/

/-- 2^(k / 2^n) ≤ a / b for positive a and b, by exact powers. -/
def pow2Le (k : Int) (n a b : Nat) : Bool :=
  if k ≥ 0 then decide (2 ^ k.toNat * b ^ 2 ^ n ≤ a ^ 2 ^ n)
  else decide (b ^ 2 ^ n ≤ a ^ 2 ^ n * 2 ^ (-k).toNat)

/-- a / b ≤ 2^(k / 2^n) for positive a and b, by exact powers. -/
def lePow2 (a b : Nat) (k : Int) (n : Nat) : Bool :=
  if k ≥ 0 then decide (a ^ 2 ^ n ≤ 2 ^ k.toNat * b ^ 2 ^ n)
  else decide (a ^ 2 ^ n * 2 ^ (-k).toNat ≤ b ^ 2 ^ n)

/-- m · 2^e as a fraction. -/
def asFrac (m : Nat) (e : Int) : Nat × Nat :=
  if e ≥ 0 then (m <<< e.toNat, 1) else (m, 2 ^ (-e).toNat)

/-- A signed m · 2^e as k / 2^n. -/
def asDyadic (s : Bool) (m : Nat) (e : Int) : Int × Nat :=
  let k : Int := if e ≥ 0 then ((m <<< e.toNat : Nat) : Int) else m
  (if s then -k else k, if e ≥ 0 then 0 else (-e).toNat)

/-- Whether the code r is within the bound that R401 gives the estimate kind on the finite operand
(−1)^s · m · 2^e: relative 2^−21 (0 exp2), relative 2^−14 (1 reciprocal, 2 reciprocal square root), absolute
2^−20 (3 log2). -/
def estBound (kind : Nat) (s : Bool) (m : Nat) (e : Int) (r : Nat) : Bool :=
  match unpack fmt32 r with
  | .fin rs rm re =>
    match kind with
    | 0 =>
      let (k, n) := asDyadic s m e
      let (a, b) := asFrac rm re
      !rs && decide (rm ≠ 0) && lePow2 (a * 2 ^ 21) (b * (2 ^ 21 + 1)) k n &&
        pow2Le k n (a * 2 ^ 21) (b * (2 ^ 21 - 1))
    | 1 =>
      let (a, b) := asFrac (rm * m) (re + e)
      decide (rs = s) && decide (a * 2 ^ 14 ≤ b * (2 ^ 14 + 1)) && decide (b * (2 ^ 14 - 1) ≤ a * 2 ^ 14)
    | 2 =>
      let (a, b) := asFrac (rm * rm * m) (re + re + e)
      !rs && decide (a * 2 ^ 28 ≤ b * (2 ^ 14 + 1) ^ 2) && decide (b * (2 ^ 14 - 1) ^ 2 ≤ a * 2 ^ 28)
    | _ =>
      let (k, n) := asDyadic rs rm re
      let (a, b) := asFrac m e
      let n' := max n 20
      let k' := k * (2 ^ (n' - n) : Nat)
      pow2Le (k' - (2 ^ (n' - 20) : Nat)) n' a b && lePow2 a b (k' + (2 ^ (n' - 20) : Nat)) n'
  | _ => false

/-- The first code, counting down from fuel, that meets the bound. -/
def estSearch (kind : Nat) (s : Bool) (m : Nat) (e : Int) : Nat → Nat
  | 0 => 0
  | n + 1 => if estBound kind s m e n then n else estSearch kind s m e n

/-- The estimate of a finite nonzero operand: any code within the bound, chosen by the free value
(notes/assumptions/3.md). -/
def estCode (kind : Nat) (c : Nat) (s : Bool) (m : Nat) (e : Int) : Nat :=
  let r := (Config.estimate kind (BitVec.ofNat 32 c)).toNat
  if estBound kind s m e r then r else estSearch kind s m e (2 ^ 32)

/-- Overflow of an estimate: OFL, infinite or largest finite (R401). -/
def estOver (sat s : Bool) : Nat × FpFlags :=
  (if sat then fmt32.maxCode s else fmt32.infCode s, flOfl)

/-- VEXP2 on one FP32 code (R401). -/
def estExp2 (sat : Bool) (c : Nat) : Nat × FpFlags :=
  let a := unpack fmt32 c
  match nanOut fmt32 [a] with
  | some r => r
  | none =>
    match a with
    | .inf s => (if s then 0 else fmt32.infCode false, 0#5)
    | .fin s m e =>
      if m = 0 then (estCode 0 c s m e, 0#5)
      else if !s && numCmp a (.fin false 1 7) != .lt then estOver sat false
      else if s && numCmp a (.fin true 126 0) == .lt then (0, 0#5)
      else (estCode 0 c s m e, 0#5)
    | _ => invalid fmt32

/-- VRCP on one FP32 code (R401). -/
def estRcp (sat : Bool) (c : Nat) : Nat × FpFlags :=
  let a := unpack fmt32 c
  match nanOut fmt32 [a] with
  | some r => r
  | none =>
    match a with
    | .inf s => (fmt32.signBit s, 0#5)
    | .fin s m e =>
      if m = 0 then (fmt32.infCode s, flDz)
      else
        let (a, b) := asFrac m e
        if decide (a * (2 ^ 24 - 1) * 2 ^ 104 < b) then estOver sat s
        else if decide (a > b * 2 ^ 126) then (fmt32.signBit s, 0#5)
        else (estCode 1 c s m e, 0#5)
    | _ => invalid fmt32

/-- VRSQ on one FP32 code (R401). -/
def estRsq (c : Nat) : Nat × FpFlags :=
  let a := unpack fmt32 c
  match nanOut fmt32 [a] with
  | some r => r
  | none =>
    match a with
    | .inf s => if s then invalid fmt32 else (0, 0#5)
    | .fin s m e =>
      if m = 0 then (fmt32.infCode s, flDz)
      else if s then invalid fmt32
      else (estCode 2 c s m e, 0#5)
    | _ => invalid fmt32

/-- VLOG2 on one FP32 code (R401). -/
def estLog2 (c : Nat) : Nat × FpFlags :=
  let a := unpack fmt32 c
  match nanOut fmt32 [a] with
  | some r => r
  | none =>
    match a with
    | .inf s => if s then invalid fmt32 else (fmt32.infCode false, 0#5)
    | .fin s m e =>
      if m = 0 then (fmt32.infCode true, flDz)
      else if s then invalid fmt32
      else (estCode 3 c s m e, 0#5)
    | _ => invalid fmt32

/-! Conversions (R119 to R121, R402 to R404, R804 to R806). -/

/-- An F8 code's value; a zero exponent reads as a zero with its sign (R106). -/
def unpackF8 (c : Nat) : Num :=
  let s := decide ((c >>> 7) % 2 = 1)
  let ex := (c >>> 3) % 16
  if ex = 0 then .fin s 0 0 else .fin s (8 + c % 8) ((ex : Int) - 11)

/-- Into BF16: nearest even, saturating (R115, R119). -/
def toBf (a : Num) : Nat × FpFlags :=
  match a with
  | .nan s q fr => (fmtBf.nanCode s fr, if q then 0#5 else flInv)
  | .inf s => (fmtBf.infCode s, 0#5)
  | .fin s m e => roundTo fmtBf .near true s m e

/-- Into FP32 or FP16 (R119, R806). -/
def toIeee (f : FpFmt) (md : FpMode) (a : Num) : Nat × FpFlags :=
  match a with
  | .nan s q fr => (f.nanCode s fr, if q then 0#5 else flInv)
  | .inf s => (f.infCode s, 0#5)
  | .fin s m e => roundTo f md.rnd md.sat s m e

/-- Into F8 (R119, R120). -/
def toF8 (a : Num) : Nat × FpFlags :=
  match a with
  | .nan _ _ _ => (0x7F, flInv)
  | .inf s => (0x7F + (if s then 128 else 0), flOfl)
  | .fin s m e =>
    let sb := if s then 128 else 0
    if m = 0 then (sb, 0#5)
    else
      let top := e + (bitLen m : Int) - 1
      let (sig, inx) := roundAt .near s m e (top - 3)
      let (sig', top') := if sig = 16 then (8, top + 1) else (sig, top)
      if top' > 7 then (sb + 0x7F, flOfl ||| flInx)
      else if top' < -7 then
        let (a', b') := asFrac m e
        (sb + (if a' * 256 > b' then 8 else 0), flUfl ||| flInx)
      else (sb + (top' + 8).toNat * 8 + sig' % 8, if inx then flInx else 0#5)

/-- A signed number of w bits as a code. -/
def intCode (w : Nat) (v : Int) : Nat := (BitVec.ofInt w v).toNat

/-- Into a signed integer of w bits that saturates: overflow flags, infinity flag and NaN to 0 with INV
(A8 and A16 of R119). -/
def toAct (w : Nat) (a : Num) : Nat × FpFlags :=
  let hi : Int := 2 ^ (w - 1) - 1
  let lo : Int := -(2 ^ (w - 1))
  match a with
  | .nan _ _ _ => (0, flInv)
  | .inf s => (intCode w (if s then lo else hi), flOfl)
  | .fin s m e =>
    let (sig, inx) := roundAt .near s m e (max e 0)
    let v : Int := ((sig <<< (max e 0).toNat : Nat) : Int)
    let v := if s then -v else v
    if v > hi then (intCode w hi, flOfl ||| flInx)
    else if v < lo then (intCode w lo, flOfl ||| flInx)
    else (intCode w v, if inx then flInx else 0#5)

/-- Into I32 (R402). -/
def toI32 (rm : Rnd) (a : Num) : Nat × FpFlags :=
  let hi : Int := 2 ^ 31 - 1
  let lo : Int := -(2 ^ 31)
  match a with
  | .nan _ _ _ => (0, flInv)
  | .inf s => (intCode 32 (if s then lo else hi), flInv)
  | .fin s m e =>
    let (sig, inx) := roundAt rm s m e (max e 0)
    let v : Int := ((sig <<< (max e 0).toNat : Nat) : Int)
    let v := if s then -v else v
    if v > hi then (intCode 32 hi, flInv)
    else if v < lo then (intCode 32 lo, flInv)
    else (intCode 32 v, if inx then flInx else 0#5)

/-- An integer as an exact number; zero is +0. -/
def numOfInt (v : Int) : Num := .fin (decide (v < 0)) v.natAbs 0

/-- The product of a source value and a multiplier for A8 and A16 (R804): a NaN for the invalid cases. -/
def mulActNum (x r : Num) : Num :=
  if x.isNan || r.isNan then .nan false true 0
  else (mulNum x r).getD (.nan false true 0)

/-- x · 2^(127−e) rounded to nearest even as an integer. -/
def e8Round (s : Bool) (m : Nat) (e : Int) (code : Nat) : Int :=
  let ex := e + 127 - (code : Int)
  let (sig, _) := roundAt .near s m ex (max ex 0)
  let v : Int := ((sig <<< (max ex 0).toNat : Nat) : Int)
  if s then -v else v

/-- Whether one element fits an E8 exponent code (R121). -/
def e8Fits (code : Nat) (a : Num) : Bool :=
  match a with
  | .fin s m e => decide (-128 ≤ e8Round s m e code) && decide (e8Round s m e code ≤ 127)
  | _ => true

/-- The smallest code that every finite element fits, 255 when none does (R121). -/
def e8Code (block : List Num) : Nat → Nat → Nat
  | 0, c => c
  | n + 1, c => if block.all (e8Fits c) then c else if c ≥ 255 then 255 else e8Code block n (c + 1)

/-- One significand of an E8 block under its exponent code (R121). -/
def e8Sig (code : Nat) (a : Num) : Nat × FpFlags :=
  match a with
  | .nan _ _ _ => (0, flInv)
  | .inf s => (if s then 0x80 else 0x7F, flOfl)
  | .fin s m e =>
    let v := e8Round s m e code
    if v > 127 then (0x7F, flOfl ||| flInx)
    else if v < -128 then (0x80, flOfl ||| flInx)
    else
      let ex := e + 127 - (code : Int)
      (intCode 8 v, if (roundAt .near s m ex (max ex 0)).2 then flInx else 0#5)

/-- The value of an engine result times its two scales, rounded once to FP32 (R102, R103, R807). -/
def engConvert (md : FpMode) (c : Int) (m lam : Nat) (sigma tau : Nat) : Nat × FpFlags :=
  let sg := unpack fmt32 sigma
  let ta := unpack fmt32 tau
  match [sg, ta].find? Num.isNan with
  | some (.nan s q fr) => (fmt32.nanCode s fr, if q then 0#5 else flInv)
  | _ =>
    match sg, ta with
    | .fin s1 m1 e1, .fin s2 m2 e2 =>
      if c = 0 ∨ m1 = 0 ∨ m2 = 0 then
        (fmt32.signBit (s1 != s2), 0#5)
      else
        roundTo fmt32 md.rnd md.sat (decide (c < 0) != (s1 != s2)) (c.natAbs * m1 * m2)
          (e1 + e2 + (m : Int) - 127 + ((lam : Int) - 127))
    | a, b =>
      match mulNum a b with
      | some (.inf s) =>
        if c = 0 then invalid fmt32 else (fmt32.infCode (decide (c < 0) != s), 0#5)
      | _ => invalid fmt32

end Sys2Proof.Machine
end

