-- ==== Sys2Proof/Machine/State.lean ====
section
/-!
DEFINITION. State.lean: everything the Z830 block holds, as plain data, and the state after a device
reset. Registers that software reads in BAR0 live in regs; every other piece has a field of its own.
-/
namespace Sys2Proof.Machine

/-- Why a command stops the block with a fault. No meaning of this model raises one. -/
inductive Fault where
  /-- An access outside the 48-bit device address map, raised by no command: such accesses are refused as
  R236 says. Safe. -/
  | outsideMap
  deriving DecidableEq, Repr

/-- Why a command is refused. -/
inductive Refusal where
  /-- A command whose arm has no meaning yet. Safe. -/
  | notModelled (mnemonic : String)
  deriving DecidableEq, Repr

/-- A memory: (address, byte) pairs, addresses strictly rising, no listed byte zero; an unlisted address
reads as zero. -/
abbrev Memory := List Host.Cell

/-- A memory with its check bits: the bytes as stored, the data bits that differ from what was written
(R686), the bytes whose parity bit is inverted (R632), and for HBM4 and DDR5 the flits stored poisoned (R634) and, of
other flits, the poisoned 8-byte units (R811). -/
structure Store where
  bytes : Memory
  flips : Memory
  chk   : Memory
  pois  : List Nat
  units : List Nat
  deriving DecidableEq, Repr

/-- A 64-byte flit with its poison mark (R291, R632). -/
structure Flit where
  data : BitVec 512
  pois : Bool
  deriving DecidableEq, Repr

/-! Cores: contexts (R379), engines (R44 to R93), the reduce unit (R290, R411), the group unit (R445). -/

/-- A vector register: 64 lanes and four poison bits (R379). -/
structure VReg where
  lanes : Vector Lane 64
  pois  : BitVec 4
  deriving DecidableEq, Repr

/-- A vector register of zeros. -/
def VReg.zero : VReg := { lanes := Vector.replicate 64 0#32, pois := 0#4 }

/-- A bound handle: stream-table entry of the core and last-use flag (R418). -/
structure Handle where
  entry : BitVec 16
  last  : Bool
  deriving DecidableEq, Repr

/-- What a context waits for (R427). -/
inductive Wait where
  | none
  | wnext (rd : Nat)
  | wbar (layer : Nat)
  | gap (len : Nat)
  | swt (stream : Nat) (recv : Bool) (count : Nat)
  | gwt (rd : Nat) (launch : Nat) (bad : Bool)
  | fence (bits : BitVec 3)
  deriving DecidableEq, Repr

/-- One issue context of a sequencer (R379). -/
structure Context where
  pc      : BitVec 20
  a       : Vector Word 32
  aPois   : BitVec 32
  v       : Vector VReg 64
  p       : Vector Word 8
  h       : Vector (Option Handle) 16
  /-- a program is loaded for this context (R380) -/
  active  : Bool
  /-- stopped by a program fault (R431) -/
  stopped : Bool
  /-- held by the management core during a recovery (R647, R656) -/
  held    : Bool
  wait    : Wait
  /-- sends and stores carry poison until the next WNEXT (R384) -/
  taint   : Bool
  /-- the current wave as WNEXT reports it (R391); a wave is current when inWave holds -/
  waveWord : Word
  inWave  : Bool
  /-- layers whose WBAR with ALL = 0 has issued and not completed (R392) -/
  wbars   : List Nat
  /-- registers that await a result (R426) -/
  pendA   : BitVec 32
  pendV   : BitVec 64
  /-- program region and entry of the context (R380, R390) -/
  lo      : Nat
  hi      : Nat
  entry   : BitVec 20
  /-- lines that the CHUCK being executed has handled, and how many of them it chucked (R199) -/
  chuck   : Option (Nat × Nat)
  deriving DecidableEq, Repr

/-- An idle context with every register zero (R380). -/
def Context.zero : Context :=
  { pc := 0#20, a := Vector.replicate 32 0#64, aPois := 0#32, v := Vector.replicate 64 VReg.zero,
    p := Vector.replicate 8 0#64, h := Vector.replicate 16 none, active := false, stopped := false,
    held := false, wait := .none, taint := false, waveWord := 0#64, inWave := false, wbars := [],
    pendA := 0#32, pendV := 0#64, lo := 0, hi := 0, entry := 0#20, chuck := none }

/-- A column value: 32-bit integer and 9-bit exponent (R45, R70). -/
structure ColVal where
  c : BitVec 32
  m : BitVec 9
  deriving DecidableEq, Repr

/-- A configuration of an engine (R47). -/
structure EngCfg where
  wfmt  : BitVec 3
  afmt  : BitVec 2
  hold  : Bool
  biasc : Bool
  deriving DecidableEq, Repr

/-- An operation in an engine queue (R84, R429); back marks back-fill work (R308). -/
inductive EngOp where
  /-- an image read from the core store, with the lanes that its poison marks and parity failures reach (R56) -/
  | eld (c : Ctx) (back : Bool) (n : Nat) (hi : Bool) (img : List Byte) (lanes : BitVec 8)
  | eldStream (c : Ctx) (back : Bool) (n : Nat) (hi : Bool) (stream : Nat) (last : Bool)
  | ews (c : Ctx) (back : Bool) (fresh : Bool) (t : Nat) (addr : Nat)
  | edr (c : Ctx) (vd : Nat) (scale : VReg)
  | ecf (c : Ctx) (cfg : EngCfg)
  deriving DecidableEq, Repr

/-- What holds a row group's feeder (R81, R82). -/
inductive Hold where
  | ready | reread | restore
  deriving DecidableEq, Repr

/-- A plane in a feeder buffer, or for T4 the indices of a tile in the expander, as the V-port delivered it (R66, R76). -/
structure PlaneBuf where
  /-- the plane's number in its run; for T4 that of the tile's plane 0 -/
  m      : Nat
  /-- field offset of the bytes -/
  addr   : Nat
  bytes  : List Byte
  /-- bytes that fail parity, by their place in the buffer -/
  bad    : List Nat
  /-- the plane enters as read, its tile poisoned (R82) -/
  asRead : Bool
  deriving DecidableEq, Repr

/-- A row group's feeder: 16 planes, or for T4 the indices of this tile and the next (R66, R76). -/
structure Feeder where
  hold : Hold
  buf  : List PlaneBuf
  deriving DecidableEq, Repr

/-- A weight run: its scale phase, then its plane phase (R63). -/
structure Run where
  c       : Ctx
  back    : Bool
  /-- an EWS in HOLD mode with FRESH = 1 (R72) -/
  fresh   : Bool
  t       : Nat
  planes  : Nat
  wfmt    : BitVec 3
  hold    : Bool
  addr    : Nat
  /-- field offset of the first tile image -/
  imgs    : Nat
  /-- scale and table beats read so far (R57) -/
  pre     : List Byte
  /-- scale and table beats taken as read although they fail parity (R82) -/
  bad     : List Nat
  /-- the next scale or table beat awaits its restoration (R82) -/
  wait    : Bool
  /-- planes that each row group has in its feeder or has entered -/
  fetched : Vector Nat 32
  /-- planes that each row group has entered -/
  entered : Vector Nat 32
  deriving DecidableEq, Repr

/-- An ELD from a stream in progress: the image bytes received so far (R49, R408). -/
structure Eld where
  c      : Ctx
  back   : Bool
  n      : Nat
  hi     : Bool
  stream : Nat
  last   : Bool
  img    : List Byte
  deriving DecidableEq, Repr

/-- An EDR in progress, and how many earlier HOLD tiles it waits for (R74, R84). -/
structure EdrRt where
  c      : Ctx
  vd     : Nat
  scale  : VReg
  before : Nat
  deriving DecidableEq, Repr

/-- An open tile (R78). -/
structure Tile where
  c       : Ctx
  idx     : Nat
  planes  : Nat
  hold    : Bool
  /-- its combine clears the hold bank first (R72, R84) -/
  fresh   : Bool
  hiPass  : Bool
  lam     : Vector (BitVec 8) 8
  scale   : List Byte
  entered : Vector Nat 32
  acc     : Vector (BitVec 32) 512
  pois    : BitVec 8
  result  : Option (Vector ColVal 256)
  retired : BitVec 8
  deriving DecidableEq, Repr

/-- What a column group retires onto the column link (R70). -/
structure LinkPkt where
  c    : Ctx
  idx  : Nat
  vals : List ColVal
  lam  : BitVec 8
  pois : Bool
  deriving DecidableEq, Repr

/-- An engine (R44 to R93). -/
structure Engine where
  cfg     : EngCfg
  hi      : Bool
  /-- stationary activations: cell byte of row r, lane s at 8 r + s -/
  act     : Vector (BitVec 8) 1024
  /-- cells whose parity fails (R83) -/
  actBad  : List Nat
  poisL   : BitVec 8
  emax    : Vector (BitVec 8) 8
  bank    : Vector ColVal 256
  bankLam : Vector (BitVec 8) 8
  bankPois : BitVec 8
  queue   : List EngOp
  /-- back-fill work of context P that waits for a gap (R308) -/
  backQ   : List EngOp
  eld     : Option Eld
  /-- the run whose planes enter, and behind it one in its scale phase and prefill (R64, R84) -/
  runs    : List Run
  edr     : Option EdrRt
  feeders : Vector Feeder 32
  /-- the time since which decode work waits for a back-fill run (R310) -/
  bfSince : Option Nat
  tiles   : List Tile
  link    : Vector (List LinkPkt) 8
  credits : Vector Nat 8
  deriving DecidableEq, Repr

/-- An engine after a reset whose scope includes the core (R47, R71, R72, R86). -/
def Engine.zero : Engine :=
  { cfg := { wfmt := 0#3, afmt := 0#2, hold := false, biasc := false }, hi := false,
    act := Vector.replicate 1024 0#8, actBad := [], poisL := 0#8,
    emax := Vector.replicate 8 127#8,
    bank := Vector.replicate 256 { c := 0#32, m := 0x1FF#9 }, bankLam := Vector.replicate 8 127#8,
    bankPois := 0#8, queue := [], backQ := [], eld := none, runs := [], edr := none,
    feeders := Vector.replicate 32 { hold := .ready, buf := [] }, bfSince := none, tiles := [],
    link := Vector.replicate 8 [], credits := Vector.replicate 8 2 }

/-- One output tile part in the reduce unit: contributions received, sums and poison. -/
structure TileSum where
  count : Nat
  vals  : List Lane
  pois  : Bool
  deriving DecidableEq, Repr

/-- An armed column reduce (R411). -/
structure Rcx where
  c      : Ctx
  root   : Bool
  engs   : BitVec 2
  /-- input streams by handle number -/
  ins    : List (Nat × Nat)
  outs   : List Nat
  tiles  : Nat
  scale  : VReg
  /-- tile parts received: source (0, 1 links, 2 + i handles) times 8 plus column group -/
  got    : List (Nat × Nat)
  /-- sums by tile times 8 plus column group -/
  sums   : List (Nat × TileSum)
  /-- column groups of tiles sent so far, in order -/
  sent   : Nat
  deriving DecidableEq, Repr

/-- A stream instruction in the stream queue (R420). -/
inductive StreamOp where
  | srx (c : Ctx) (vd : Nat) (stream : Nat) (n : Nat) (last : Bool)
  | stx (c : Ctx) (stream : Nat) (flits : List Flit)
  deriving DecidableEq, Repr

/-- A stack entry of a group context (R464). -/
structure StackEntry where
  id     : Nat
  rpc    : BitVec 20
  mask   : BitVec 32
  parent : Option Nat
  deriving DecidableEq, Repr

/-- A subgroup (R445): program counter, active mask, current entry, waiting at its RCV (R469), held by
GFENCE for the requests before a number (R459). -/
structure Subgroup where
  pc    : BitVec 20
  mask  : BitVec 32
  entry : Option Nat
  atRcv : Bool
  fence : Option Nat
  deriving DecidableEq, Repr

/-- A group context (R445). -/
structure GroupCtx where
  busy    : Bool
  killed  : Bool
  owner   : Ctx
  launch  : Nat
  kernel  : Nat
  index   : Nat
  count   : Nat
  entryPc : BitVec 20
  stopPc  : BitVec 20
  t       : Vector (Vector Lane 32) 64
  tPois   : Vector (BitVec 32) 64
  u       : Vector Word 32
  uPois   : BitVec 32
  stack   : List StackEntry
  subs    : List Subgroup
  taint   : Bool
  /-- registers that await a cached load: lane times 64 plus register -/
  pend    : List Nat
  deriving DecidableEq, Repr

/-- A free group context. -/
def GroupCtx.zero : GroupCtx :=
  { busy := false, killed := false, owner := .d, launch := 0, kernel := 0, index := 0, count := 0,
    entryPc := 0#20, stopPc := 0#20, t := Vector.replicate 64 (Vector.replicate 32 0#32),
    tPois := Vector.replicate 64 0#32, u := Vector.replicate 32 0#64, uPois := 0#32, stack := [],
    subs := [], taint := false, pend := [] }

/-- A launch of the group unit (R450): identifier, context, groups still live, contexts killed. -/
structure Launch where
  id     : Nat
  c      : Ctx
  kernel : Nat
  count  : Nat
  live   : Nat
  killed : Nat
  started : Bool
  uniform : List Byte
  uniPois : BitVec 32
  deriving DecidableEq, Repr

/-- A core (the unit of one logical position). -/
structure Core where
  d        : Context
  p        : Context
  e0       : Engine
  e1       : Engine
  rcx      : List Rcx
  streamQ  : List StreamOp
  /-- TMV waiting in the tier queue: mover, queue, descriptor (R423) -/
  tierQ    : List (Ctx × Fin 16 × Fin 4 × DescWords)
  groups   : Vector GroupCtx 16
  launches : List Launch
  nextLaunch : BitVec 16
  /-- an open gap and its length (R394) -/
  gap      : Option Nat
  /-- layer replays of this churn whose poison first arose here (R655) -/
  replays  : Nat
  /-- program faults under this image: context and program counter (R650) -/
  faults   : List (Ctx × BitVec 20)
  deriving DecidableEq, Repr

/-- A core after a core reset with no program. -/
def Core.zero : Core :=
  { d := Context.zero, p := Context.zero, e0 := Engine.zero, e1 := Engine.zero, rcx := [], streamQ := [],
    tierQ := [], groups := Vector.replicate 16 GroupCtx.zero, launches := [], nextLaunch := 0#16,
    gap := none, replays := 0, faults := [] }

/-- A part of a flit's path: a mesh link of a stack, a cluster port, a ring edge (R28 to R35). -/
inductive Hop where
  | mesh (st m : Nat)
  | port (cl : Nat)
  | edge (e : Nat)
  deriving DecidableEq, Repr

/-- A flit on its way, with the context and the wave that sent it (R291, R641) and the path that it takes, none while it is held
for want of one (R28, R37). -/
structure FlyFlit where
  c    : Ctx
  wave : Nat
  flit : Flit
  path : Option (List Hop)
  deriving DecidableEq, Repr

/-- A stream at run time (R291 to R295). -/
structure StreamRt where
  credits : Nat
  /-- flits in the input buffer of a pipeline (R292) -/
  buf     : List Flit
  /-- flits in flight, oldest first -/
  fly     : List FlyFlit
  credFly : Nat
  /-- boundary flits of a replay that still wait for a credit (R647) -/
  redo    : List Flit
  /-- flits written to and read from a buffer in a core store or a spill buffer -/
  wr      : Nat
  rd      : Nat
  deriving DecidableEq, Repr

/-! The cache (R173 to R232) and the memory controllers (R233 to R284). -/

/-- Where a load delivers. -/
inductive LoadDst where
  | none
  | areg (r : Nat)
  | vreg (r : Nat)
  | treg (g : Nat) (lane : Nat) (r : Nat)
  deriving DecidableEq, Repr

/-- A reduction (R205): offset in its line, data, type, operation, poison; sat says that a GRED saturated in its
own combination (R482), cls is its class. -/
structure RedOp where
  off  : Nat
  data : List Byte
  ty   : Nat
  op   : Nat
  pois : Bool
  sat  : Bool
  cls  : Nat
  /-- the core whose reductions apply in issue order (R206) -/
  core : Nat
  deriving DecidableEq, Repr

/-- What a cached request does: a load with SKIM and the poison of its address, a store with its poison by flit of
its line, a reduction. -/
inductive ReqKind where
  | ld (dst : LoadDst) (skim : Bool) (bad : Bool)
  | st (data : List Byte) (pois : BitVec 4)
  | red (r : RedOp)
  deriving DecidableEq, Repr

/-- How far a request is: on its way to its home slice, waiting there for a fill of its line, waiting at a
controller (R177), or a RED of a logical K12 slice that waits for its write-through (R214). -/
inductive ReqStage where
  | sent | filling | memory | queued
  deriving DecidableEq, Repr

/-- Who issued a request: a sequencer context, a group context, or the block itself. -/
inductive Requester where
  | ctx (core : Nat) (c : Ctx)
  | grp (core : Nat) (g : Nat)
  | other
  deriving DecidableEq, Repr

/-- A cached request in flight (R432 to R436). -/
structure Req where
  id    : Nat
  who   : Requester
  kind  : ReqKind
  pa    : Nat
  size  : Nat
  cls   : Nat
  stage : ReqStage
  /-- address of the instruction that issued it (R431) -/
  pc    : Nat
  /-- its place in the order of arrival at slices; 0 while it is on its way (R194, R206, R432) -/
  arr   : Nat
  deriving DecidableEq, Repr

/-- A cache line by its tag (R184); its bytes are in cmem. State codes are those of R184; cls is 8 until a write reaches
the line. -/
structure Line where
  pos   : Nat
  seg   : Nat
  set   : Nat
  way   : Nat
  state : BitVec 3
  mask  : BitVec 256
  curd  : Bool
  skim  : Bool
  chuck : Option (BitVec 6)
  pois  : BitVec 4
  cls   : Nat
  /-- queued reductions, with the request that a write-through completes (R208, R214) -/
  reds  : List (RedOp × Option Nat)
  /-- accesses that had reached the set when the line was filled (R203) -/
  birth : Nat
  deriving DecidableEq, Repr

/-- A line in the eviction buffer (R184 state 4, R211 to R213, R813). -/
structure Evict where
  line   : Line
  issued : Bool
  deriving DecidableEq, Repr

/-- A fill in flight (R207): whether it allocates, and the data once memory has answered. -/
structure Fill where
  pos    : Nat
  alloc  : Bool
  cls    : Nat
  /-- the slice has issued its read: before that it waits for its class count (R271) -/
  asked  : Bool
  data   : Option (List Byte)
  pois   : BitVec 4
  /-- mask, bytes and poison of a write-back of the line that was issued meanwhile: they lie over the data (R212) -/
  late   : Option (BitVec 256 × List Byte × BitVec 4)
  deriving DecidableEq, Repr

/-- A flush in progress in a stack (R227): first line, lines, operation, chuck region named. -/
structure Flush where
  base : Nat
  len  : Nat
  op   : Nat
  chid : Option (BitVec 6)
  deriving DecidableEq, Repr

/-- Whom a memory read serves. -/
inductive ReadFor where
  | fill (line : Nat)
  | req (id : Nat)
  deriving DecidableEq, Repr

/-- A read in a controller queue (R271 to R275): its requester, and its place in the order of arrival. -/
structure MemRead where
  pa   : Nat
  len  : Nat
  cls  : Nat
  step : Nat
  time : Nat
  ord  : Nat
  src  : Nat
  who  : ReadFor
  deriving DecidableEq, Repr

/-- Whom a memory write serves. -/
inductive WriteFor where
  | evict (line : Nat)
  | silent
  deriving DecidableEq, Repr

/-- A write in a controller queue: line address, byte mask, bytes (R244, R246). -/
structure MemWrite where
  pa   : Nat
  mask : BitVec 256
  data : List Byte
  pois : BitVec 4
  cls  : Nat
  step : Nat
  time : Nat
  ord  : Nat
  src  : Nat
  who  : WriteFor
  /-- the controller has accepted and acknowledged it (R246) -/
  acked : Bool
  deriving DecidableEq, Repr

/-- A memory controller (R271 to R277). -/
structure Controller where
  reads  : List MemRead
  writes : List MemWrite
  level  : BitVec 2
  cal    : Bool
  /-- changes of level sent to the requesters, newest first, with their times (R273) -/
  news   : List (Nat × BitVec 2)
  /-- time and level of the latest response to each requester (R273) -/
  heard  : List (Nat × Nat × BitVec 2)
  deriving DecidableEq, Repr

/-- An idle controller. -/
def Controller.zero : Controller := { reads := [], writes := [], level := 0#2, cal := false, news := [], heard := [] }

/-- Latencies and priority step of one requester and class (R274). -/
structure ClassStep where
  lats : List Nat
  step : Nat
  fell : Nat
  deriving DecidableEq, Repr

/-- A tier-mover descriptor in a post queue (R253 to R264). -/
structure Desc where
  w        : DescWords
  started  : Bool
  copied   : Bool
  status   : Nat
  /-- host TIER command that posted it: submission ring and CID -/
  host     : Option (Nat × Nat)
  /-- peer write: phase 0 data, 1 check value, 2 update, 3 ended; its transfer tag; frames to be acknowledged (R572) -/
  phase    : Nat
  ptag     : Nat
  frames   : Nat
  deriving DecidableEq, Repr

/-- A tier mover: four post queues (R253). -/
structure Mover where
  q : Vector (List Desc) 4
  /-- descriptors waiting for queue space, for queue 0 (R527) -/
  waiting : List Desc
  /-- descriptors that failed, by host command: 65,536 times the submission ring plus the CID -/
  fails : List (Nat × Nat)
  deriving DecidableEq, Repr

/-- An idle mover. -/
def Mover.zero : Mover := { q := Vector.replicate 4 [], waiting := [], fails := [] }

/-- A backing record by field position (R144). -/
structure BackRec where
  foff  : Nat
  flen  : Nat
  baddr : Nat
  alt   : Option Nat
  deriving DecidableEq, Repr

/-! Attention (R326 to R378) and sequences. -/

/-- The running state of one query head (R329). -/
structure HeadState where
  m : Lane
  l : Lane
  o : List Lane
  deriving DecidableEq, Repr

/-- One share of a lane in a pipeline (R338): lane, member number, sequence, position, queries by head, selected
pages (R362), running heads, poison, pages that wait to be staged with their page IDs, whether its own field pages
are done, partial results merged, and whether its result has been sent. -/
structure AttUnit where
  lane   : Nat
  member : Nat
  seqn   : Nat
  pos    : Nat
  q      : List (List (BitVec 16))
  sel    : List Nat
  heads  : List HeadState
  pois   : Bool
  staged : List (Nat × Nat)
  merged : Nat
  done   : Bool
  deriving DecidableEq, Repr

/-- A partial result on its way to its root (R339), with the wave, layer and group that it belongs to. -/
structure AttPartial where
  wave  : Nat
  layer : Nat
  grp   : Nat
  lane  : Nat
  heads : List HeadState
  pois  : Bool
  deriving DecidableEq, Repr

/-- An instruction in the queue of a pipeline (R421, R429): ACFG is phase 4, with its record. -/
structure AttOp where
  core  : Nat
  c     : Ctx
  phase : Nat
  wave  : Nat
  mask  : BitVec 8
  /-- input stream with the last-use flag of its handle, output stream -/
  inS   : Option (Nat × Bool)
  outS  : Option Nat
  addr  : Nat
  cfg   : List Word
  /-- its record or address carried poison -/
  bad   : Bool
  begun : Bool
  deriving DecidableEq, Repr

/-- An attention pipeline. -/
structure Pipe where
  /-- the context whose work runs; cfg, cfgBad and units are its own -/
  side     : Ctx
  /-- configuration record of R335, eight words -/
  cfg      : List Word
  cfgBad   : Bool
  /-- the same of the other context (R309) -/
  kept     : List Word × Bool × List AttUnit
  /-- page ID, position and slot of each reserve entry (R352) -/
  reserve  : List (Nat × Nat × Nat)
  queue    : List AttOp
  /-- lanes whose append of the running operation is still to come -/
  appends  : BitVec 8
  units    : List AttUnit
  inbox    : List AttPartial
  /-- output flits that await credits -/
  output   : List Flit
  deriving DecidableEq, Repr

/-- An idle pipeline. -/
def Pipe.zero : Pipe :=
  { side := .d, cfg := [], cfgBad := false, kept := ([], false, []), reserve := [], queue := [], appends := 0#8, units := [], inbox := [], output := [] }

/-- What a sequence is doing. -/
inductive SeqPhase where
  | opened | prefill | waiting | decode | ended
  deriving DecidableEq, Repr

/-- A FEED on its way (R523). -/
structure FeedRec where
  tokens : List (BitVec 32)
  last   : Bool
  /-- submission ring and CID of the command, and its RESULT -/
  host   : Nat × Nat
  result : Word
  deriving DecidableEq, Repr

/-- An open sequence (R521 to R525, R645). -/
structure Sequence where
  lane    : Nat
  seed    : Word
  wp      : Nat
  p       : Nat
  ring    : Nat
  bytesOut : Bool
  temp    : Lane
  topp    : Lane
  topk    : Nat
  maxnew  : Nat
  stops   : List (BitVec 32)
  phase   : SeqPhase
  /-- token history, oldest first (R645) -/
  hist    : List (BitVec 32)
  /-- positions already prefilled -/
  filled  : Nat
  feeds   : List FeedRec
  sawLast : Bool
  sampled : Nat
  /-- position of the highest acknowledged output, plus one (R645) -/
  dpos    : Nat
  /-- order of opening (R522) -/
  order   : Nat
  /-- steps of the lane found poisoned at egress in a row (R649) -/
  redo    : Nat
  /-- held bytes of input and output in byte mode (R530, R531) -/
  inHeld  : List Byte
  outHeld : List Byte
  /-- CLOSE waiting for the boundary: submission ring and CID -/
  closing : Option (Nat × Nat)
  ending  : Option Nat
  /-- page maps to share at the next boundary (R353): prefix number -/
  share   : Option Nat
  deriving DecidableEq, Repr

/-- A saved prefix (R525): sequence tokens and the page IDs by map index. -/
structure Prefix where
  tokens : List (BitVec 32)
  maps   : List (Nat × Nat)
  deriving DecidableEq, Repr

/-! Waves and checkpoints (R297 to R325, R641 to R653). -/

/-- What a checkpoint keeps of one context (R641). -/
structure CtxSave where
  core  : Nat
  c     : Ctx
  pc    : BitVec 20
  a     : Vector Word 32
  aPois : BitVec 32
  p     : Vector Word 8
  h     : Vector (Option Handle) 16
  carry : List Byte
  /-- scalar registers whose earlier loads were still to deliver -/
  pend  : BitVec 32
  deriving DecidableEq, Repr

/-- A committed checkpoint (R641, R643). -/
structure Checkpoint where
  layer : Nat
  ctxs  : List CtxSave
  flits : List (Nat × Flit)
  deriving DecidableEq, Repr

/-- A wave in flight (R297). -/
structure Wave where
  num     : BitVec 48
  prefill : Bool
  mask    : BitVec 8
  /-- inserted under R306 rather than run as back-fill -/
  inserted : Bool
  regen   : Option Nat
  /-- lane to sequence and position -/
  lanes   : List (Nat × Nat × Nat)
  /-- cores whose context has reached the WBAR of a layer -/
  reached : List (Nat × Nat)
  ckpts   : List Checkpoint
  /-- contexts as their WBAR of a layer left them (R641) -/
  saves   : List (Nat × CtxSave)
  /-- boundary flits sent so far (R641) -/
  sent    : List (Nat × Flit)
  /-- replays of a layer after poison (R648) -/
  replays : List (Nat × Nat)
  poisoned : BitVec 8
  start   : Nat
  /-- held back while a recovery regenerates pages; it then replays its interrupted layer (R663) -/
  paused  : Bool
  deriving DecidableEq, Repr

/-! The host side (R493 to R555). -/

/-- How far a logged command is (R546 to R548). -/
inductive CmdStage where
  | waiting | running
  | done (status : BitVec 16) (result : Word)
  deriving DecidableEq, Repr

/-- An entry of the host command log (R546). -/
structure LogEntry where
  cmd      : HostCmd
  port     : Port
  stage    : CmdStage
  replayed : Bool
  /-- written to its completion ring and not yet acknowledged -/
  written  : Bool
  /-- its place among the 1,024 of the log (R547) -/
  slot     : Nat
  deriving DecidableEq, Repr

/-- An event record (R534). -/
structure Event where
  kind : BitVec 8
  sub  : BitVec 8
  time : Word
  unitWord : Word
  value : Word
  value2 : Word
  deriving DecidableEq, Repr

/-- An output record before its phase and check value are formed (R532). -/
structure OutRec where
  ring  : Nat
  kind  : Nat
  n     : Nat
  seqn  : Nat
  pos   : Nat
  wave  : BitVec 48
  payload : List Byte
  deriving DecidableEq, Repr

/-- Run-time state of a host ring beyond its registers. -/
structure RingRt where
  phase   : Bool
  /-- entries that a doorbell covered and the device has not read -/
  covered : List HostCmd
  /-- reading stopped by a failed access (R555) -/
  halted  : Bool
  /-- ever enabled since device reset -/
  used    : Bool
  deriving DecidableEq, Repr

/-- A ring never enabled. -/
def RingRt.zero : RingRt := { phase := true, covered := [], halted := false, used := false }

/-! Links (R556 to R587). -/

/-- A frame of the Ubon link (R563); seq, LACK and CRED are filled in when it is sent. -/
structure Frame where
  ty   : Nat
  vc   : Nat
  set  : Nat
  dst  : Nat
  src  : Nat
  seq  : Nat
  lack : Nat
  nak  : Bool
  cred : Nat
  pois : BitVec 4
  flags : BitVec 3
  tag  : Nat
  addr : Nat
  payload : List Byte
  /-- the first frame of a transfer of this device (R778) -/
  first : Bool
  deriving DecidableEq, Repr

/-- One peer quad. -/
structure Quad where
  txSeq   : BitVec 12
  rxSeq   : BitVec 12
  /-- frames sent and not acknowledged, with their times resent (R565, R566) -/
  replay  : List (Frame × Nat)
  /-- frames waiting for a credit or for replay space -/
  queue   : List Frame
  /-- credits in use by virtual channel and set -/
  credits : List (Nat × Nat)
  deriving DecidableEq, Repr

/-- A quad with all credits (R564). -/
def Quad.zero : Quad := { txSeq := 0#12, rxSeq := 0xFFF#12, replay := [], queue := [], credits := [] }

/-- A peer transfer being received (R571, R579): its payloads by address. -/
structure PeerRx where
  src    : Nat
  tag    : Nat
  data   : List (Nat × List Byte)
  deriving DecidableEq, Repr

/-! Bring-up, grain map, power, seal. -/

/-- The grain map (R611, R814). Bond groups and rows are listed where they differ from intact. -/
structure GrainMap where
  cl    : Vector (BitVec 53) 48
  pipes : BitVec 96
  mesh  : Vector (BitVec 17) 4
  /-- failed bonds by group number of R814 -/
  bonds : List (Nat × Nat)
  /-- suspect groups awaiting their test (R158) -/
  susp  : List Nat
  /-- redundant-row entries of R814 section 5, as integers -/
  rows  : List Nat
  gen   : BitVec 32
  deriving DecidableEq, Repr

/-- A firmware slot of the flash (R606, R618). -/
structure FlashSlot where
  bytes : Memory
  good  : Bool
  deriving DecidableEq, Repr

/-- The board flash beyond the firmware images (R608): what the stored records say. -/
structure Flash where
  a          : FlashSlot
  b          : FlashSlot
  preferB    : Bool
  /-- the training settings are present and pass their signature; the key that each interface's setting was saved with (R604) -/
  settings   : Bool
  saved      : List (Nat × List Nat)
  grain      : Option GrainMap
  laneNext   : Option Word
  /-- generation numbers of the two copies of settings and grain map (R609) -/
  genS       : Nat × Nat
  genG       : Nat × Nat
  events     : List (Nat × List Byte)
  nextEvent  : Nat
  life       : List (Nat × Word)
  anchHost   : Word
  anchDev    : Word
  deriving DecidableEq, Repr

/-- The pins the device samples and drives (R785, R787). -/
structure Pins where
  resetL   : Bool
  pwrgd    : Bool
  refclk   : Bool
  perstA   : Bool
  perstB   : Bool
  faultL   : Bool
  thermL   : Bool
  vaux     : Bool
  dimmReset : BitVec 16
  smbus    : Bool
  deriving DecidableEq, Repr

/-- A trip record in retention SRAM (R715). -/
structure TripRec where
  die   : Nat
  temp  : BitVec 16
  time  : Word
  stage : Nat
  deriving DecidableEq, Repr

/-- Bring-up and retention. -/
structure Boot where
  /-- the stage in progress, none when ready or held -/
  running  : Option Nat
  /-- reset cause of R620 -/
  cause    : Nat
  /-- rails on (R693, R790) -/
  rails    : Bool
  trip     : Option TripRec
  /-- a whole-device recovery is under way, until work resumes (R673 to R675) -/
  recovering : Bool
  /-- stacks whose system area failed parity in this recovery, and controllers whose memory was not kept (R598, R675) -/
  sysLost    : List (Fin 4)
  memLost    : List (Fin 24)
  /-- PLLs that are locked, as GLB_CLKSTAT.LOCK shows them (R25, R27) -/
  locks      : BitVec 12
  /-- interfaces fully trained whose new setting waits for flash, by interface, with its key (R604, R605) -/
  trained    : List (Nat × List Nat)
  /-- serial numbers of the DIMMs of each channel as stage 5 finds them (R604) -/
  ddrKey     : List (Nat × List Nat)
  /-- doorbells written during a recovery (R674) -/
  heldBells  : List (RingId × Word × List HostCmd)
  deriving DecidableEq, Repr

/-- Power control (R692 to R734). -/
structure Power where
  duty      : Nat
  full      : Nat       -- windows in a row at duty 48 with P above CAP (R705)
  below     : Nat       -- windows in a row below the release point (R706)
  above     : Nat       -- windows in a row above CAP (R707)
  capSkip   : Nat
  thermSkip : Nat
  divided   : Bool
  uv        : Bool
  uvOk      : Nat
  vinLow    : Nat
  exc       : Bool
  setRaise  : Vector Nat 4     -- chatter raises in mV (R696)
  quiet     : Vector Nat 4     -- churns without chatter
  hintRaise : Nat
  hintFall  : Option Nat
  hintRise  : Option Nat
  hostHint  : Option (Nat × BitVec 32)
  idleShed  : Bool
  low       : Vector (List Nat) 4   -- consecutive low samples per phase (R697)
  chatter   : BitVec 4              -- top dies in a chatter skip (R695)
  hold      : List (Nat × Nat)      -- orders recorded under a safety action (R545)
  steady    : Nat × Nat             -- duty and windows it has held (R710)
  heldDuty  : Option Nat            -- latest duty of this period that held for 10 windows (R710)
  energy    : List (Nat × Nat)      -- rail energy below 1 mJ, by rail number, in 1.25 nJ (R762)
  lastKind  : Option Bool
  flashOk   : Nat
  flashQ    : List Nat              -- held flash records (R610): 0 grain map, 1 settings, 2 life
  throttle  : BitVec 12
  hbmHot    : BitVec 8
  warm      : Bool                  -- the hottest die has read 70 °C since it was last below 40 °C (R779)
  capUsed   : Nat                   -- the effective cap of the window in progress (R701)
  deriving DecidableEq, Repr

/-- An SPDM session (R740). -/
structure Session where
  id     : Nat
  port   : SpdmPort
  secure : Bool
  deriving DecidableEq, Repr

/-- Why an SPDM request is refused (R740, R755). -/
inductive SpdmError where
  | busy | unsupportedRequest | unexpectedRequest | invalidRequest | sessionLimit | decryptError
  deriving DecidableEq, Repr

/-- What the device answers to an SPDM request (R740, R741). -/
inductive SpdmReply where
  | version
  | capabilities
  | algorithms
  | digests (slot0 : List Byte)
  | certificate (part : List Byte)
  | challengeAuth (nonce : List Byte) (signature : List Byte)
  | blockCount (n : Nat)
  | measurements (blocks : List (Nat × List Byte)) (nonce : List Byte) (signature : List Byte)
  | keyExchange (session : Nat) (signature : List Byte)
  | finished (session : Nat)
  | ended (session : Nat)
  | keyUpdated (session : Nat)
  | alive (session : Nat)
  | keysSet (session : Nat)
  | error (e : SpdmError)
  deriving DecidableEq, Repr

/-- The seal engine (R735 to R760). -/
structure Seal where
  sessions : List Session
  nextId   : Nat
  /-- connection by transport (0 and 1 the ports, 2 MCTP): 1 version, 2 capabilities, 3 algorithms, unlisted none -/
  conn     : List (Nat × Nat)
  windowsClosed : Bool
  /-- egress buffers that stay open while sealed: base and length -/
  bufs     : List (Nat × Nat)
  peers    : List (Fin 64)
  egress   : List (Fin 624 × Fin 256)
  deriving DecidableEq, Repr

/-- Counter banks (R761 to R768): bank to (header WRAP, counters). -/
structure Counters where
  vals : List (Nat × Nat)   -- key bank times 256 plus counter index
  wrap : List Nat           -- banks with WRAP set
  sat  : List Nat           -- keys with SAT set
  shown : List (Nat × Nat)  -- device-wide totals shown while sealed (R753)
  life  : List (Nat × Word) -- life counters by number (R779)
  lifeMs : List (Nat × Nat) -- milliseconds not yet a second, by life counter
  deriving DecidableEq, Repr

/-- What configuration space says of the function on both ports (R499). -/
structure FunctionId where
  classCode : BitVec 24
  device    : BitVec 16
  vendor    : BitVec 16
  revision  : BitVec 8
  serial    : Word
  deriving DecidableEq, Repr

/-- What the block has sent to the outside, oldest first. -/
structure Outbox where
  /-- what reads of BAR0 returned: offset and value (R10) -/
  reads  : List (Nat × Word)
  msix   : List Nat
  /-- vectors with an unreported entry (R510) -/
  msixDue : List Nat
  mctp   : List (List Word)
  spdm   : List (SpdmPort × SpdmReply)
  hdm    : List (Bool × List Byte)
  frames : List (Nat × List Byte)
  snoops : Nat
  deriving DecidableEq, Repr

/-- The state of the block. -/
structure State where
  /-- commands waiting, first in first out -/
  pending  : List Instr
  /-- identification of the function (R499) -/
  func     : FunctionId
  /-- BAR0 registers by offset, listed where they differ from their reset value -/
  regs     : List (Nat × Word)
  /-- HBM, DDR5, fields and system areas by device address; core store of position n at 2^48 + n 2^20 -/
  mem      : Store
  /-- bytes of cache lines by device address -/
  cmem     : Store
  /-- host memory as the device has written it -/
  host     : Memory
  cores    : List (Nat × Core)
  streams  : List (Nat × StreamRt)
  image    : Option Image
  reqs     : List Req
  nextReq  : Nat
  lines    : List (Nat × Line)
  evicts   : List (Nat × Evict)
  fills    : List (Nat × Fill)
  plru     : List (Nat × Nat)
  setAcc   : List (Nat × Nat)
  thrash   : List Nat
  flushes  : List (Nat × Flush)
  ctls     : List (Nat × Controller)
  steps    : List (Nat × ClassStep)
  movers   : List (Nat × Mover)
  backs    : List (Nat × BackRec)
  /-- field positions whose beats were restored in this churn (R165) -/
  restored : List (Nat × Nat)
  /-- field positions and offsets of restored beats that failed again in this churn: their rows are to be mapped (R165) -/
  badAgain : List (Nat × Nat)
  /-- splits in force at positions whose split is being changed (R134) -/
  splits   : List (Nat × Nat)
  /-- DDR5 chunks filling: chunk and purpose (0 bring-up, 1 lend, 2 reclaim) with its command -/
  fillQ    : List (Nat × Nat × Option (Nat × Nat))
  /-- time at which the chunk that a DDR5 channel is filling began (R249, R282) -/
  fillAt   : List (Nat × Nat)
  pipes    : List (Nat × Pipe)
  /-- free page IDs, free KV slots by position and slot (R351), and what the next boundary frees -/
  pageIds  : List Nat
  slots    : List (Nat × Nat)
  freeNext : List Nat
  slotNext : List (Nat × Nat)
  /-- HBM pages in use: twice the page ID, plus 1 for a second page, and the page of the HBM area (R365) -/
  hpages   : List (Nat × Nat)
  /-- pages whose REF is stuck (R353) -/
  stuck    : Nat
  seqs     : List (Nat × Sequence)
  nextOrder : Nat
  prefixes : List (Nat × Prefix)
  waves    : List Wave
  /-- number of the most recently started wave (R297) -/
  lastWave : BitVec 48
  /-- periods of recent decode waves, newest first, and the measurements asked for: degraded unit, decode waves still to
  count, whether it follows a load with GMDIFF = 1 (R316, R318) -/
  periods  : List Nat
  measure  : List (Word × Nat × Bool)
  /-- prefill waves inserted since the last decode wave (R306) -/
  inserted : Nat
  /-- pages to regenerate, how far each is, and how often its regeneration was poisoned (R651 to R654) -/
  regen    : List Nat
  regenPos : List (Nat × Nat)
  regenBad : List (Nat × Nat)
  waveCtl  : Option Word
  log      : List LogEntry
  rings    : List (Nat × RingRt)
  /-- completions in completion order not yet written: submission ring and CID -/
  compQ    : List (Nat × Nat)
  /-- entries of each completion ring written and not acknowledged, oldest first: submission ring and CID (R512, R547) -/
  compSent : List (Nat × List (Nat × Nat))
  /-- events held for an event ring (R511, R512), and events written to it and not acknowledged -/
  evHeld   : List (Nat × List Event)
  evSent   : List (Nat × List Event)
  /-- event log buffer entries not yet in flash: 1 event or 2 error record, and its words (R683) -/
  evLog    : List (Nat × List Word)
  outQ     : List OutRec
  /-- records written to each output ring and not yet acknowledged, oldest first (R512, R645) -/
  outSent  : List (Nat × List OutRec)
  nextTag  : Nat
  quads    : List (Nat × Quad)
  rotor    : Nat
  peerRx   : List PeerRx
  /-- mesh links whose flits failed parity: 17 times the stack plus the link, and the churn of the latest failure (R665) -/
  netChurn : List (Nat × Nat)
  /-- bond groups and beats whose bytes failed parity in this churn (R158) -/
  parFail  : List (Nat × Nat)
  edgesDown : List (Fin 4)
  grain    : GrainMap
  flash    : Flash
  pins     : Pins
  boot     : Boot
  power    : Power
  trust    : Seal
  cnt      : Counters
  outbox   : Outbox
  time     : Nat
  churns   : Nat
  idleChurns : Nat
  /-- churn of the last progress that the hang watchdog counts, and device time of the last commit (R769, R772) -/
  lastCommit : Nat
  lastCkpt : Nat
  /-- a dump is written and its event waits for the end of the recovery (R771) -/
  dumpDue  : Bool
  /-- dumps written since power-on -/
  dumps    : Nat
  /-- the dump region was zeroed after the dump that it held was written (R757) -/
  dumpGone : Bool
  /-- planned failovers in their first phase: cluster, core (R661) -/
  failover : List (Nat × Nat)
  /-- cores that have failed and wait for their failover; the flag says that the field is lost (R656, R663) -/
  failed   : List (Nat × Bool)
  /-- recoveries whose waves have still to resume: SUB, unit, stall (R663) -/
  resume   : List (Nat × Word × Word)
  /-- clusters with a DEGRADED event in force (R660) -/
  degCl    : List Nat
  rotNext  : List (Nat × Nat)
  stopped  : Bool
  /-- index of the next free value (notes/assumptions/2.md) -/
  freeCtr  : Nat
  deriving DecidableEq, Repr

/-- The store with nothing listed: every byte zero with good check bits. -/
def Store.empty : Store := { bytes := [], flips := [], chk := [], pois := [], units := [] }

/-- The position map of a cluster as shipped: K k at P k, K12 free (R21, R627). -/
def clusterIdentity : BitVec 53 := 0x0CBA9876543210#53

/-- The grain map as shipped (R21). -/
def GrainMap.identity : GrainMap :=
  { cl := Vector.replicate 48 clusterIdentity, pipes := 0#96, mesh := Vector.replicate 4 0#17, bonds := [],
    susp := [], rows := [], gen := 0#32 }

/-- The identification of the Z830 of stepping B0; the vendor ID and the serial number are not in the spec
(notes/assumptions/2.md). -/
def FunctionId.z830 : FunctionId :=
  { classCode := 0x120000#24, device := 0x0830#16, vendor := Config.vendorId, revision := 0x10#8,
    serial := Config.serialNumber }

/-- The state after a device reset: pins at the levels that let stage 0 begin, bring-up at stage 0, every
memory zero, every ring off, the grain map as shipped (notes/assumptions/4.md, 5.md and 6.md). -/
def State.reset : State :=
  { pending := [], func := FunctionId.z830, regs := [], mem := Store.empty, cmem := Store.empty, host := [], cores := [],
    streams := [], image := none, reqs := [], nextReq := 0, lines := [], evicts := [],
    fills := [], plru := [], setAcc := [], thrash := [], flushes := [], ctls := [], steps := [],
    movers := [], backs := [], restored := [], badAgain := [], splits := [], fillQ := [], fillAt := [], pipes := [], pageIds := [],
    slots := [], freeNext := [], slotNext := [], hpages := [], stuck := 0, seqs := [], nextOrder := 0, prefixes := [], waves := [],
    lastWave := 0#48, periods := [], measure := [], inserted := 0, regen := [], regenPos := [], regenBad := [],
    waveCtl := none, log := [], rings := [], compQ := [], compSent := [], evHeld := [], evSent := [], evLog := [],
    outQ := [], outSent := [], nextTag := 0, quads := [], rotor := 0, peerRx := [], netChurn := [],
    parFail := [], edgesDown := [], grain := GrainMap.identity,
    flash := { a := { bytes := [], good := true }, b := { bytes := [], good := true }, preferB := false,
               settings := true, saved := [], grain := some GrainMap.identity, laneNext := none, genS := (1, 0),
               genG := (1, 0), events := [], nextEvent := 0, life := [], anchHost := 0#64, anchDev := 0#64 },
    pins := { resetL := true, pwrgd := true, refclk := true, perstA := true, perstB := false,
              faultL := false, thermL := false, vaux := true, dimmReset := 0#16, smbus := false },
    boot := { running := some 0, cause := 0, rails := true, trip := none,
              recovering := false, sysLost := [], memLost := [], locks := 0#12, trained := [], ddrKey := [], heldBells := [] },
    power := { duty := 0, full := 0, below := 0, above := 0, capSkip := 0, thermSkip := 0, divided := false,
               uv := false, uvOk := 0, vinLow := 0, exc := false, setRaise := Vector.replicate 4 0,
               quiet := Vector.replicate 4 0, hintRaise := 0, hintFall := none, hintRise := none,
               hostHint := none, idleShed := false, low := Vector.replicate 4 [],
               chatter := 0#4, hold := [], steady := (0, 0), heldDuty := none, energy := [], lastKind := none,
               flashOk := 0, flashQ := [], throttle := 0#12, hbmHot := 0#8, warm := false, capUsed := 1950 },
    trust := { sessions := [], nextId := 1, conn := [], windowsClosed := false, bufs := [], peers := [],
               egress := [] },
    cnt := { vals := [], wrap := [], sat := [], shown := [], life := [], lifeMs := [] },
    outbox := { reads := [], msix := [], msixDue := [], mctp := [], spdm := [], hdm := [], frames := [], snoops := 0 },
    time := 0, churns := 0, idleChurns := 0, lastCommit := 0, lastCkpt := 0, dumpDue := false, dumps := 0, dumpGone := false,
    failover := [], failed := [], resume := [], degCl := [], rotNext := [], stopped := false, freeCtr := 0 }

end Sys2Proof.Machine
end

