-- ==== Sys2Proof/Machine/AttMath.lean ====
section
/-!
DEFINITION. AttMath.lean: the arithmetic of the attention pipelines: trees of FP32 sums, the exponent unit, the online
softmax and the merge of partial results (R328 to R331, R339, R340, R346, R361).
-/
namespace Sys2Proof.Machine

/-! FP32 steps on codes, each rounded to nearest even. -/

/-- The FP32 value of a code. -/
def num32 (c : Nat) : Num := unpack fmt32 c

/-- a + b. -/
def addC (a b : Nat) : Nat := (fpAdd fmt32 modeIeee (num32 a) (num32 b)).1

/-- a − b. -/
def subC (a b : Nat) : Nat := (fpSub fmt32 modeIeee (num32 a) (num32 b)).1

/-- The FP32 product of two values. -/
def mulN (a b : Num) : Nat := (fpMul fmt32 modeIeee a b).1

/-- a × b. -/
def mulC (a b : Nat) : Nat := mulN (num32 a) (num32 b)

/-- a ÷ b. -/
def divC (a b : Nat) : Nat := (fpDiv fmt32 modeIeee (num32 a) (num32 b)).1

/-- The larger of two FP32 codes. -/
def maxC (a b : Nat) : Nat := (fpMinMax fmt32 true a b (num32 a) (num32 b)).1

/-- −∞ in FP32. -/
def negInf : Nat := 0xFF800000

/-! Pairwise trees (R328). -/

/-- One level of the tree: neighbours in ascending order; an odd last one goes up alone. -/
def pairSums : List Nat → List Nat
  | a :: b :: t => addC a b :: pairSums t
  | l => l

/-- The tree, level by level. -/
def treeSteps : Nat → List Nat → Nat
  | 0, l => l.headD 0
  | _, [] => 0
  | _, [x] => x
  | n + 1, l => treeSteps n (pairSums l)

/-- The sum of FP32 codes by the pairwise tree. -/
def treeSum (l : List Nat) : Nat := treeSteps 8 l

/-- The dot product of two rows of values (R328). -/
def dot (a b : List Num) : Nat := treeSum (a.zipWith mulN b)

/-- The Euclidean norm of a row in FP32 (R346, R361). -/
def norm (a : List Num) : Nat := (fpSqrt fmt32 modeIeee (num32 (dot a a))).1

/-! The exponent unit (R331). -/

/-- The terms of the series of exp, down from a term, in units of 2^−256; z is m / 2^n. -/
def expSeries (m n : Nat) : Nat → Nat → Nat → Nat
  | 0, _, acc => acc
  | fuel + 1, term, acc =>
    let k := 48 - fuel
    expSeries m n fuel (term * m / (2 ^ n * k)) (acc + term * m / (2 ^ n * k))

/-- Square a number of 2^−256 units k times, rounding down or up. -/
def squares (up : Bool) : Nat → Nat → Nat
  | 0, v => v
  | k + 1, v => squares up k ((v * v + (if up then 2 ^ 256 - 1 else 0)) / 2 ^ 256)

/-- Bounds of exp(−y) in units of 2^−256, for y = m · 2^e at most 128: the series at y ÷ 256, its reciprocal, and
eight squarings. -/
def expBounds (m : Nat) (e : Int) : Nat × Nat :=
  let (a, b) := asFrac m e
  let n := Nat.log2 b + 8
  let lo := expSeries a n 48 (2 ^ 256) (2 ^ 256)
  (squares false 8 (2 ^ 512 / (lo + 128)), squares true 8 (2 ^ 512 / lo + 1))

/-- Whether a code lies within the relative error of R331 of a value between lo and hi (units of 2^−256). -/
def expWithin (r lo hi : Nat) : Bool :=
  match num32 r with
  | .fin false m e =>
    let (a, b) := asFrac m (e + 256)
    decide ((2 ^ 21 - 1) * hi * b ≤ a * 2 ^ 21) && decide (a * 2 ^ 21 ≤ (2 ^ 21 + 1) * lo * b)
  | _ => false

/-- exp of the exponent unit: 1 at zero, +0 below 2^−126, else a code within the bound of R331 that the model leaves
free; an operand that is not at most zero is not covered by the spec (notes/assumptions/3.md). -/
def expC (x : Nat) : Nat :=
  let free := (Config.estimate 4 (BitVec.ofNat 32 x)).toNat
  match num32 x with
  | .inf true => 0
  | .fin s m e =>
    if m = 0 then 0x3F800000
    else if !s then free
    else if decide (0 ≤ e + (bitLen m : Int) - 8) then 0
    else
      let (lo, hi) := expBounds m e
      if lo < 2 ^ 130 then 0
      else if expWithin free lo hi then free
      else (roundTo fmt32 .near false false lo (-256)).1
  | _ => free

/-! The running state of a head (R329, R339, R340). -/

/-- A head at the start of a unit. -/
def HeadState.init (d : Nat) : HeadState :=
  { m := BitVec.ofNat 32 negInf, l := 0#32, o := List.replicate d 0#32 }

/-- One key block: scores, none where a key is masked, and the value rows (R329). A masked key adds +0 to the trees. -/
def HeadState.block (h : HeadState) (scores : List (Option Nat)) (vals : List (List Num)) : HeadState :=
  match scores.filterMap id with
  | [] => h
  | s0 :: rest =>
    let mn := maxC h.m.toNat (rest.foldl maxC s0)
    let c := if h.m.toNat = negInf then 0 else expC (subC h.m.toNat mn)
    let ps : List (Option Num) := scores.map fun x => x.map fun v => unpack fmtBf (toBf (num32 (expC (subC v mn)))).1
    let l := addC (mulC h.l.toNat c) (treeSum (ps.map fun p => p.elim 0 fun v => mulN v (.fin false 1 0)))
    let o := h.o.zipIdx.map fun (x, i) =>
      let t := treeSum (ps.zipWith (fun p (v : List Num) =>
        p.elim 0 fun w => mulN w (v.getD i (.fin false 0 0))) vals)
      BitVec.ofNat 32 (addC (mulC x.toNat c) t)
    { m := BitVec.ofNat 32 mn, l := BitVec.ofNat 32 l, o := o }

/-- A partial result merged into a head (R339). -/
def HeadState.merge (h a : HeadState) : HeadState :=
  if a.m.toNat = negInf then h
  else
    let mn := maxC h.m.toNat a.m.toNat
    let c := if h.m.toNat = negInf then 0 else expC (subC h.m.toNat mn)
    let ca := expC (subC a.m.toNat mn)
    { m := BitVec.ofNat 32 mn,
      l := BitVec.ofNat 32 (addC (mulC h.l.toNat c) (mulC a.l.toNat ca)),
      o := h.o.zipWith (fun x y => BitVec.ofNat 32 (addC (mulC x.toNat c) (mulC y.toNat ca))) a.o }

/-- The output of a head: BF16(o × RNE(OSCALE ÷ l)) (R340). -/
def HeadState.output (h : HeadState) (oscale : Nat) : List (BitVec 16) :=
  let r := divC oscale h.l.toNat
  h.o.map fun x => BitVec.ofNat 16 (toBf (num32 (mulC x.toNat r))).1

/-- The score of a page summary for one head (R361). -/
def pageScore (scale beta : Nat) (q mean : List Num) (nu : Num) : Nat :=
  let a := mulNum (num32 scale) (num32 (dot q mean))
  let b := (mulNum (num32 beta) (num32 scale)).bind fun x =>
    (mulNum x (num32 (norm q))).bind fun y => mulNum y nu
  match a, b with
  | some x, some y => (fpAdd fmt32 modeIeee x y).1
  | _, _ => fmt32.defaultNan

end Sys2Proof.Machine
end

