-- ==== Sys2Proof/Machine/Memory.lean ====
section
/-!
DEFINITION. Memory.lean: byte memories in canonical form, and stores with check bits (R630 to R636, R686).
-/
namespace Sys2Proof.Machine

/-- The canonical form: addresses strictly rising, no listed byte zero. -/
abbrev Memory.wf (m : Memory) : Prop :=
  m.Pairwise (fun a b => a.1 < b.1) ∧ ∀ c ∈ m, c.2 ≠ 0#8

/-- The byte at an address; an unlisted address reads as zero. -/
def memByte : Memory → Nat → Byte
  | [], _ => 0#8
  | (k, b) :: t, a => if k = a then b else memByte t a

/-- n bytes from address a. -/
def memRead (m : Memory) (a n : Nat) : List Byte := (List.range n).map fun i => memByte m (a + i)

/-- The cells of a list of bytes from address a, zeros left out. -/
def cellsAt : Nat → List Byte → List Host.Cell
  | _, [] => []
  | a, b :: bs => if b = 0#8 then cellsAt (a + 1) bs else (a, b) :: cellsAt (a + 1) bs

/-- The listed cells of [lo, hi). -/
def memCells (m : Memory) (lo hi : Nat) : List Host.Cell :=
  m.filter fun c => decide (lo ≤ c.1) && decide (c.1 < hi)

/-- Memory with the range [lo, hi) replaced by the given cells; cells outside the range are dropped. -/
def memSplice (m : Memory) (lo hi : Nat) (cells : List Host.Cell) : Memory :=
  m.filter (fun c => decide (c.1 < lo)) ++
    (cells.filter fun c => decide (lo ≤ c.1) && decide (c.1 < hi)) ++
    m.filter (fun c => decide (hi ≤ c.1) && decide (lo ≤ c.1))

/-- Memory with bytes written from address a. -/
def memWrite (m : Memory) (a : Nat) (bs : List Byte) : Memory :=
  memSplice m a (a + bs.length) (cellsAt a bs)

/-- Memory with the range [lo, hi) all zero. -/
def memErase (m : Memory) (lo hi : Nat) : Memory := memSplice m lo hi []

/-- Memory with the n bytes from src copied to dst, from the range as read before (R259). -/
def memCopy (m src : Memory) (from_ dst n : Nat) : Memory :=
  memSplice m dst (dst + n) ((memCells src from_ (from_ + n)).map fun c => (c.1 - from_ + dst, c.2))

/-! Stores. Every address below is a byte address; flit f is the 64 bytes from 64 f. -/

/-- The flits that n bytes from address a touch. -/
def flitsOf (a n : Nat) : List Nat :=
  if n = 0 then [] else (List.range ((a + n - 1) / 64 - a / 64 + 1)).map (a / 64 + ·)

/-- Insert a flit into an ascending list of flits. -/
def flitInsert : List Nat → Nat → List Nat
  | [], f => [f]
  | g :: t, f => if f < g then f :: g :: t else if f = g then g :: t else g :: flitInsert t f

/-- Write bytes with good check bits: flipped bits and inverted parity of those bytes go away. -/
def Store.write (st : Store) (a : Nat) (bs : List Byte) : Store :=
  { st with bytes := memWrite st.bytes a bs, flips := memErase st.flips a (a + bs.length),
            chk := memErase st.chk a (a + bs.length) }

/-- Zero [lo, hi) with valid check bits. -/
def Store.erase (st : Store) (lo hi : Nat) : Store :=
  { bytes := memErase st.bytes lo hi, flips := memErase st.flips lo hi, chk := memErase st.chk lo hi,
    pois := st.pois.filter fun f => decide (64 * f + 64 ≤ lo) || decide (hi ≤ 64 * f),
    units := st.units.filter fun u => decide (8 * u + 8 ≤ lo) || decide (hi ≤ 8 * u) }

/-- The bytes of a store as the data bits stand. -/
def Store.read (st : Store) (a n : Nat) : List Byte := memRead st.bytes a n

/-- Store a poison mark in an SRAM flit: the parity of all 64 bytes inverted (R632). -/
def Store.markSram (st : Store) (f : Nat) : Store :=
  { st with flips := memErase st.flips (64 * f) (64 * f + 64),
            chk := memWrite st.chk (64 * f) (List.replicate 64 1#8) }

/-- The poisoned 8-byte units of an HBM4 or DDR5 flit, unit 0 in bit 0: all eight where the flit bears a mark (R632, R811). -/
def Store.marks (st : Store) (f : Nat) : BitVec 8 :=
  if st.pois.contains f then 255#8 else maskBy 8 fun i => st.units.contains (8 * f + i)

/-- Set the poisoned units of an HBM4 or DDR5 flit; a flit whose units are all poisoned bears one mark. -/
def Store.setMarks (st : Store) (f : Nat) (m : BitVec 8) : Store :=
  let whole := decide (m = 255#8)
  let keep := st.units.filter fun u => decide (u / 8 ≠ f)
  let mine := if whole then [] else ((List.range 8).filter m.getLsbD).map (8 * f + ·)
  { st with pois := if whole then flitInsert st.pois f else st.pois.filter (· ≠ f), units := mine.foldl flitInsert keep }

/-- Whether the byte at an address fails its parity. -/
def Store.byteFails (st : Store) (a : Nat) : Bool :=
  (decide (onesIn 8 (memByte st.flips a).toNat % 2 = 1)) != (decide (memByte st.chk a ≠ 0#8))

/-- The places in [a, a + n) whose bytes fail parity. -/
def Store.badBytes (st : Store) (a n : Nat) : List Nat :=
  if (memCells st.flips a (a + n)).isEmpty && (memCells st.chk a (a + n)).isEmpty then []
  else (List.range n).filter fun i => st.byteFails (a + i)

/-- How many bytes of an SRAM flit fail parity (R633). -/
def Store.failing (st : Store) (f : Nat) : Nat :=
  if (memCells st.flips (64 * f) (64 * f + 64)).isEmpty && (memCells st.chk (64 * f) (64 * f + 64)).isEmpty
  then 0 else ((List.range 64).filter fun i => st.byteFails (64 * f + i)).length

/-- What an SRAM flit reads as: good, a stored poison mark, or an error (R633). -/
inductive FlitState where
  | good | poison | error
  deriving DecidableEq, Repr

/-- The state of an SRAM flit (R633). -/
def Store.flitState (st : Store) (f : Nat) : FlitState :=
  match st.failing f with
  | 0 => .good
  | 64 => .poison
  | _ => .error

/-- Alter the data of eight bytes under unchanged check bits (R686, PAR = 0). -/
def Store.flipData (st : Store) (a : Nat) (mask : Word) : Store :=
  let xorAt (m : Memory) : Memory :=
    memWrite m a ((List.range 8).map fun i => memByte m (a + i) ^^^ BitVec.ofNat 8 (mask.toNat >>> (8 * i)))
  { st with bytes := xorAt st.bytes, flips := xorAt st.flips }

/-- Alter the parity bits of eight SRAM bytes (R686, PAR = 1). -/
def Store.flipParity (st : Store) (a : Nat) (mask : Word) : Store :=
  let bs := (List.range 8).map fun i => memByte st.chk (a + i) ^^^ BitVec.ofNat 8 ((mask.toNat >>> i) % 2)
  { st with chk := memWrite st.chk a bs }

/-- Alter the check bits of the first code word of an HBM4 or DDR5 flit; n is how many it has (R686, PAR = 1).
They are kept in chk, eight to a byte, at the flit's first bytes. -/
def Store.flipCheck (st : Store) (a n : Nat) (mask : Word) : Store :=
  let bs := (List.range (n / 8)).map fun i =>
    memByte st.chk (a + i) ^^^ BitVec.ofNat 8 (mask.toNat >>> (8 * i))
  { st with chk := memWrite st.chk a bs }

end Sys2Proof.Machine
end

