-- ==== Sys2Proof/Machine/RegTable.lean ====
section
/-!
DEFINITION. RegTable.lean: the registers of BAR0 (R9 to R14, R500): where each lies, its reset value and the
access codes of its fields, as the register tables of the spec give them.
-/
namespace Sys2Proof.Machine

/-! Block offsets in BAR0 (R500). -/

/-- MBX block. -/
def offMBX : Nat := 0x10000
/-- HQ block. -/
def offHQ : Nat := 0x20000
/-- BOOT block. -/
def offBOOT : Nat := 0x30000
/-- PWR block. -/
def offPWR : Nat := 0x40000
/-- THM block. -/
def offTHM : Nat := 0x50000
/-- ERR block. -/
def offERR : Nat := 0x60000
/-- GRN block. -/
def offGRN : Nat := 0x70000
/-- CHK block. -/
def offCHK : Nat := 0x80000
/-- LANE block. -/
def offLANE : Nat := 0x90000
/-- SEAL block. -/
def offSEAL : Nat := 0xA0000
/-- CNT block. -/
def offCNT : Nat := 0xB0000
/-- TIME block. -/
def offTIME : Nat := 0xC0000
/-- TIER window of a stack. -/
def offTIER (s : Nat) : Nat := 0x100000 + 0x10000 * s
/-- CACHE window of a stack. -/
def offCACHE (s : Nat) : Nat := 0x200000 + 0x40000 * s
/-- ATT block. -/
def offATT : Nat := 0x300000
/-- STN window of logical position n (R89). -/
def offSTN (n : Nat) : Nat := 0x400000 + 0x1000 * n
/-- HBM block. -/
def offHBM : Nat := 0x1000000
/-- DDR block. -/
def offDDR : Nat := 0x1800000
/-- Position registers of the slice of position n in its stack's CACHE window (R230). -/
def offSLICE (n : Nat) : Nat := offCACHE (n / 156) + 0x10000 + 0x40 * (n % 156)

/-- A row of the register table: n1 by n2 registers at base + i s1 + j s2; the masks of its RW, RW1C and RWS
fields (an RWS field is in both rw and rws), its reset value, and whether writes of its RW and RW1C fields are
ignored from a port that does not hold the lease. -/
structure RegRow where
  base  : Nat
  n1    : Nat
  s1    : Nat
  n2    : Nat
  s2    : Nat
  reset : Nat
  rw    : Nat
  rw1c  : Nat
  rws   : Nat
  lease : Bool
  deriving DecidableEq, Repr

/-- A single register. -/
def row (base reset rw rw1c : Nat) : RegRow :=
  { base := base, n1 := 1, s1 := 0, n2 := 1, s2 := 0, reset := reset, rw := rw, rw1c := rw1c, rws := 0,
    lease := false }

/-- A row of n registers s apart. -/
def RegRow.times (r : RegRow) (n s : Nat) : RegRow := { r with n1 := n, s1 := s }

/-- A second dimension of n registers s apart. -/
def RegRow.by (r : RegRow) (n s : Nat) : RegRow := { r with n2 := n, s2 := s }

/-- A row whose RWS fields are m. -/
def RegRow.sticky (r : RegRow) (m : Nat) : RegRow := { r with rws := m, rw := r.rw ||| m }

/-- A row that only the lease holder writes. -/
def RegRow.held (r : RegRow) : RegRow := { r with lease := true }

/-- Ones at bits hi down to lo. -/
def ones (hi lo : Nat) : Nat := (2 ^ (hi + 1 - lo) - 1) <<< lo

/-- Device registers (R8, R27, R43, R322 to R325, R551 to R555). -/
def rowsDevice : List RegRow :=
  [ row 0x0 0x0000000401100830 0 0,
    row 0x8 0x00100834020C0D0C 0 0,
    (row 0x10 0 0 0).sticky (ones 27 16),
    row 0x100 0x100 (ones 8 0) 0,
    row 0x108 0 0 0,
    row 0x110 0 0 0,
    row 0x118 0 0 (ones 63 63),
    (row offHQ 0xA00 (ones 15 8) 0).held,
    (row (offHQ + 0x100) 0 (ones 63 12) 0).times 2 0x20,
    (row (offHQ + 0x1000) 0 (ones 63 12) 0).times 64 0x20,
    (row (offHQ + 0x2000) 0 (ones 63 12) 0).times 64 0x20,
    (row (offHQ + 0x4000) 0 (ones 63 12) 0).times 256 0x20,
    (row (offHQ + 0x108) 0x00FF000800000006 0x81FF3FF80000001F 0).times 2 0x20,
    (row (offHQ + 0x1008) 0x00FF000800000006 0x81FF3FF80000001F 0).times 64 0x20,
    (row (offHQ + 0x2008) 0x00FF000800000006 0x81FF3FF80000001F 0).times 64 0x20,
    (row (offHQ + 0x4008) 0x00FF000800000006 0x81FF3FF80000001F 0).times 256 0x20,
    (row (offHQ + 0x110) 0 0 (ones 33 32)).times 2 0x20,
    (row (offHQ + 0x1010) 0 0 (ones 33 32)).times 64 0x20,
    (row (offHQ + 0x2010) 0 0 (ones 33 32)).times 64 0x20,
    (row (offHQ + 0x4010) 0 0 (ones 33 32)).times 256 0x20 ]

/-- Mailbox, bring-up, power, thermal and error registers (R620 to R623, R629, R684 to R688, R720 to R733). -/
def rowsManage : List RegRow :=
  [ row offMBX 0 0 0,
    row (offMBX + 8) 0 0 (ones 9 9),
    (row (offMBX + 0x8000) 0 (ones 63 0) 0).times 4096 8,
    row offBOOT 0 0 0,
    row (offBOOT + 8) 0 0 0,
    ((row (offBOOT + 0x10) 0 0 0).sticky 1).held,
    (row (offBOOT + 0x100) 0 0 0).times 9 8,
    (row offPWR 0x101402 (ones 24 24 ||| ones 23 8 ||| ones 3 0) 0).held,
    row (offPWR + 8) 0x079E079E00000000 0 0,
    row (offPWR + 0x10) 0 0 (ones 22 18),
    (row (offPWR + 0x18) 0 (ones 47 24) 0).held,
    row (offPWR + 0x20) 0 0 0,
    (row (offPWR + 0x28) 0x0F0000 (ones 23 16) 0).held,
    ((row (offPWR + 0x100) 0 0 0).times 4 0x40).by 8 8,
    (row (offPWR + 0x200) 0 0 0).times 4 8,
    row (offPWR + 0x300) 0 0 0,
    (row offTHM 0x5F64 (ones 15 0) 0).held,
    row (offTHM + 0x10) 0 0 (ones 32 32),
    ((row (offTHM + 0x100) 0 (ones 31 16) 0).times 12 8).held,
    ((row (offTHM + 0x200) 0 (ones 31 16) 0).times 8 8).held,
    row (offTHM + 0x300) 0 0 0,
    row (offTHM + 0x308) 0 0 0,
    row offERR 0 0 (ones 4 3 ||| ones 1 1),
    ((row (offERR + 8) 0x1882 (ones 2 0) 0).sticky (ones 15 7)).held,
    (row (offERR + 0x10) 0 (ones 63 50 ||| ones 47 0) 0).held,
    (row (offERR + 0x18) 0 (ones 63 0) 0).held,
    (row (offERR + 0x20) 0 (ones 1 0) (ones 2 2)).held,
    row (offERR + 0x40) 0 0 0,
    row (offERR + 0x48) 0 0 0,
    row (offERR + 0x50) 0 0 0,
    (row (offERR + 0x1000) 0 0 0).times 256 8 ]

/-- Grain map, check-value, lane, seal, counter and time registers (R583 to R588, R624 to R628, R758 to R760,
R765, R771, R775 to R778). -/
def rowsLanes : List RegRow :=
  [ row offGRN 0 0 0,
    row (offGRN + 8) 0 0 0,
    (row (offGRN + 0x10) 0 0 0).times 8 8,
    (row (offGRN + 0x50) 0 0 0).times 4 8,
    (row (offGRN + 0x100) 0 0 0).times 96 8,
    row (offGRN + 0x800) 0 (ones 63 0) 0,
    row (offGRN + 0x808) 0 0 0,
    (row offCHK 0x320 (ones 9 8 ||| ones 6 0) (ones 17 17)).times 16 0x40,
    (row (offCHK + 8) 0x1EDC6F41 (ones 63 0) 0).times 16 0x40,
    (row (offCHK + 0x10) 0xFFFFFFFF (ones 63 0) 0).times 16 0x40,
    (row (offCHK + 0x18) 0xFFFFFFFF (ones 63 0) 0).times 16 0x40,
    (row (offCHK + 0x20) 0 (ones 63 0) 0).times 16 0x40,
    row offLANE 0 0 0,
    row (offLANE + 8) 0 0 0,
    (row (offLANE + 0x10) 0x11111111 0 0).sticky (ones 37 0),
    (row (offLANE + 0x100) 0 0 (ones 8 8)).times 8 0x10,
    (row (offLANE + 0x400) 0 (ones 8 0) 0).times 64 8,
    row offSEAL 0 0 0,
    (row (offSEAL + 0x100) 0 0 0).times 16 8,
    row (offSEAL + 0x180) 0 0 0,
    (row offCNT 0 (ones 11 0) 0).times 2 8,
    (row (offCNT + 0x10) 0x10064 0 0).sticky (ones 16 0),
    row (offCNT + 0x18) 0 0 (ones 63 63),
    (row (offCNT + 0x400) 0 0 0).times 99 8,
    (row (offCNT + 0x1000) 0 0 0).times 512 8,
    row offTIME 0 0 0,
    row (offTIME + 8) 0 0 1,
    row (offTIME + 0x10) 0 0 0,
    row (offTIME + 0x18) 0 0 0,
    row (offTIME + 0x100) 0 (ones 63 12) 0,
    row (offTIME + 0x108) 0x3F0C (ones 63 63 ||| ones 56 56 ||| ones 13 8 ||| ones 4 0) 0,
    row (offTIME + 0x110) 0 (ones 19 0) (ones 63 63) ]

/-- Class registers at their reset TARGET and LIM (R271, R279). -/
def rowsClass : List RegRow :=
  [(800, 64), (640, 128), (1600, 256), (960, 64), (480, 32), (16000, 8), (32000, 4), (64000, 4)].zipIdx.map
    fun ((t, l), c) => row (offTIER 0 + 0x40 + 8 * c) (t <<< 16 ||| l) (ones 47 16 ||| ones 11 0) 0

/-- Tier, cache, memory and attention registers (R223 to R232, R279 to R284, R373 to R378). The copies of a
device-wide register lie at stack 0. -/
def rowsMemory : List RegRow :=
  [ (((row (offTIER 0 + 0x100) 0 0 1).times 4 0x10000).by 16 0x10),
    (((row (offTIER 0 + 0x108) 0 0 0).times 4 0x10000).by 16 0x10),
    (row (offCACHE 0) 0 1 0).times 4 0x40000,
    (row (offCACHE 0 + 8) 0 0 (ones 18 17)).times 4 0x40000,
    (row (offCACHE 0 + 0x10) 0x1000 (ones 31 0) 0).times 4 0x40000,
    (row (offCACHE 0 + 0x18) 0 (ones 47 8) 0).times 4 0x40000,
    (row (offCACHE 0 + 0x20) 0 0 0).times 4 0x40000,
    (row (offCACHE 0 + 0x28) 0 (ones 47 8) 0).times 4 0x40000,
    (row (offCACHE 0 + 0x30) 0 (ones 39 0) 0).times 4 0x40000,
    (row (offCACHE 0 + 0x38) 0 0 0).times 4 0x40000,
    (row (offCACHE 0 + 0x1000) 0 (ones 63 63 ||| ones 59 57 ||| ones 47 30) 0).times 16 0x10,
    (row (offCACHE 0 + 0x1008) 0 (ones 47 30) 0).times 16 0x10,
    (row (offCACHE 0 + 0x2000) 0 0 0).times 128 8,
    ((row (offCACHE 0 + 0x10000) 0 0 (ones 21 17)).times 4 0x40000).by 156 0x40,
    ((row (offCACHE 0 + 0x10008) 0 0 0).times 4 0x40000).by 156 0x40,
    ((row (offCACHE 0 + 0x10010) 0 0 0).times 4 0x40000).by 156 0x40,
    row offATT 0x4000200040 (ones 47 32 ||| ones 23 16 ||| ones 10 0) 0,
    row (offATT + 8) 0x3E800000 (ones 31 0) 0,
    (row (offATT + 0x10) 0 0 0).times 4 8,
    row (offATT + 0x30) 0 0 (ones 57 56),
    ((row (offATT + 0x1000) 0 0 0).times 256 0x20).by 3 8,
    (row (offATT + 0x8000) 0 0 (ones 10 8)).times 96 0x40,
    (row offHBM 0x3000 0 0).times 8 0x40,
    (row offDDR 0 0 0).times 16 0x40,
    row (offDDR + 0x800) 0 0 0 ]

/-- Station registers (R90 to R93, R112, R168 to R173, R441 to R444, R488 to R492). -/
def rowsStation : List RegRow :=
  [ (row (offSTN 0) 0 0 0).times 624 0x1000,
    (row (offSTN 0 + 8) 0 0 (ones 63 63)).times 624 0x1000,
    (row (offSTN 0 + 0x10) 0x10 (ones 5 4 ||| ones 2 0) (ones 12 8)).times 624 0x1000,
    (row (offSTN 0 + 0x18) 0 0 0).times 624 0x1000,
    (row (offSTN 0 + 0x100) 2 3 0).times 624 0x1000,
    (row (offSTN 0 + 0x108) 0 0 0).times 624 0x1000,
    (row (offSTN 0 + 0x110) 0 0 (ones 63 63)).times 624 0x1000,
    (row (offSTN 0 + 0x118) 0 (ones 31 0) (ones 63 63)).times 624 0x1000,
    (row (offSTN 0 + 0x120) 0 0 (ones 4 0)).times 624 0x1000,
    ((row (offSTN 0 + 0x800) 0 0 0).times 624 0x1000).by 2 0x40,
    ((row (offSTN 0 + 0x808) 0 0 (ones 19 16)).times 624 0x1000).by 2 0x40,
    ((row (offSTN 0 + 0x810) 0 0 0).times 624 0x1000).by 2 0x40,
    ((row (offSTN 0 + 0x818) 0 (ones 4 0) 0).times 624 0x1000).by 2 0x40,
    ((row (offSTN 0 + 0x820) 0 0 0).times 624 0x1000).by 4 8,
    ((row (offSTN 0 + 0x860) 0 0 0).times 624 0x1000).by 4 8,
    (row (offSTN 0 + 0x880) 0xC (ones 4 0) 0).times 624 0x1000,
    (row (offSTN 0 + 0x888) 0 0 (ones 10 8)).times 624 0x1000,
    (row (offSTN 0 + 0x890) 0 0 0).times 624 0x1000,
    (row (offSTN 0 + 0x898) 0 0 0).times 624 0x1000,
    (row (offSTN 0 + 0x8A0) 0 (ones 31 0) (ones 63 63)).times 624 0x1000 ]

/-- Every register row. -/
def regRows : List RegRow :=
  rowsDevice ++ rowsManage ++ rowsLanes ++ rowsClass ++ rowsMemory ++ rowsStation

/-- Whether n is a multiple of s below n times s. -/
def strideHas (n s d : Nat) : Bool := if s = 0 then d = 0 else d % s = 0 && d / s < n

/-- Whether a row holds the register at an offset. -/
def RegRow.has (r : RegRow) (off : Nat) : Bool :=
  decide (r.base ≤ off) &&
    (let d := off - r.base
     if r.s1 = 0 then decide (d = 0)
     else if r.s2 = 0 then strideHas r.n1 r.s1 d
     else decide (d / r.s1 < r.n1) && strideHas r.n2 r.s2 (d % r.s1))

/-- The row of the register at an offset. -/
def regRow? (off : Nat) : Option RegRow := regRows.find? (·.has off)

/-- The reset value of the register at an offset (R14); K12 positions start with no field proper (R168). -/
def regReset (off : Nat) : Word :=
  match regRow? off with
  | none => 0#64
  | some r =>
    if 0x400000 ≤ off ∧ off < 0x400000 + 0x270000 ∧ off % 0x1000 = 0x880 ∧ (off - 0x400000) / 0x1000 % 13 = 12
    then 0#64 else BitVec.ofNat 64 r.reset

/-- The stored value of the register at an offset. -/
def regGet (regs : List (Nat × Word)) (off : Nat) : Word := tabGetD regs off (regReset off)

/-- Store a value in the register at an offset. -/
def regSet (regs : List (Nat × Word)) (off : Nat) (v : Word) : List (Nat × Word) :=
  tabPut regs off v (regReset off)

end Sys2Proof.Machine
end

