-- ==== Sys2Proof/Machine/Ops.lean ====
section
/-!
DEFINITION. Ops.lean: the named operations over registers, rings, events, error records and counters that
every meaning uses.
-/
namespace Sys2Proof.Machine

/-! Registers of BAR0. -/

/-- The stored value of a register. -/
def State.reg (s : State) (off : Nat) : Word := regGet s.regs off

/-- Set the stored value of a register. -/
def State.setReg (s : State) (off : Nat) (v : Word) : State := { s with regs := regSet s.regs off v }

/-- A field of a register as a number. -/
def State.field (s : State) (off hi lo : Nat) : Nat := fieldOf (s.reg off) hi lo

/-- A bit of a register. -/
def State.bit (s : State) (off i : Nat) : Bool := bitOf (s.reg off) i

/-- Set a field of a register. -/
def State.setField (s : State) (off hi lo v : Nat) : State := s.setReg off (putField (s.reg off) hi lo v)

/-- Set a bit of a register. -/
def State.setBit (s : State) (off i : Nat) : State := s.setField off i i 1

/-- Clear a bit of a register. -/
def State.clearBit (s : State) (off i : Nat) : State := s.setField off i i 0

/-- Set a bit of a register to a condition. -/
def State.putBit (s : State) (off i : Nat) (b : Bool) : State := s.setField off i i (flag b)

/-- The next free value and the state after its use (notes/assumptions/2.md). -/
def State.takeFree (s : State) : Word × State :=
  (Config.freeValue s.freeCtr, { s with freeCtr := s.freeCtr + 1 })

/-- Device time as software reads it (R775). -/
def State.now (s : State) : Word := BitVec.ofNat 64 s.time

/-! Units (R535). -/

/-- A unit name: type, stack, cluster, core or pipeline, engine, index (R535). -/
def unitName (ty st cl co en ix : Nat) : Word :=
  BitVec.ofNat 64 (ty <<< 56 ||| st <<< 48 ||| cl <<< 40 ||| co <<< 32 ||| en <<< 24 ||| ix)

/-- A unit of logical position n (R89): type 1 core, 2 engine, 4 cache slice, 11 field. -/
def posUnit (ty n en : Nat) : Word := unitName ty (n / 156) (n % 156 / 13) (n % 13) en 0

/-- Attention pipeline q = 24 s + 2 c + a. -/
def pipeUnit (q : Nat) : Word := unitName 3 (q / 24) (q % 24 / 2) (q % 2) 0 0

/-- Cluster number 12 s + c. -/
def clusterUnit (g : Nat) : Word := unitName 8 (g / 12) (g % 12) 0 0 0

/-- Memory controller: H0 to H7, then D0 to D15. -/
def ctlUnit (c : Nat) : Word :=
  if c < 8 then unitName 9 (c / 2) 0 0 0 c else unitName 10 ((c - 8) / 4) 0 0 0 (c - 8)

/-! Ports and rings (R493, R503 to R512, R539). -/

/-- Whether a host port's link is up (R551). -/
def State.portUp (s : State) (p : Port) : Bool :=
  match p with
  | .a => s.bit offHQ 2
  | .b => s.bit offHQ 3

/-- The port that holds the lease (R541, R551). -/
def State.holder (s : State) : Option Port :=
  match s.field offHQ 1 0 with
  | 1 => some .a
  | 2 => some .b
  | _ => none

/-- The window of a ring (R552). -/
def ringOff : RingId → Nat
  | .ev i => offHQ + 0x100 + 0x20 * i.val
  | .sub i => offHQ + 0x1000 + 0x20 * i.val
  | .comp i => offHQ + 0x2000 + 0x20 * i.val
  | .out i => offHQ + 0x4000 + 0x20 * i.val

/-- The key of a ring in State.rings. -/
def ringKey : RingId → Nat
  | .ev i => i.val
  | .sub i => 64 + i.val
  | .comp i => 128 + i.val
  | .out i => 256 + i.val

/-- The bytes of an entry (R503). -/
def ringEntry : RingId → Nat
  | .comp _ => 16
  | _ => 64

/-- Whether a ring is enabled. -/
def State.ringEn (s : State) (r : RingId) : Bool := s.bit (ringOff r + 8) 63

/-- Number of entries of a ring (R504). -/
def State.ringSize (s : State) (r : RingId) : Nat := 2 ^ s.field (ringOff r + 8) 4 0

/-- The device's index of a ring. -/
def State.ringDev (s : State) (r : RingId) : Nat := s.field (ringOff r + 0x10) 31 16

/-- INDEX of the last accepted doorbell. -/
def State.ringHost (s : State) (r : RingId) : Nat := s.field (ringOff r + 0x10) 15 0

/-- (a − b) mod n. -/
def modSub (a b n : Nat) : Nat := (a + n - b % n) % n

/-- Run-time state of a ring. -/
def State.ring (s : State) (r : RingId) : RingRt := tabGetD s.rings (ringKey r) RingRt.zero

/-- Set the run-time state of a ring. -/
def State.setRing (s : State) (r : RingId) (v : RingRt) : State := { s with rings := tabSet s.rings (ringKey r) v }

/-- The port that a ring names (R554). -/
def State.ringPort (s : State) (r : RingId) : Port := if s.bit (ringOff r + 8) 56 then .b else .a

/-- Whether some port carries the ring's traffic (R539). -/
def State.ringCarried (s : State) (r : RingId) : Bool :=
  s.portUp (s.ringPort r) || s.portUp .a || s.portUp .b

/-- Whether a device-written ring holds as many entries as it may (R504). -/
def State.ringFull (s : State) (r : RingId) : Bool :=
  decide (modSub (s.ringDev r) (s.ringHost r) (s.ringSize r) ≥ s.ringSize r - 1)

/-- Whether the device may write an entry of a ring now (R511, R512, R539); none is written during a recovery. -/
def State.ringReady (s : State) (r : RingId) : Bool :=
  s.ringEn r && s.ringCarried r && !s.ringFull r && !s.boot.recovering

/-- Insert a number into an ascending list without repeats. -/
def natInsert (l : List Nat) (n : Nat) : List Nat := flitInsert l n

/-- Write one entry, given its bytes by phase, and advance DEV and PHASE (R509); its MSI-X message is then due
(R510). -/
def State.ringPush (s : State) (r : RingId) (bytes : Bool → List Byte) : State :=
  let d := s.ringDev r
  let n := s.ringSize r
  let rt := s.ring r
  let a := (s.field (ringOff r) 63 12) * 4096 + ringEntry r * d
  let vec := s.field (ringOff r + 8) 55 48
  let s := { s with host := memWrite s.host a (bytes rt.phase) }
  let s := s.setField (ringOff r + 0x10) 31 16 ((d + 1) % n)
  let s := s.setRing r { rt with phase := if d + 1 ≥ n then !rt.phase else rt.phase }
  if vec < 66 then { s with outbox := { s.outbox with msixDue := natInsert s.outbox.msixDue vec } } else s

/-! The trace ring (R777, R778). -/

/-- The key of the trace ring's phase in State.rings. -/
def traceKey : Nat := 1024

/-- Write a trace entry: time, kind, identifier, device IDs, quad; a full ring drops it and sets LOST. Peer kinds are
not recorded while sealed. -/
def State.trace (s : State) (kind id dst src quad : Nat) : State :=
  let cfg := offTIME + 0x108
  let stat := offTIME + 0x110
  let n := 2 ^ s.field cfg 4 0
  let d := s.field stat 51 32
  let port := if s.bit cfg 56 then Port.b else Port.a
  if !s.bit cfg 63 || !s.bit cfg (7 + kind) || (decide (kind ≤ 4) && s.bit offSEAL 0) then s
  else if modSub d (s.field stat 19 0) n ≥ n - 1 ∨ !(s.portUp port) then s.setBit stat 63
  else
    let rt := tabGetD s.rings traceKey RingRt.zero
    let bytes := leBytes 8 s.time ++ leBytes 4 (kind + flag rt.phase * 256) ++ leBytes 4 id ++
      leBytes 3 (dst + src * 256 + quad * 65536) ++ List.replicate 13 0#8
    let s := { s with host := memWrite s.host (s.field (offTIME + 0x100) 63 12 * 4096 + 32 * d) bytes }
    let rt' : RingRt := { rt with phase := if d + 1 ≥ n then !rt.phase else rt.phase }
    { s with rings := tabSet s.rings traceKey rt' }.setField stat 51 32 ((d + 1) % n)

/-! Events (R511, R512, R534, R683). -/

/-- The 64 bytes of an event record under a phase (R534). -/
def Event.bytes (e : Event) (ph : Bool) : List Byte :=
  leBytes 8 (e.kind.toNat + e.sub.toNat * 256 + flag ph * 65536) ++ leBytes 8 e.time.toNat ++
    leBytes 8 e.unitWord.toNat ++ leBytes 8 e.value.toNat ++ leBytes 8 e.value2.toNat ++ List.replicate 24 0#8

/-- Write the held events of event ring e while the ring takes them (R511, R512). -/
def State.drainEvents (s : State) (e : Fin 2) : Nat → State
  | 0 => s
  | fuel + 1 =>
    match tabGetD s.evHeld e.val [] with
    | [] => s
    | ev :: rest =>
      if s.ringReady (.ev e) then
        let s := s.ringPush (.ev e) ev.bytes
        State.drainEvents
          { s with evHeld := tabSet s.evHeld e.val rest,
                   evSent := tabSet s.evSent e.val (tabGetD s.evSent e.val [] ++ [ev]) } e fuel
      else s

/-- Hand an event to event ring e: written, or held up to 64, or dropped with LOST (R511). -/
def State.eventTo (s : State) (e : Fin 2) (ev : Event) : State :=
  let held := tabGetD s.evHeld e.val []
  if held.isEmpty && s.ringReady (.ev e) then
    State.drainEvents { s with evHeld := tabSet s.evHeld e.val [ev] } e 1
  else if held.length < 64 then { s with evHeld := tabSet s.evHeld e.val (held ++ [ev]) }
  else s.setBit (ringOff (.ev e) + 0x10) 32

/-- Send an event: to the event log buffer and to both event rings (R534, R683). -/
def State.event (s : State) (kind sub : Nat) (unit v v2 : Word) : State :=
  let ev : Event := { kind := BitVec.ofNat 8 kind, sub := BitVec.ofNat 8 sub, time := s.now, unitWord := unit,
                      value := v, value2 := v2 }
  let s := { s with evLog := s.evLog ++ [(1, [BitVec.ofNat 64 (kind + sub * 256), s.now, unit, v, v2])] }
  (s.eventTo 0 ev).eventTo 1 ev

/-! Counters (R761 to R768). -/

/-- Add to a utilisation counter (R761, R768). -/
def State.count (s : State) (bank idx amt : Nat) : State :=
  if amt = 0 then s
  else
    let k := bank * 256 + idx
    let v := tabGetD s.cnt.vals k 0 + amt
    let s := { s with cnt := { s.cnt with vals := tabSet s.cnt.vals k (v % 2 ^ 48) } }
    if v < 2 ^ 48 then s
    else if s.cnt.wrap.contains bank then s
    else State.event { s with cnt := { s.cnt with wrap := natInsert s.cnt.wrap bank } } 8 1
           (BitVec.ofNat 64 bank) (BitVec.ofNat 64 idx) 0#64

/-- Add one to an error counter (R761, R768). -/
def State.countErr (s : State) (bank idx : Nat) : State :=
  let k := bank * 256 + idx
  let v := tabGetD s.cnt.vals k 0
  let v' := if v + 1 ≥ 2 ^ 32 - 1 then 2 ^ 32 - 1 else v + 1
  let s := { s with cnt := { s.cnt with vals := tabSet s.cnt.vals k v' } }
  if v' < 2 ^ 32 - 1 then s
  else if s.cnt.sat.contains k then s
  else State.event { s with cnt := { s.cnt with sat := natInsert s.cnt.sat k } } 8 2
         (BitVec.ofNat 64 bank) (BitVec.ofNat 64 idx) 0#64

/-- Add to a counter kept in a register's low 32 bits that saturates and sets SAT in bit 63 (R172, R491). -/
def State.countReg (s : State) (off : Nat) : State :=
  let v := s.field off 31 0
  if v + 1 ≥ 2 ^ 32 - 1 then (s.setField off 31 0 (2 ^ 32 - 1)).setBit off 63 else s.setField off 31 0 (v + 1)

/-! Error records (R631, R688). -/

/-- Write an error record: the ring of 64, RECS, POISON, the event log and the counter of its kind. -/
def State.errRec (s : State) (kind action : Nat) (unit : Word) (addr : Nat) : State :=
  let h := s.field (offERR + 0x50) 5 0
  let o := offERR + 0x1000 + 0x20 * h
  let w0 := BitVec.ofNat 64 (kind + action * 256)
  let s := (((s.setReg o w0).setReg (o + 8) s.now).setReg (o + 16) unit).setReg (o + 24) (BitVec.ofNat 64 addr)
  let s := s.setReg (offERR + 0x50) (BitVec.ofNat 64 ((h + 1) % 64))
  let n := s.field offERR 39 32
  let s := s.setField offERR 39 32 (if n < 64 then n + 1 else 64)
  let s := if action = 3 then s.setBit offERR 3 else s
  let s := { s with evLog := s.evLog ++ [(2, [w0, s.now, unit, BitVec.ofNat 64 addr])] }
  s.countErr 0x900 kind

/-! Conditions of the whole device. -/

/-- Bring-up has reached stage 8 (R592, R620). -/
def State.ready (s : State) : Bool := s.boot.running.isNone && !s.bit offBOOT 4 && decide (s.field offBOOT 3 0 = 8)

/-- Whether units may step: ready, no recovery, REFCLK present (R22, R673). -/
def State.live (s : State) : Bool := s.ready && !s.boot.recovering && s.pins.refclk

/-- Whether the units of core n may step: its top die is in no chatter skip (R695). -/
def State.coreLive (s : State) (n : Nat) : Bool := s.live && !s.power.chatter.getLsbD (n / 156)

/-- Sealed mode in force (R750, R758). -/
def State.isSealed (s : State) : Bool := s.bit offSEAL 0

/-- Whether an image is loaded (R286). -/
def State.hasImage (s : State) : Bool := s.image.isSome

/-- No wave starts (R650, R658, R666, R684). -/
def State.stopWaves (s : State) : State := { s.setBit offERR 5 with stopped := true }

/-! Cores. -/

/-- The core of logical position n. -/
def State.core (s : State) (n : Nat) : Core := tabGetD s.cores n Core.zero

/-- Set the core of logical position n. -/
def State.setCore (s : State) (n : Nat) (c : Core) : State := { s with cores := tabSet s.cores n c }

/-- A context of a core. -/
def Core.ctx (k : Core) (c : Ctx) : Context :=
  match c with
  | .d => k.d
  | .p => k.p

/-- Set a context of a core. -/
def Core.setCtx (k : Core) (c : Ctx) (x : Context) : Core :=
  match c with
  | .d => { k with d := x }
  | .p => { k with p := x }

/-- A context of the block. -/
def State.ctx (s : State) (n : Nat) (c : Ctx) : Context := (s.core n).ctx c

/-- Set a context of the block. -/
def State.setCtx (s : State) (n : Nat) (c : Ctx) (x : Context) : State := s.setCore n ((s.core n).setCtx c x)

/-- An engine of a core. -/
def Core.eng (k : Core) (e : Nat) : Engine := if e = 0 then k.e0 else k.e1

/-- Set an engine of a core. -/
def Core.setEng (k : Core) (e : Nat) (g : Engine) : Core := if e = 0 then { k with e0 := g } else { k with e1 := g }

/-- A group context of a core. -/
def Core.group (k : Core) (g : Fin 16) : GroupCtx := k.groups[g]

/-- Set a group context of a core. -/
def Core.setGroup (k : Core) (g : Fin 16) (x : GroupCtx) : Core := { k with groups := k.groups.set g x }

/-- A scalar register; a0 reads zero (R379). -/
def Context.getA (x : Context) (i : Nat) : Word :=
  if i = 0 then 0#64 else if h : i < 32 then x.a[i] else 0#64

/-- Write a scalar register with its poison; a0 discards the write (R379). -/
def Context.setA (x : Context) (i : Nat) (v : Word) (po : Bool) : Context :=
  if h : 0 < i ∧ i < 32 then
    { x with a := x.a.set i v (by omega),
             aPois := if po then x.aPois ||| BitVec.twoPow 32 i else x.aPois &&& ~~~ BitVec.twoPow 32 i }
  else x

/-- The poison of a scalar register. -/
def Context.poisA (x : Context) (i : Nat) : Bool := if i = 0 then false else x.aPois.getLsbD i

/-- A vector register. -/
def Context.getV (x : Context) (i : Nat) : VReg := if h : i < 64 then x.v[i] else VReg.zero

/-- Write a vector register. -/
def Context.setV (x : Context) (i : Nat) (r : VReg) : Context :=
  if h : i < 64 then { x with v := x.v.set i r h } else x

/-- A predicate register; p0 is all ones (R379). -/
def Context.getP (x : Context) (i : Nat) : Word :=
  if i = 0 then BitVec.allOnes 64 else if h : i < 8 then x.p[i] else 0#64

/-- Write a predicate register; p0 discards the write. -/
def Context.setP (x : Context) (i : Nat) (v : Word) : Context :=
  if h : 0 < i ∧ i < 8 then { x with p := x.p.set i v (by omega) } else x

/-- A lane of a vector register. -/
def VReg.lane (r : VReg) (i : Nat) : Lane := if h : i < 64 then r.lanes[i] else 0#32

/-- A vector register from a function of the lane. -/
def VReg.ofFn (f : Nat → Lane) (po : BitVec 4) : VReg :=
  { lanes := Vector.ofFn fun i : Fin 64 => f i.val, pois := po }

/-- The 256 bytes of a vector register, lane i at bytes 4 i (little-endian). -/
def VReg.bytes (r : VReg) : List Byte := r.lanes.toList.flatMap fun l => leBytes 4 l.toNat

/-- A vector register from bytes and flit poison. -/
def VReg.ofBytes (bs : List Byte) (po : BitVec 4) : VReg :=
  let arr := bs.toArray
  VReg.ofFn (fun i => BitVec.ofNat 32
    ((arr.getD (4 * i) 0#8).toNat + (arr.getD (4 * i + 1) 0#8).toNat * 256 +
      (arr.getD (4 * i + 2) 0#8).toNat * 65536 + (arr.getD (4 * i + 3) 0#8).toNat * 16777216)) po

end Sys2Proof.Machine
end

