-- ==== Sys2Proof/Machine/Crc.lean ====
section
/-!
DEFINITION. Crc.lean: the check-value units (R576 to R582) and the CRC-32C of the home segment (R178).
-/
namespace Sys2Proof.Machine

/-- A configured check-value unit (R576). -/
structure CrcCfg where
  width  : Nat
  poly   : Nat
  init   : Nat
  refIn  : Bool
  refOut : Bool
  xorOut : Nat
  deriving DecidableEq, Repr

/-- The low n bits of v in reverse order. -/
def bitReverse : Nat → Nat → Nat
  | 0, _ => 0
  | n + 1, v => (v % 2) * 2 ^ n + bitReverse n (v / 2)

/-- One bit of the computation of R576. -/
def crcBit (c : CrcCfg) (crc : Nat) (b : Bool) : Nat :=
  let top := crc.testBit (c.width - 1) != b
  let sh := (crc * 2) % 2 ^ c.width
  if top then sh ^^^ (c.poly % 2 ^ c.width) else sh

/-- One byte of the computation of R576. -/
def crcByte (c : CrcCfg) (crc : Nat) (b : Byte) : Nat :=
  let v := if c.refIn then bitReverse 8 b.toNat else b.toNat
  [7, 6, 5, 4, 3, 2, 1, 0].foldl (fun r i => crcBit c r (v.testBit i)) crc

/-- The register after a byte string, from a starting value. -/
def crcRun (c : CrcCfg) (start : Nat) (bs : List Byte) : Nat := bs.foldl (crcByte c) (start % 2 ^ c.width)

/-- The check value of a register (R576). -/
def crcFinish (c : CrcCfg) (crc : Nat) : Nat :=
  (if c.refOut then bitReverse c.width crc else crc) ^^^ (c.xorOut % 2 ^ c.width)

/-- The check value of a byte string. -/
def crcOf (c : CrcCfg) (bs : List Byte) : Nat := crcFinish c (crcRun c c.init bs)

/-- CRC-32C, the reset configuration of every unit (R577). -/
def crc32c : CrcCfg :=
  { width := 32, poly := 0x1EDC6F41, init := 0xFFFFFFFF, refIn := true, refOut := true, xorOut := 0xFFFFFFFF }

/-- The registers of check-value unit n (R588). -/
def offUnit (n : Nat) : Nat := offCHK + 0x40 * n

/-- The configuration of unit n as its registers hold it. -/
def State.crcUnit (s : State) (n : Nat) : CrcCfg :=
  { width := s.field (offUnit n) 6 0, refIn := s.bit (offUnit n) 8, refOut := s.bit (offUnit n) 9,
    poly := (s.reg (offUnit n + 8)).toNat, init := (s.reg (offUnit n + 0x10)).toNat,
    xorOut := (s.reg (offUnit n + 0x18)).toNat }

/-- The bytes of a check value appended to a peer transfer (R579). -/
def crcTrailer (c : CrcCfg) (v : Nat) : List Byte :=
  let bs := leBytes ((c.width + 7) / 8) v
  if c.refOut then bs else bs.reverse

end Sys2Proof.Machine
end

