-- ==== Sys2Proof/Machine/Output.lean ====
section
/-!
DEFINITION. Output.lean: completions, output records and the end of sequences (R509 to R512, R515, R532, R533,
R546 to R548, R654).
-/
namespace Sys2Proof.Machine

/-! Completions. -/

/-- The log entry of a command by its ring and CID that has not been acknowledged. -/
def isEntry (sq cid : Nat) (e : LogEntry) : Bool :=
  decide (e.cmd.sq.val = sq) && decide (e.cmd.cid.toNat = cid)

/-- Whether a log entry is completed but its completion is not written. -/
def LogEntry.due (e : LogEntry) : Bool :=
  !e.written && (match e.stage with | .done _ _ => true | _ => false)

/-- The 16 bytes of a completion entry (R515). -/
def completionBytes (sq cid : Nat) (rep : Bool) (status : BitVec 16) (result : Word) (ph : Bool) : List Byte :=
  leBytes 8 (cid + sq * 2 ^ 16 + flag rep * 2 ^ 22 + status.toNat * 2 ^ 32 + flag ph * 2 ^ 48) ++
    leBytes 8 result.toNat

/-- The completion ring of a submission ring (R554). -/
def State.compRing (s : State) (sq : Fin 64) : Fin 64 := Fin.ofNat 64 (s.field (ringOff (.sub sq) + 8) 45 40)

/-- Replace the first log entry that satisfies p. -/
def updateFirst {α : Type} (p : α → Bool) (f : α → α) : List α → List α
  | [] => []
  | x :: t => if p x then f x :: t else x :: updateFirst p f t

/-- Write the completions that wait, in completion order, while their rings take them (R511, R512). A
completion that must wait holds later ones of its ring back. -/
def State.drainCompletions (s : State) : List (Nat × Nat) → List (Fin 64) → State
  | [], _ => s
  | (sq, cid) :: rest, blocked =>
    let r := s.compRing (Fin.ofNat 64 sq)
    if blocked.contains r || !s.ringReady (.comp r) then
      let s := State.drainCompletions s rest (r :: blocked)
      { s with compQ := (sq, cid) :: s.compQ }
    else
      match s.log.find? (fun e => isEntry sq cid e && e.due) with
      | none => State.drainCompletions s rest blocked
      | some e =>
        match e.stage with
        | .done st res =>
          let s := (s.ringPush (.comp r) (completionBytes sq cid e.replayed st res)).trace 6 (cid + sq * 65536) 0 0 0
          let s := { s with log := updateFirst (fun e => isEntry sq cid e && e.due)
                              (fun e => { e with written := true }) s.log,
                            compSent := tabSet s.compSent r.val (tabGetD s.compSent r.val [] ++ [(sq, cid)]) }
          State.drainCompletions s rest blocked
        | _ => State.drainCompletions s rest blocked

/-- Write every completion that can be written now. -/
def State.flushCompletions (s : State) : State := State.drainCompletions { s with compQ := [] } s.compQ []

/-- Whether a command is not completed. -/
def LogEntry.isOpen (e : LogEntry) : Bool := match e.stage with
  | .done _ _ => false
  | _ => true

/-- Whether a command has started. -/
def LogEntry.begun (e : LogEntry) : Bool := match e.stage with
  | .waiting => false
  | _ => true

/-- Whether a code is one of the commands of R516 and R774. -/
def opcKnown (c : BitVec 8) : Bool := decide (1 ≤ c.toNat) && decide (c.toNat ≤ 0x13)

/-- Walk the command log: a SYNC completes once every earlier command of its ring has, and a reserved code completes with
INVAL in its turn (R514, R516). Rings with an open and with a waiting earlier entry are carried along; the result lists what
completed. -/
def settleLog : List LogEntry → List Nat → List Nat → List LogEntry × List (Nat × Nat)
  | [], _, _ => ([], [])
  | e :: t, opened, waiting =>
    let sq := e.cmd.sq.val
    let turn := !waiting.contains sq && !(e.cmd.fence && opened.contains sq)
    let done : Option Nat :=
      if !e.isOpen then none
      else if e.begun then (if e.cmd.opc = 0x0F#8 && !opened.contains sq then some 0 else none)
      else if turn && !opcKnown e.cmd.opc then some 1 else none
    match done with
    | some st =>
      let r := settleLog t opened waiting
      ({ e with stage := .done (BitVec.ofNat 16 st) 0#64 } :: r.1, (sq, e.cmd.cid.toNat) :: r.2)
    | none =>
      let r := settleLog t (if e.isOpen then sq :: opened else opened) (if e.begun then waiting else sq :: waiting)
      (e :: r.1, r.2)

/-- A SELFTEST or an UNLOAD is under way: no wave starts (R520, R529). -/
def State.draining (s : State) : Bool :=
  s.log.any fun e => e.isOpen && e.begun && (decide (e.cmd.opc = 0x02#8) || decide (e.cmd.opc = 0x10#8))

/-- Settle the command log and write what completed. -/
def State.settleCmds (s : State) : State :=
  let r := settleLog s.log [] []
  State.flushCompletions { s with log := r.1, compQ := s.compQ ++ r.2 }

/-- Complete a command: status and result to its log entry, then its completion entry (R515, R548). -/
def State.complete (s : State) (sq cid : Nat) (status : Nat) (result : Word) : State :=
  let mine (e : LogEntry) : Bool := isEntry sq cid e && e.isOpen
  if s.log.any mine then
    State.settleCmds { s with
      log := updateFirst mine (fun e => { e with stage := .done (BitVec.ofNat 16 status) result }) s.log,
      compQ := s.compQ ++ [(sq, cid)] }
  else s

/-! Output records. -/

/-- The 64 bytes of an output record (R532), with CHECK from the ring's unit (R578). -/
def State.outBytes (s : State) (o : OutRec) (ph : Bool) : List Byte :=
  let cfg := ringOff (.out (Fin.ofNat 256 o.ring)) + 8
  let body := leBytes 8 (o.kind + o.n * 2 ^ 8 + flag ph * 2 ^ 16 + o.seqn * 2 ^ 24 + o.pos * 2 ^ 32) ++
    leBytes 8 o.wave.toNat ++ padTo 44 o.payload
  body ++ (if s.bit cfg 35 then leBytes 4 (crcOf (s.crcUnit (s.field cfg 39 36)) body) else leBytes 4 0)

/-- The END record of a closing sequence completes its CLOSE (R524). -/
def State.outWritten (s : State) (o : OutRec) : State :=
  let s := { s with lastCommit := s.churns }
  if o.kind = 3 then
    match tabGet? s.seqs o.seqn with
    | some q =>
      match q.closing with
      | some (sq, cid) =>
        State.complete { s with seqs := tabSet s.seqs o.seqn { q with closing := none } } sq cid 0 0#64
      | none => s
    | none => s
  else s

/-- The port that carries a ring's traffic (R539). -/
def State.carrier (s : State) (r : RingId) : Port :=
  let p := s.ringPort r
  if s.portUp p then p else match p with
    | .a => .b
    | .b => .a

/-- The IDE bit of a port in SEAL_STAT (R758). -/
def ideBit : Port → Nat
  | .a => 2
  | .b => 3

/-- While sealed, output over a port without active IDE is held (R751). -/
def State.outHeldBack (s : State) (r : RingId) : Bool := s.isSealed && !s.bit offSEAL (ideBit (s.carrier r))

/-- Write the output records that wait, in order, while their rings take them (R511, R512, R533, R751). -/
def State.drainOutput (s : State) : List OutRec → List Nat → State
  | [], _ => s
  | o :: rest, blocked =>
    let r : Fin 256 := Fin.ofNat 256 o.ring
    if blocked.contains o.ring || !s.ringReady (.out r) || s.outHeldBack (.out r) then
      let s := State.drainOutput s rest (o.ring :: blocked)
      { s with outQ := o :: s.outQ }
    else
      let s := s.ringPush (.out r) (s.outBytes o)
      let s := { s with outSent := tabSet s.outSent o.ring (tabGetD s.outSent o.ring [] ++ [o]) }
      State.drainOutput (s.outWritten o) rest blocked

/-- Write every output record that can be written now. -/
def State.flushOutput (s : State) : State := State.drainOutput { s with outQ := [] } s.outQ []

/-- Whether the rings of a sequence keep egress waiting (R300, R511). -/
def State.egressStalled (s : State) (ring : Nat) : Bool := s.outQ.any fun o => o.ring = ring

/-- Hand an output record to its ring. -/
def State.output (s : State) (o : OutRec) : State := { s with outQ := s.outQ ++ [o] }.flushOutput

/-- Write everything that waits for a ring: events, completions, output. -/
def State.flushRings (s : State) : State :=
  ((s.drainEvents 0 64).drainEvents 1 64).flushCompletions.flushOutput

/-! The end of a sequence. -/

/-- U+FFFD in UTF-8 (R530, R531). -/
def utf8Bad : List Byte := [0xEF#8, 0xBF#8, 0xBD#8]

/-- End a sequence with a reason: held bytes, then its END record (R531, R532). Its pages are released at the
next wave boundary (R357). -/
def State.endSeq (s : State) (i : Nat) (reason : Nat) : State :=
  match tabGet? s.seqs i with
  | none => s
  | some q =>
    if q.ending.isSome then s
    else
      let len := q.hist.length
      let s := { s with seqs := tabSet s.seqs i { q with phase := .ended, ending := some reason, outHeld := [] } }
      let wave := s.lastWave
      let s := if q.bytesOut && !q.outHeld.isEmpty then
          s.output { ring := q.ring, kind := 2, n := 3, seqn := i, pos := len - 1, wave := wave, payload := utf8Bad }
        else s
      s.output { ring := q.ring, kind := 3, n := reason, seqn := i, pos := len, wave := wave, payload := [] }

/-- End a sequence with end reason ABORTED and its FAULT event (R654). -/
def State.abortSeq (s : State) (i cause : Nat) : State :=
  match tabGet? s.seqs i with
  | none => s
  | some q =>
    if q.ending.isSome then s
    else (s.endSeq i 5).event 9 3 0#64 (BitVec.ofNat 64 i) (BitVec.ofNat 64 cause)

/-- End every open sequence with end reason ABORTED (R650, R658, R666). -/
def State.abortAll (s : State) (cause : Nat) : State :=
  (s.seqs.map (·.1)).foldl (fun s i => s.abortSeq i cause) s

/-- Both backing copies of a field range are lost (R666). -/
def State.backLost (s : State) (n off len : Nat) : State :=
  let s := (s.abortAll 6).stopWaves
  s.event 9 2 (posUnit 11 n 0) (BitVec.ofNat 64 off) (BitVec.ofNat 64 len)

end Sys2Proof.Machine
end

