-- ==== Sys2Proof/Machine/Access.lean ====
section
/-!
DEFINITION. Access.lean: the device address map and every read and write of fields, core stores, HBM4 and
DDR5 (R127 to R151, R233 to R252, R630 to R638, R686, R811, R812).
-/
namespace Sys2Proof.Machine

/-! Positions and the address map. -/

/-- Logical position n is a K12 (R20). -/
def isK12 (n : Nat) : Bool := decide (n % 13 = 12)

/-- The physical position of logical position n in its cluster, 15 when it has none (R627). -/
def State.physOf (s : State) (n : Nat) : Nat :=
  let v := if h : n / 13 < 48 then s.grain.cl[n / 13] else 0#53
  bitsOf v.toNat (4 * (n % 13) + 3) (4 * (n % 13))

/-- Whether logical position n has a physical position (R21). -/
def State.hasPos (s : State) (n : Nat) : Bool := decide (s.physOf n ≠ 15)

/-- The split in force at position n, 0 for K12: FPROP, or while a change is in progress the split before it (R126, R134,
R136). -/
def State.fprop (s : State) (n : Nat) : Nat :=
  if isK12 n then 0 else (tabGet? s.splits n).getD (s.field (offSTN n + 0x880) 4 0)

/-- Bytes of the field proper of position n (R125). -/
def State.fieldLen (s : State) (n : Nat) : Nat := if s.hasPos n then s.fprop n * 0x200000 else 0

/-- The memory key of a field offset (R127). -/
def fieldKey (n off : Nat) : Nat := 0x0A0000000000 + 0x2000000 * n + off

/-- The memory key of a core-store offset. -/
def coreKey (n off : Nat) : Nat := 2 ^ 48 + n * 2 ^ 20 + off

/-- The memory key of a system-area offset (R128). -/
def sysKey (st off : Nat) : Nat := 0x0A04E0000000 + 0x8000000 * st + off

/-- What a device physical address names (R233 to R235). -/
inductive Target where
  | hbm (h : Nat)
  | ddr (chunk off : Nat)
  | field (n off : Nat)
  | sys (st off : Nat)
  | regs (off : Nat)
  | unmapped
  deriving DecidableEq, Repr

/-- The map of R233. -/
def targetOf (pa : Nat) : Target :=
  if pa < 0x006000000000 then .hbm (pa / 0xC00000000)
  else if 0x010000000000 ≤ pa ∧ pa < 0x090000000000 then
    .ddr ((pa - 0x010000000000) / 2 ^ 38) ((pa - 0x010000000000) % 2 ^ 38)
  else if 0x0A0000000000 ≤ pa ∧ pa < 0x0A04E0000000 then
    .field ((pa - 0x0A0000000000) / 2 ^ 25) ((pa - 0x0A0000000000) % 2 ^ 25)
  else if 0x0A04E0000000 ≤ pa ∧ pa < 0x0A0500000000 then
    .sys ((pa - 0x0A04E0000000) / 2 ^ 27) ((pa - 0x0A04E0000000) % 2 ^ 27)
  else if 0x0B0000000000 ≤ pa ∧ pa < 0x0B0004000000 then .regs (pa - 0x0B0000000000)
  else .unmapped

/-- The stack that owns the memory of an address (R15, R235). -/
def ownerOf (pa : Nat) : Nat :=
  match targetOf pa with
  | .hbm h => h / 2
  | .ddr c _ => c / 8
  | .field n _ => n / 156
  | .sys st _ => st
  | _ => 0

/-- The memory controller of an address: 0 to 7 for H0 to H7, 8 to 23 for D0 to D15. -/
def ctlOf (pa : Nat) : Nat :=
  match targetOf pa with
  | .hbm h => h
  | .ddr c _ => 8 + c / 2
  | _ => 0

/-- The status register of a DDR5 channel (R282). -/
def offCh (d : Nat) : Nat := offDDR + 0x40 * d

/-- State of a DDR5 channel (R282). -/
def State.chState (s : State) (d : Nat) : Nat := s.field (offCh d) 10 8

/-- Populated bytes of a DDR5 chunk, 0 for a chunk that is wholly a hole (R235). -/
def State.chunkLen (s : State) (k : Nat) : Nat :=
  let d := k / 2
  let st := s.chState d
  if st = 0 ∨ st = 4 ∨ st = 5 then 0
  else if k % 2 < s.field (offCh d) 25 24 then s.field (offCh d) 23 15 * 2 ^ 30 else 0

/-- Whether a chunk is online (R283). -/
def State.chunkOnline (s : State) (k : Nat) : Bool := s.bit (offDDR + 0x800) k

/-- Whether a chunk is lent to the host (R283). -/
def State.chunkLent (s : State) (k : Nat) : Bool := s.bit (offDDR + 0x800) (32 + k)

/-- The DDR5 chunk being filled for lending (R267). -/
def State.lendFilling (s : State) (k : Nat) : Bool := s.fillQ.any fun x => decide (x.1 = k) && decide (x.2.1 = 1)

/-- How the device answers an access (R130, R236, R251). -/
inductive Access where
  | ok | refused | waits
  deriving DecidableEq, Repr

/-- Access to HBM or DDR5 by a device requester; mgmt for the management cores (R236, R251, R677). -/
def State.memAccess (s : State) (pa : Nat) (mgmt : Bool) : Access :=
  match targetOf pa with
  | .hbm _ => if 0x005F80000000 ≤ pa ∧ !mgmt then .refused else .ok
  | .ddr k off =>
    if s.chunkLen k ≤ off then .refused
    else if s.chunkLent k then .refused
    else if s.chunkOnline k then .ok
    else .waits
  | _ => .refused

/-- The range of a field proper that a split change moves, when one is in progress (R134). -/
def State.splitMoving (s : State) (n off : Nat) : Bool :=
  match tabGet? s.splits n with
  | some a =>
    let f := s.field (offSTN n + 0x880) 4 0
    decide (Nat.min a f * 0x200000 ≤ off) && decide (off < Nat.max a f * 0x200000)
  | none => false

/-- Access to a byte of a field window (R130, R134). -/
def State.fieldAccess (s : State) (n off : Nat) : Access :=
  if n < 624 ∧ off < s.fieldLen n ∧ !isK12 n then (if s.splitMoving n off then .waits else .ok)
  else if s.splitMoving n off then .waits
  else .refused

/-- Record a refused access to the field window of position n (R130). -/
def State.accv (s : State) (n : Nat) : State := if n < 624 then s.setBit (offSTN n + 0x888) 9 else s

/-- Record a refused write into a backed range (R149). -/
def State.bwr (s : State) (n : Nat) : State := if n < 624 then s.setBit (offSTN n + 0x888) 10 else s

/-- Any address: access by station code or the tier movers. -/
def State.anyAccess (s : State) (pa : Nat) : Access :=
  match targetOf pa with
  | .field n off => s.fieldAccess n off
  | _ => s.memAccess pa false

/-- The points at which a range is checked: its start, its end, and every multiple of 2 MiB inside. -/
def rangePoints (pa len : Nat) : List Nat :=
  if len = 0 then []
  else pa :: (pa + len - 1) ::
    ((List.range ((pa + len - 1) / 2 ^ 21 - pa / 2 ^ 21)).map fun i => (pa / 2 ^ 21 + 1 + i) * 2 ^ 21)

/-- Access to a whole range: refused when any part is, else waiting when any part waits. -/
def rangeAccess (f : Nat → Access) (pa len : Nat) : Access :=
  let l := (rangePoints pa len).map f
  if l.contains .refused then .refused else if l.contains .waits then .waits else .ok

/-! Backing records (R144 to R151). -/

/-- Whether a record of position n covers a field offset (R144). -/
def BackRec.covers (b : BackRec) (off : Nat) : Bool :=
  decide (512 * b.foff ≤ off) && decide (off < 512 * (b.foff + b.flen))

/-- The record of position n that covers an offset. -/
def State.backAt (s : State) (n off : Nat) : Option BackRec :=
  (s.backs.find? fun x => decide (x.1 = n) && x.2.covers off).map (·.2)

/-- Whether a record covers any byte of a range of position n. -/
def State.backedIn (s : State) (n off len : Nat) : Bool :=
  s.backs.any fun x => decide (x.1 = n) && decide (512 * x.2.foff < off + len) &&
    decide (off < 512 * (x.2.foff + x.2.flen))

/-! HBM4 and DDR5 with their codes (R238 to R245, R634, R811, R812). -/

/-- What a controller makes of stored data: bytes to deliver, poison, and what to record; found is an error that is detected, and
corrected where it lies in one device. -/
inductive EccOut where
  | good | corrected | found | bad | open_
  deriving DecidableEq, Repr

/-- Differing data bits of n bytes. -/
def Store.flipBits (st : Store) (a n : Nat) : Nat :=
  ((memCells st.flips a (a + n)).map fun c => onesIn 8 c.2.toNat).foldl (· + ·) 0

/-- Differing check bits of the first code word of a flit. -/
def Store.chkBits (st : Store) (a : Nat) : Nat :=
  ((memCells st.chk a (a + 8)).map fun c => onesIn 8 c.2.toNat).foldl (· + ·) 0

/-- DDR5 device width code of an address: 1 x4, 2 x8 (R282); 0 for HBM. -/
def State.devWidth (s : State) (pa : Nat) : Nat :=
  match targetOf pa with
  | .ddr k _ => s.field (offCh (k / 2)) 27 26
  | _ => 0

/-- The bytes of the merge unit of R244 at an address. -/
def State.unitLen (s : State) (pa : Nat) : Nat := if s.devWidth pa = 2 then 8 else 64

/-- The outcome of the codes over n bytes of a flit, a whole flit or one 8-byte code word, poison marks apart (R239, R243, R812). With
DDR5 the spec gives no place of a data bit in a device: a single differing bit is certain to be corrected, two differing bits under
the code of x4 devices lie in one device or in two and are detected (notes/assumptions/7.md). -/
def State.eccOut (s : State) (st : Store) (a n : Nat) : EccOut :=
  if (memCells st.flips a (a + n)).isEmpty && (memCells st.chk a (a + n)).isEmpty then .good
  else
    let dw := s.devWidth a
    let words : List Nat :=
      if dw = 1 then [st.flipBits a n + st.chkBits a]
      else (List.range (n / 8)).map fun i => st.flipBits (a + 8 * i) 8 + (if (a + 8 * i) % 64 = 0 then st.chkBits a else 0)
    if words.all (· = 0) then .good
    else if words.all (· ≤ 1) then .corrected
    else if dw = 0 && words.all (· ≤ 2) then .bad
    else if dw = 1 && words.all (· ≤ 2) then .found
    else .open_

/-- A flit as delivered: bytes and poison. -/
structure Delivered where
  bytes : List Byte
  pois  : Bool
  deriving DecidableEq, Repr

/-- The bytes of a flit as they were written, data flips undone. -/
def Store.trueBytes (st : Store) (a n : Nat) : List Byte :=
  (List.range n).map fun i => memByte st.bytes (a + i) ^^^ memByte st.flips (a + i)

/-- Free bytes: 64 bytes from eight free values (R812, notes/assumptions/2.md). -/
def State.freeFlit (s : State) : List Byte × State :=
  ((List.range 8).flatMap fun i => leBytes 8 (Config.freeValue (s.freeCtr + i)).toNat,
    { s with freeCtr := s.freeCtr + 8 })

/-- The controller's code reads n bytes of a flit of HBM4 or DDR5 that bear no poison mark: delivered data, and the error records of
R631. -/
def State.readCode (s : State) (a n : Nat) : Delivered × State :=
  let kind := if ctlOf a < 8 then 7 else 9
  let u := ctlUnit (ctlOf a)
  let fixed (s : State) : Delivered × State := ({ bytes := s.mem.trueBytes a n, pois := false }, s.errRec kind 0 u a)
  let lost (s : State) : Delivered × State := ({ bytes := s.mem.read a n, pois := true }, s.errRec (kind + 1) 3 u a)
  match s.eccOut s.mem a n with
  | .good => ({ bytes := s.mem.read a n, pois := false }, s)
  | .corrected => fixed s
  | .bad => lost s
  | .found =>
    let (w, s) := s.takeFree
    if w.toNat % 2 = 0 then fixed s else lost s
  | .open_ =>
    let (w, s) := s.takeFree
    match w.toNat % 3 with
    | 0 => fixed s
    | 1 => lost s
    | _ =>
      let (bs, s) := s.freeFlit
      ({ bytes := bs.take n, pois := false }, s)

/-- The controller reads one flit of HBM4 or DDR5; one with a poisoned unit is delivered poisoned, and no error is counted (R634,
notes/assumptions/7.md). -/
def State.readDram (s : State) (f : Nat) : Delivered × State :=
  if s.mem.marks f ≠ 0#8 then ({ bytes := s.mem.read (64 * f) 64, pois := true }, s) else s.readCode (64 * f) 64

/-! The armed flip (R686). -/

/-- The flit that ERR_FLIP_TGT names in the memory that its KIND says, as a memory key; none for kinds that
name no stored flit. -/
def State.flipKey (s : State) : Option Nat :=
  let a := s.field (offERR + 0x10) 47 0 / 64
  let pos := s.field (offERR + 0x10) 59 50
  match s.field (offERR + 0x10) 63 60 with
  | 1 => some (fieldKey pos (64 * a) / 64)
  | 2 => some (coreKey pos (64 * a) / 64)
  | 3 => some a
  | 4 => some a
  | 5 => some a
  | 8 => some (sysKey (pos % 4) (64 * a) / 64)
  | _ => none

/-- The unit that an armed flip of a stored flit names. -/
def flipUnit (key : Nat) : Word :=
  match targetOf (64 * key) with
  | .hbm _ => ctlUnit (ctlOf (64 * key))
  | .ddr _ _ => ctlUnit (ctlOf (64 * key))
  | .field n _ => posUnit 11 n 0
  | _ => 0#64

/-- The flip is done: ARM clears, DONE is set, a record of kind 14 is written (R686). -/
def State.flipDone (s : State) (unit : Word) (addr : Nat) : State :=
  (((s.clearBit (offERR + 0x20) 0).setBit (offERR + 0x20) 2)).errRec 14 0 unit addr

/-- Whether a flip is armed for a stored flit: cached copies are kind 5, the rest kinds 1 to 4 and 8. -/
def State.flipArmed (s : State) (cached : Bool) (a n : Nat) : Option Nat :=
  if s.bit (offERR + 0x20) 0 then
    let k := s.field (offERR + 0x10) 63 60
    if cached != decide (k = 5) then none
    else
      match s.flipKey with
      | some f => if (flitsOf a n).contains f then some f else none
      | none => none
  else none

/-- Apply an armed flip after a write of [a, a + n) to memory (R686). -/
def State.flipMem (s : State) (a n : Nat) : State :=
  match s.flipArmed false a n with
  | none => s
  | some f =>
    let m := s.reg (offERR + 0x18)
    let par := s.bit (offERR + 0x20) 1
    let dw := s.devWidth (64 * f)
    let dram := match targetOf (64 * f) with
      | .hbm _ => true
      | .ddr _ _ => true
      | _ => false
    let st :=
      if !par then s.mem.flipData (64 * f) m
      else if dram then s.mem.flipCheck (64 * f) (if dw = 0 then 8 else if dw = 2 then 16 else 64) m
      else s.mem.flipParity (64 * f) m
    State.flipDone { s with mem := st } (flipUnit f) (64 * f)

/-! Writes. -/

/-- Write bytes to SRAM (field, core store, system area): good parity, or a stored poison mark on each flit
that the write covers whole when po holds (R632). A part of a flit written poisoned marks its flit. -/
def State.writeSram (s : State) (a : Nat) (bs : List Byte) (po : Bool) : State :=
  if bs.isEmpty then s
  else
    let st := s.mem.write a bs
    let st := if po then (flitsOf a bs.length).foldl Store.markSram st else st
    State.flipMem { s with mem := st } a bs.length

/-- The merge units of R244 that a write touches only in part and whose stored data is not clean. -/
def State.dirtyUnits (s : State) (a n : Nat) : List Nat :=
  let u := s.unitLen a
  let ends := [a / u, (a + n - 1) / u].eraseDups
  ends.filter fun x =>
    (decide (u * x < a) || decide (a + n < u * x + u)) &&
      !((memCells s.mem.flips (u * x) (u * x + u)).isEmpty && (memCells s.mem.chk (u * x) (u * x + u)).isEmpty)

/-- The 8-byte units of flit f whose merge units [a, a + n) covers whole, or touches. -/
def State.unitMask (s : State) (f a n : Nat) (whole : Bool) : BitVec 8 :=
  let u := s.unitLen a
  maskBy 8 fun i =>
    let lo := (64 * f + 8 * i) / u * u
    if whole then decide (a ≤ lo) && decide (lo + u ≤ a + n) else decide (lo < a + n) && decide (a < lo + u)

/-- The read of a read-modify-write of one unit: corrected bytes are written back, an uncorrectable one leaves
the unit poisoned (R244, R811). -/
def State.rmwUnit (s : State) (a x : Nat) : State :=
  let u := s.unitLen a
  let f := u * x / 64
  let mine := s.unitMask f (u * x) u true
  if s.mem.marks f &&& mine ≠ 0#8 then s
  else
    let (d, s) := s.readCode (u * x) u
    let st := s.mem.write (u * x) d.bytes
    { s with mem := if d.pois then st.setMarks f (st.marks f ||| mine) else st }

/-- The poison marks of a flit after a write of [a, a + n): a poisoned write marks the merge units that it touches, a good one clears
those that it covers whole; a part of a poisoned unit leaves it poisoned (R634, R811). -/
def State.remark (s : State) (st : Store) (a n : Nat) (po : Bool) (f : Nat) : Store :=
  let m := st.marks f
  let m' := if po then m ||| s.unitMask f a n false else m &&& ~~~ s.unitMask f a n true
  if m' = m then st else st.setMarks f m'

/-- Write bytes to HBM4 or DDR5 (R244, R634, R811): whole units are written without a read, parts merge. -/
def State.writeDram (s : State) (a : Nat) (bs : List Byte) (po : Bool) : State :=
  if bs.isEmpty then s
  else
    let n := bs.length
    let s := (s.dirtyUnits a n).foldl (fun s x => s.rmwUnit a x) s
    let st := (flitsOf a n).foldl (fun st f => s.remark st a n po f) (s.mem.write a bs)
    State.flipMem { s with mem := st } a n

/-- Write bytes at a memory key, whichever memory holds it. -/
def State.writeMem (s : State) (a : Nat) (bs : List Byte) (po : Bool) : State :=
  match targetOf a with
  | .hbm _ => s.writeDram a bs po
  | .ddr _ _ => s.writeDram a bs po
  | _ => s.writeSram a bs po

/-- Write whole flits with their own poison marks from an aligned key. -/
def State.writeFlits (s : State) (a : Nat) : List Delivered → State
  | [] => s
  | d :: t => (s.writeMem a d.bytes d.pois).writeFlits (a + 64) t

/-! Reads of SRAM (R630, R633) and restoration (R147). -/

/-- Read the 512-byte beat of a backing copy; none when uncorrectable. -/
def State.readCopy (s : State) (pa : Nat) : Option (List Byte) × State :=
  let (bs, bad, s) := (List.range 8).foldl (fun (acc : List Byte × Bool × State) i =>
    let (bs, bad, s) := acc
    let (d, s) := s.readDram (pa / 64 + i)
    (bs ++ d.bytes, bad || d.pois, s)) ([], false, s)
  (if bad then none else some bs, s)

/-- Engine registers of position n, engine e (R90 to R93). -/
def offENG (n e : Nat) : Nat := offSTN n + 0x800 + 0x40 * e

/-- A feeder that waits for a restoration takes its beat as the field now holds it: when that reads good, and as it was read
when no record covers it any more (R82). The first flag says that it goes on, the second that it does so as read. -/
def Feeder.freed (s : State) (n : Nat) (f : Feeder) : Feeder × Bool × Bool :=
  match f.hold, f.buf with
  | .restore, b :: rest =>
    let key := fieldKey n b.addr
    if (s.mem.badBytes key b.bytes.length).isEmpty then
      ({ hold := .ready, buf := { b with bytes := s.mem.read key b.bytes.length, bad := [] } :: rest }, true, false)
    else if (s.backAt n b.addr).isNone then ({ hold := .ready, buf := { b with asRead := true } :: rest }, true, true)
    else (f, false, false)
  | _, _ => (f, false, false)

/-- Whether the scale phase of a run that waits for a restoration may go on. -/
def Run.freed (s : State) (n : Nat) (r : Run) : Bool :=
  let a := r.addr + r.pre.length
  r.wait && ((s.mem.badBytes (fieldKey n a) 512).isEmpty || (s.backAt n a).isNone)

/-- The feeders and scale phases of an engine whose beats are restored go on: WREST; those that no record covers any more go
on as read, with an error record (R82, R147). -/
def State.freeFeeders (s : State) (n e : Nat) : State :=
  let g := (s.core n).eng e
  if !(g.feeders.toList.any (fun f => decide (f.hold = .restore)) || g.runs.any (·.wait)) then s
  else
    let l := g.feeders.toList.map fun f => f.freed s n
    let restored := l.any (fun x => x.2.1 && !x.2.2) || g.runs.any fun r => r.freed s n && (s.backAt n (r.addr + r.pre.length)).isSome
    let g' := { g with feeders := Vector.ofFn fun i : Fin 32 => (g.feeders[i].freed s n).1,
                       runs := g.runs.map fun r => if r.freed s n then { r with wait := false } else r }
    let s := s.setCore n ((s.core n).setEng e g')
    let s := if restored then s.setBit (offENG n e + 8) 18 else s
    l.foldl (fun s x => if x.2.2 then s.errRec 5 3 (posUnit 2 n e) (x.1.buf.head?.elim 0 (·.addr)) else s) s

/-- A beat of position n is restored: feeders that wait for it go on, unless the core's clock is skipped (R82, R85, R147). -/
def State.beatRestored (s : State) (n : Nat) : State :=
  if s.coreLive n then (s.freeFeeders n 0).freeFeeders n 1 else s

/-- Whether a BACK fill that has started is writing the beat at an offset of position n (R263). -/
def State.backFilling (s : State) (n off : Nat) : Bool :=
  s.movers.any fun mv => mv.2.q.toList.any fun q => q.any fun d =>
    d.started && !d.copied && decide (fieldOf d.w.w0 7 0 = 1) && bitOf d.w.w0 11 &&
      (let dst := fieldOf d.w.w2 47 0
       let len := (fieldOf d.w.w0 55 32 + 1) * 256
       decide (dst ≤ fieldKey n off) && decide (fieldKey n off < dst + len))

/-- Whether the restoration of a beat waits: for a BACK fill that is writing it (R263), for a calibration window of its copies'
controllers (R276), or while class 4 is stopped (R279; that restorations carry class 4, weight refill, is DEDUCED from R271,
notes/assumptions/81.md). -/
def State.copyShut (s : State) (n off : Nat) : Bool :=
  s.backFilling n off || decide (s.field (offTIER 0 + 0x60) 11 0 = 0) || (s.backAt n off).any fun b =>
    (b.baddr :: b.alt.toList).any fun a => (tabGet? s.ctls (ctlOf (a + off - 512 * b.foff))).any (·.cal)

/-- Whether a read of field bytes needs the restoration of a beat, and that waits (R263, R276). -/
def State.restoreWaits (s : State) (n off len : Nat) : Bool :=
  (List.range ((off + len + 511) / 512 - off / 512)).any fun i =>
    let o := 512 * (off / 512 + i)
    (s.backAt n o).isSome && s.copyShut n o && !(s.mem.badBytes (fieldKey n o) 512).isEmpty

/-- Read the beat of a backing copy for a restoration, its bytes counted under class 4 (R147, R277). -/
def State.readBeat (s : State) (pa : Nat) : Option (List Byte) × State :=
  let (b, s) := s.readCopy pa
  (b, s.count (0x480 + ctlOf pa) 5 512)

/-- Restore a 512-byte beat of a backed range from BADDR, then ALT (R147); when both fail, R666 applies. The
result says whether the beat was restored. -/
def State.restoreBeat (s : State) (n beat : Nat) : Bool × State :=
  match s.backAt n (512 * beat) with
  | none => (false, s)
  | some b =>
    let o := 512 * beat - 512 * b.foff
    let done (s : State) (bs : List Byte) : Bool × State :=
      let s := s.writeSram (fieldKey n (512 * beat)) bs false
      let s := s.countReg (offSTN n + 0x8A0)
      (true, { s with restored := s.restored ++ [(n, beat)] }.beatRestored n)
    match s.readBeat (b.baddr + o) with
    | (some bs, s) => done s bs
    | (none, s) =>
      match b.alt with
      | none => (false, s.backLost n (512 * beat) 512)
      | some alt =>
        match s.readBeat (alt + o) with
        | (some bs, s) => done s bs
        | (none, s) => (false, s.backLost n (512 * beat) 512)

/-- A beat that was restored in this churn fails parity again at an offset: its row is due to be mapped (R165). -/
def State.failsAgain (s : State) (n off : Nat) : State :=
  if s.restored.contains (n, off / 512) && !s.badAgain.contains (n, off) then { s with badAgain := s.badAgain ++ [(n, off)] } else s

/-- Read one flit of a field proper (R81, R82, R633): a backed flit that fails is read again, then restored. -/
def State.readField (s : State) (n f : Nat) : Delivered × State :=
  let key := fieldKey n (64 * f)
  let plain (s : State) (po : Bool) : Delivered × State := ({ bytes := s.mem.read key 64, pois := po }, s)
  match s.mem.flitState (key / 64) with
  | .good => plain s false
  | st =>
    let s := s.failsAgain n (64 * f)
    if (s.backAt n (64 * f)).isSome then
      let (ok, s) := s.restoreBeat n (f / 8)
      if ok then plain (s.errRec 1 2 (posUnit 11 n 0) (64 * f)) false
      else plain (s.errRec 1 3 (posUnit 11 n 0) (64 * f)) true
    else
      match st with
      | .poison => plain s true
      | _ => plain (s.errRec 1 3 (posUnit 11 n 0) (64 * f)) true

/-- Read one flit of the core store of position n (R633). -/
def State.readStore (s : State) (n f : Nat) : Delivered × State :=
  let key := coreKey n (64 * f)
  let plain (s : State) (po : Bool) : Delivered × State := ({ bytes := s.mem.read key 64, pois := po }, s)
  match s.mem.flitState (key / 64) with
  | .good => plain s false
  | .poison => plain s true
  | .error => plain (s.errRec 2 3 (posUnit 1 n 0) (64 * f)) true

/-- The outcome of a read of several flits: bytes, poison by flit, state. -/
structure ReadOut where
  bytes : List Byte
  pois  : List Bool
  s     : State

/-- Read consecutive flits with a one-flit read. -/
def readMany (rd : State → Nat → Delivered × State) (s : State) (f : Nat) : Nat → ReadOut
  | 0 => { bytes := [], pois := [], s := s }
  | k + 1 =>
    let (d, s) := rd s f
    let r := readMany rd s (f + 1) k
    { bytes := d.bytes ++ r.bytes, pois := d.pois :: r.pois, s := r.s }

/-- Cut a read of whole flits to the bytes asked for; the poison is that of every flit touched. -/
def ReadOut.cut (r : ReadOut) (off n : Nat) : ReadOut := { r with bytes := (r.bytes.drop off).take n }

/-- The number of flits that [a, a + n) touches. -/
def flitCount (a n : Nat) : Nat := if n = 0 then 0 else (a + n - 1) / 64 - a / 64 + 1

/-- Read n bytes of a field proper from an offset. -/
def State.fieldRead (s : State) (p off n : Nat) : ReadOut :=
  (readMany (fun s f => s.readField p f) s (off / 64) (flitCount off n)).cut (off % 64) n

/-- Read n bytes of a core store from an offset. -/
def State.storeRead (s : State) (p off n : Nat) : ReadOut :=
  (readMany (fun s f => s.readStore p f) s (off / 64) (flitCount off n)).cut (off % 64) n

/-- Read n bytes of HBM4 or DDR5. -/
def State.dramRead (s : State) (pa n : Nat) : ReadOut :=
  (readMany State.readDram s (pa / 64) (flitCount pa n)).cut (pa % 64) n

/-- Write to the core store of position n. -/
def State.storeWrite (s : State) (p off : Nat) (bs : List Byte) (po : Bool) : State :=
  s.writeSram (coreKey p off) bs po

/-- Write to a field proper. -/
def State.fieldWrite (s : State) (p off : Nat) (bs : List Byte) (po : Bool) : State :=
  s.writeSram (fieldKey p off) bs po

/-- Four poison bits from a list of flits. -/
def pois4 (l : List Bool) : BitVec 4 := maskBy 4 fun i => l.getD i false

end Sys2Proof.Machine
end

