-- ==== Sys2Proof/Machine/Flags.lean ====
section
/-!
DEFINITION. Flags.lean: the vector mode word VMODE and every flag of the block's arithmetic (R112 to R118, R205,
R456, R492).
-/
namespace Sys2Proof.Machine

/-- The VMODE register of position n (R112). -/
def offVMODE (n : Nat) : Nat := offSTN n + 0x10

/-- The rounding and saturation of FP32 results under VMODE (R112, R113). -/
def State.mode32 (s : State) (n : Nat) : FpMode :=
  { rnd := rndOf (s.field (offVMODE n) 2 0), sat := s.bit (offVMODE n) 5 }

/-- The rounding and saturation of FP16 results under VMODE (R112, R113). -/
def State.mode16 (s : State) (n : Nat) : FpMode :=
  { rnd := rndOf (s.field (offVMODE n) 2 0), sat := s.bit (offVMODE n) 4 }

/-- Set the sticky flags of VMODE (R112). -/
def State.raiseFlags (s : State) (n : Nat) (fl : FpFlags) : State :=
  if fl = 0#5 then s else s.setReg (offVMODE n) (s.reg (offVMODE n) ||| BitVec.ofNat 64 (fl.toNat * 256))

/-- Set the sticky flags of the group unit (R492). -/
def State.raiseGroup (s : State) (n : Nat) (fl : FpFlags) : State :=
  if fl = 0#5 then s else s.setReg (offSTN n + 0x120) (s.reg (offSTN n + 0x120) ||| BitVec.ofNat 64 fl.toNat)

/-- The union of the flags of several results. -/
def allFlags (l : List FpFlags) : FpFlags := l.foldl (· ||| ·) 0#5

/-- Whether an RND code is reserved (R117). -/
def rndReserved (w : Word) : Bool := decide (fieldOf w 2 0 > 4)

/-- The fields of VMODE. -/
def vmodeMask : Word := 0x1F37#64

/-- MSR of VMODE: each field as given, flags included (R396). -/
def vmodeOfMsr (w : Word) : Word := w &&& vmodeMask

/-- A host write of VMODE: RW fields take the value, a reserved RND leaves RND, flags written 1 clear
(R12, R117, R443). -/
def vmodeOfHost (old w : Word) : Word :=
  let rnd := if rndReserved w then fieldOf old 2 0 else fieldOf w 2 0
  let sat := fieldOf w 5 4
  let fl := old &&& 0x1F00#64 &&& ~~~ w
  putField (putField fl 5 4 sat) 2 0 rnd

end Sys2Proof.Machine
end

