-- ==== Sys2Proof/Machine/Operands.lean ====
section
/-!
DEFINITION. Operands.lean: issue of station code (R379 to R387, R425 to R431): which operands an instruction uses,
the faults of its encoding, the registers it waits for, and what follows its effect.
-/
namespace Sys2Proof.Machine

/-- What a register field of an instruction names (R387). -/
inductive RegKind where
  | unused | scalar | vector | pred
  deriving DecidableEq, Repr

/-- The operands of an instruction: what DST, SRCA and SRCB name, whether DST is a source as well, a third
vector source, and the bits of IMM that must be zero. -/
structure Use where
  dst : RegKind
  a   : RegKind
  b   : RegKind
  c   : Option Nat
  rsv : Nat
  deriving DecidableEq, Repr

/-- No operand, every bit of IMM reserved. -/
def noUse : Use := { dst := .unused, a := .unused, b := .unused, c := none, rsv := 2 ^ 34 - 1 }

/-- Fault codes of R431. -/
def fILL : Nat := 1
/-- Register number out of range. -/
def fREG : Nat := 2
/-- Misaligned address or offset. -/
def fALIGN : Nat := 3
/-- Refused access. -/
def fACCV : Nat := 4
/-- Bad weight run. -/
def fEWS : Nat := 5
/-- Host store outside a declared egress range. -/
def fHOST : Nat := 6
/-- Configuration outside R332. -/
def fACFG : Nat := 7
/-- Core store offset beyond 0xF_FFFF. -/
def fCSTORE : Nat := 8
/-- Handle misuse. -/
def fHANDLE : Nat := 9
/-- PC outside the program region. -/
def fPC : Nat := 10
/-- A group context was killed. -/
def fGROUP : Nat := 11

/-- The fault of one register field (R387). -/
def regFault (k : RegKind) (r : BitVec 6) : Option Nat :=
  match k with
  | .unused => if r = 0#6 then none else some fILL
  | .scalar => if r.toNat < 32 then none else some fREG
  | .vector => none
  | .pred => if r.toNat < 8 then none else some fREG

/-- The fault of an encoding: ILL before REG (R387, notes/assumptions/8.md). -/
def Use.fault (u : Use) (f : Fields) : Option Nat :=
  let l := [regFault u.dst f.dst, regFault u.a f.srca, regFault u.b f.srcb]
  if l.contains (some fILL) || f.imm.toNat &&& u.rsv != 0 then some fILL
  else if l.contains (some fREG) then some fREG
  else none

/-- Whether a register awaits a result (R426). -/
def Context.awaits (x : Context) (k : RegKind) (r : Nat) : Bool :=
  match k with
  | .scalar => decide (r ≠ 0) && x.pendA.getLsbD r
  | .vector => x.pendV.getLsbD r
  | _ => false

/-- Whether an operand of the instruction awaits a result (R426). -/
def Use.hazard (u : Use) (f : Fields) (x : Context) : Bool :=
  x.awaits u.dst f.dst.toNat || x.awaits u.a f.srca.toNat || x.awaits u.b f.srcb.toNat ||
    (match u.c with
     | some r => x.awaits .vector r
     | none => false)

/-- Whether a context may issue now (R380, R425 to R427, R431, R647). -/
def Context.issuing (x : Context) : Bool :=
  x.active && !x.stopped && !x.held && decide (x.wait = .none)

/-- What an instruction does once it issues: go on with the next instruction, go to a byte offset, raise a
program fault, not issue now, or keep what it has done so far and go on later. -/
inductive Eff where
  | next (s : State)
  | jump (s : State) (target : Int)
  | fault (s : State) (code : Nat)
  | stall
  | hold (s : State)

/-- Stop a context with a program fault: the first fault since FLT was cleared is recorded (R431, R442, R444). A
second fault of the same context at the same PC stops the device with PROGSTOP (R650). -/
def State.programFault (s : State) (n : Nat) (c : Ctx) (code : Nat) (pc : Nat) : State :=
  let x := s.ctx n c
  let s := s.setCtx n c { x with stopped := true }
  let o := offSTN n
  let wave := fieldOf x.waveWord 47 0
  let s :=
    if s.bit (o + 8) 63 then s
    else
      (s.setReg (o + 8) (BitVec.ofNat 64
        (2 ^ 63 + (if c = .p then 2 ^ 40 else 0) + code * 2 ^ 32 + pc % 2 ^ 20))).setReg (o + 0x18)
          (BitVec.ofNat 64 wave)
  let k := s.core n
  let here := (c, BitVec.ofNat 20 pc)
  if k.faults.contains here then
    let s := (s.abortAll 4).stopWaves
    s.event 9 4 (posUnit 1 n 0) (BitVec.ofNat 64 (pc % 2 ^ 20)) (BitVec.ofNat 64 wave)
  else s.setCore n { k with faults := k.faults ++ [here] }

/-- Whether a PC lies in the program region of a context (R390). -/
def Context.pcOk (x : Context) (t : Int) : Bool :=
  decide ((x.lo : Int) ≤ t) && decide (t < x.hi) && decide (t % 8 = 0)

/-- Set the PC of a context; one that leaves the region or is misaligned causes program fault PC (R390,
notes/assumptions/9.md). -/
def State.goTo (s : State) (n : Nat) (c : Ctx) (t : Int) : State :=
  let x := s.ctx n c
  let s := s.setCtx n c { x with pc := BitVec.ofInt 20 t }
  if x.pcOk t then s else s.programFault n c fPC (BitVec.ofInt 20 t).toNat

/-- The context of an issue. -/
def State.at (s : State) (u : Issue) : Context := s.ctx u.core.val u.ctx

/-- Change the context of an issue. -/
def State.putAt (s : State) (u : Issue) (x : Context) : State := s.setCtx u.core.val u.ctx x

/-- Later sends and stores of the context carry poison until its next WNEXT (R384). -/
def State.taintIf (s : State) (u : Issue) (po : Bool) : State :=
  if po then s.putAt u { s.at u with taint := true } else s

/-- Write a scalar result (R379, R383). -/
def State.putA (s : State) (u : Issue) (r : BitVec 6) (v : Word) (po : Bool) : State :=
  s.putAt u ((s.at u).setA r.toNat v po)

/-- The address aA + offset of a memory instruction, modulo 2^64. -/
def addrOf (x : Context) (f : Fields) (off : Int) : Nat := (x.getA f.srca.toNat + BitVec.ofInt 64 off).toNat

end Sys2Proof.Machine
end

