-- ==== Sys2Proof/Machine/Control.lean ====
section
/-!
DEFINITION. Control.lean: branches, fences, waves as station code sees them, and what a context waits for (R389 to
R394, R427, R436 to R438).
-/
namespace Sys2Proof.Machine

/-! Queues of a unit that both contexts share (R309). -/

/-- A queue of a unit as it goes on: where its head is back-fill work that has not issued, the first decode work behind it goes before
it when it is ready (R309, notes/assumptions/84.md). -/
def decodeFirst {α : Type} (held decode ready : α → Bool) : List α → List α
  | [] => []
  | x :: rest =>
    if !held x then x :: rest
    else
      match rest.find? decode with
      | some y => if ready y then y :: x :: rest.eraseP decode else x :: rest
      | none => x :: rest

/-! Streams by handle (R291 to R295, R418, R419). -/

/-- A stream of the image with its number, as a core's table names it: sending tells the core's end. -/
structure StreamEnd where
  idx     : Nat
  sd      : StreamDef
  sending : Bool
  deriving DecidableEq, Repr

/-- The stream at an entry of core n's stream table (R418). -/
def State.streamOf (s : State) (n entry : Nat) : Option StreamEnd :=
  match s.image with
  | none => none
  | some img =>
    let hit (x : StreamDef × Nat) : Bool :=
      (decide (x.1.prod.val = n) && decide (x.1.prodEntry = entry)) ||
        (decide (x.1.cons.val = n) && decide (x.1.consEntry = entry))
    match img.streams.zipIdx.find? hit with
    | none => none
    | some (sd, i) =>
      some { idx := i, sd := sd, sending := decide (sd.prod.val = n) && decide (sd.prodEntry = entry) }

/-- The definition of stream i. -/
def State.streamDef (s : State) (i : Nat) : Option StreamDef :=
  match s.image with
  | none => none
  | some img => img.streams[i]?

/-- A stream that nothing has used: B credits and an empty buffer (R293). -/
def StreamRt.fresh (cap : Nat) : StreamRt :=
  { credits := cap, buf := [], fly := [], credFly := 0, redo := [], wr := 0, rd := 0 }

/-- Run-time state of stream i. -/
def State.strm (s : State) (i : Nat) : StreamRt :=
  tabGetD s.streams i (StreamRt.fresh ((s.streamDef i).elim 0 (·.cap)))

/-- Set the run-time state of stream i. -/
def State.setStrm (s : State) (i : Nat) (r : StreamRt) : State := { s with streams := tabSet s.streams i r }

/-- Flits that a receiver finds in stream i. -/
def State.available (s : State) (i : Nat) : Nat :=
  let r := s.strm i
  if (s.streamDef i).any (fun d => d.spill.isSome || d.toPipe.isNone) then r.wr - r.rd else r.buf.length

/-! Outstanding work of a context (R392, R436, R437). -/

/-- Whether a request belongs to a context. -/
def isOf (n : Nat) (c : Ctx) (r : Req) : Bool := decide (r.who = .ctx n c)

/-- Whether a stream operation belongs to a context; recv selects SRX. -/
def StreamOp.isOf (c : Ctx) (recv : Bool) : StreamOp → Bool
  | .srx c' _ _ _ _ => recv && decide (c' = c)
  | .stx c' _ _ => !recv && decide (c' = c)

/-- Whether an engine operation belongs to a context. -/
def EngOp.isOf (c : Ctx) : EngOp → Bool
  | .eld c' _ _ _ _ _ => decide (c' = c)
  | .eldStream c' _ _ _ _ _ => decide (c' = c)
  | .ews c' _ _ _ _ => decide (c' = c)
  | .edr c' _ _ => decide (c' = c)
  | .ecf c' _ => decide (c' = c)

/-- Loads and receives of a context that are not complete (FENCE LD). -/
def State.loadsOpen (s : State) (n : Nat) (c : Ctx) : Bool :=
  s.reqs.any (fun r => isOf n c r && (match r.kind with | .ld _ _ _ => true | _ => false)) ||
    (s.core n).streamQ.any (StreamOp.isOf c true)

/-- Stores of a context that are not acknowledged (FENCE ST). -/
def State.storesOpen (s : State) (n : Nat) (c : Ctx) : Bool :=
  s.reqs.any fun r => isOf n c r && (match r.kind with | .ld _ _ _ => false | _ => true)

/-- Sends of a context whose flits have not entered their receive buffers (FENCE SX). -/
def State.sendsOpen (s : State) (n : Nat) (c : Ctx) : Bool :=
  (s.core n).streamQ.any (StreamOp.isOf c false) ||
    s.streams.any fun x => (s.streamDef x.1).any (fun d => decide (d.prod.val = n)) &&
      x.2.fly.any (fun y => decide (y.c = c))

/-- Whether an engine has work of a context, results not yet retired included. -/
def Engine.busyFor (g : Engine) (c : Ctx) : Bool :=
  g.queue.any (EngOp.isOf c) || g.backQ.any (EngOp.isOf c) || g.eld.any (fun r => decide (r.c = c)) ||
    g.runs.any (fun r => decide (r.c = c)) || g.edr.any (fun r => decide (r.c = c)) ||
    g.tiles.any (fun t => decide (t.c = c)) || g.link.toList.any fun l => l.any fun y => decide (y.c = c)

/-- Whether every earlier instruction of the context has completed (R392). -/
def State.quiet (s : State) (n : Nat) (c : Ctx) : Bool :=
  let k := s.core n
  !(s.loadsOpen n c || s.storesOpen n c || s.sendsOpen n c || k.e0.busyFor c || k.e1.busyFor c ||
    k.rcx.any (fun r => decide (r.c = c)) || k.tierQ.any (fun t => decide (t.1 = c)) ||
    k.launches.any (fun l => decide (l.c = c) && decide (0 < l.live)) ||
    s.pipes.any (fun p => p.2.queue.any fun o => decide (o.core = n) && decide (o.c = c)))

/-! Waves as a context sees them (R297, R298, R391). -/

/-- The other context of a core. -/
def otherCtx : Ctx → Ctx
  | .d => .p
  | .p => .d

/-- The kind of wave that a context runs: prefill for P (R379). -/
def ctxPrefill : Ctx → Bool
  | .d => false
  | .p => true

/-- The result of WNEXT for a wave (R391). -/
def Wave.word (w : Wave) : Word :=
  BitVec.ofNat 64 (w.num.toNat + w.mask.toNat * 2 ^ 48 + flag w.prefill * 2 ^ 56)

/-- The program of a core in the loaded image. -/
def State.program (s : State) (n : Nat) : Option Program :=
  s.image.bind fun img => img.programs.find? fun p => decide (p.pos.val = n)

/-- Whether core n has finished a wave: its context has reached every layer at which the core has a station (R305). -/
def State.left (s : State) (n : Nat) (w : Wave) : Bool :=
  (s.program n).all fun p => p.layers.all fun l => w.reached.contains (n, l)

/-- Whether a wave waits at core n for a lower-numbered one of the other kind: a decode wave and the prefill waves inserted under R306
go through each station in wave-number order; back-fill and regeneration are not held so (R298, R306). -/
def State.behindWave (s : State) (n : Nat) (w : Wave) : Bool :=
  let inOrder (v : Wave) : Bool := !v.prefill || (v.inserted && v.regen.isNone)
  inOrder w && s.waves.any fun v =>
    !v.paused && inOrder v && v.prefill != w.prefill && decide (v.num.toNat < w.num.toNat) && !s.left n v

/-- The wave of a context's kind that comes next in number after the one it has taken (R298). -/
def State.following (s : State) (n : Nat) (c : Ctx) : Option Wave :=
  let x := s.ctx n c
  (s.waves.filter fun w => !w.paused && decide (w.prefill = ctxPrefill c) &&
    (!x.inWave || decide (fieldOf x.waveWord 47 0 < w.num.toNat))).foldl
    (fun acc w => match acc with
      | none => some w
      | some v => if w.num.toNat < v.num.toNat then some w else some v) none

/-- The next wave that a context may take: the one that comes next, once the core has finished those that it follows (R298, R306). -/
def State.nextWaveOf (s : State) (n : Nat) (c : Ctx) : Option Wave := (s.following n c).filter fun w => !s.behindWave n w

/-- Record that core n has reached the WBAR of a layer in wave num (R305, R392). -/
def State.reach (s : State) (n : Nat) (num layer : Nat) : State :=
  { s with waves := s.waves.map fun w =>
      if w.num.toNat = num then
        { w with reached := if w.reached.contains (n, layer) then w.reached else w.reached ++ [(n, layer)] }
      else w }

/-- A load delivers a scalar register: value, poison, and the saves taken while it was awaited (R383, R641). -/
def State.deliverA (s : State) (n : Nat) (c : Ctx) (r : Nat) (v : Word) (po : Bool) : State :=
  let x := s.ctx n c
  let s := s.setCtx n c { x.setA r v po with pendA := x.pendA &&& ~~~ BitVec.twoPow 32 r }
  let fix (y : CtxSave) : CtxSave :=
    if h : (y.core = n ∧ y.c = c ∧ y.pend.getLsbD r) ∧ 0 < r ∧ r < 32 then
      { y with a := y.a.set r v h.2.2, pend := y.pend &&& ~~~ BitVec.twoPow 32 r,
               aPois := if po then y.aPois ||| BitVec.twoPow 32 r else y.aPois &&& ~~~ BitVec.twoPow 32 r }
    else y
  { s with waves := s.waves.map fun w => { w with saves := w.saves.map fun y => (y.1, fix y.2) } }

/-- A load or receive delivers a vector register. -/
def State.deliverV (s : State) (n : Nat) (c : Ctx) (r : Nat) (v : VReg) : State :=
  let x := s.ctx n c
  s.setCtx n c { x.setV r v with pendV := x.pendV &&& ~~~ BitVec.twoPow 64 r }

/-- Whether a context's wait is over. -/
def State.waitOver (s : State) (n : Nat) (c : Ctx) : Wait → Bool
  | .none => false
  | .wnext _ => (s.nextWaveOf n c).isSome
  | .wbar _ => false
  | .gap _ => (s.core n).gap.isNone
  | .swt st recv cnt =>
    !((s.core n).streamQ.any fun o => o.isOf c true || o.isOf c false) &&
    if recv then decide (cnt ≤ s.available st) else decide (cnt ≤ (s.strm st).credits)
  | .gwt _ l _ =>
    match (s.core n).launches.find? (fun x => decide (x.id = l)) with
    | none => true
    | some x => decide (x.live = 0)
  | .fence b =>
    !((b.getLsbD 0 && s.loadsOpen n c) || (b.getLsbD 1 && s.storesOpen n c) ||
      (b.getLsbD 2 && s.sendsOpen n c))

/-- What a checkpoint keeps of a context at a WBAR (R641): the PC after it, registers, handles, carry region. -/
def State.ctxSave (s : State) (n : Nat) (c : Ctx) (pc : BitVec 20) : CtxSave :=
  let x := s.ctx n c
  let carry := match s.program n with
    | some p => s.mem.read (coreKey n p.carryLo) (Nat.min p.carryLen 16384)
    | none => []
  { core := n, c := c, pc := pc, a := x.a, aPois := x.aPois, p := x.p, h := x.h, carry := carry, pend := x.pendA }

/-- Keep a context's save in its current wave. -/
def State.keepSave (s : State) (n : Nat) (c : Ctx) (layer : Nat) (v : CtxSave) : State :=
  let num := fieldOf (s.ctx n c).waveWord 47 0
  { s with waves := s.waves.map fun w =>
      if decide (w.num.toNat = num) && decide (w.prefill = ctxPrefill c) then
        { w with saves := w.saves.filter (fun y =>
                   !(decide (y.1 = layer) && decide (y.2.core = n) && decide (y.2.c = c))) ++ [(layer, v)] }
      else w }

/-- The key of the save that a context leaves when it takes a wave, before layer 0. -/
def startLayer : Nat := 256

/-- What the end of a wait does (R391, R394, R424, R450, R485). -/
def State.endWait (s : State) (n : Nat) (c : Ctx) : State :=
  let x := s.ctx n c
  let free (x : Context) : Context := { x with wait := .none }
  match x.wait with
  | .wnext rd =>
    match s.nextWaveOf n c with
    | some w =>
      let s := s.setCtx n c { (free x).setA rd w.word false with waveWord := w.word, inWave := true }
      s.keepSave n c startLayer (s.ctxSave n c x.pc)
    | none => s
  | .gap len => let s := s.setCtx n c (free x); s.setCore n { s.core n with gap := some len }
  | .gwt rd l bad =>
    let k := s.core n
    let e := k.launches.find? fun x => decide (x.id = l)
    let v : Word := match e with
      | none => BitVec.allOnes 64
      | some y => BitVec.ofNat 64 y.killed
    let s := s.setCtx n c ((free x).setA rd v bad)
    if e.any (fun y => decide (0 < y.killed)) then s.programFault n c fGROUP (x.pc.toNat + 2 ^ 20 - 8) else s
  | .none => s
  | .wbar _ => s
  | _ => s.setCtx n c (free x)

/-- The wait of a context ends where its condition holds. -/
def State.wake (s : State) (n : Nat) (c : Ctx) : State :=
  let x := s.ctx n c
  if x.stopped || x.held then s
  else if s.waitOver n c x.wait then s.endWait n c else s

/-- WBARs whose earlier instructions have completed reach their boundary (R392); the other context may wait to follow this wave
(R306). -/
def State.reachWbars (s : State) (n : Nat) (c : Ctx) : State :=
  let x := s.ctx n c
  let l := x.wbars ++ (match x.wait with | .wbar l => [l] | _ => [])
  if l.isEmpty || !s.quiet n c then s
  else
    let s := s.setCtx n c { x with wbars := [] }
    let s := l.foldl (fun s layer => s.reach n (fieldOf x.waveWord 47 0) layer) s
    match (s.ctx n (otherCtx c)).wait with
    | .wnext _ => s.wake n (otherCtx c)
    | _ => s

/-- After an event of core n: complete what its contexts wait for. -/
def State.settleCtx (s : State) (n : Nat) (c : Ctx) : State := (s.reachWbars n c).wake n c

/-- After an event of core n, for both contexts. -/
def State.settle (s : State) (n : Nat) : State := (s.settleCtx n .d).settleCtx n .p

/-- Settle every core that holds state. -/
def State.settleAll (s : State) : State := (s.cores.map (·.1)).foldl State.settle s

/-- Put a context in a wait (R427); issue ends it at once where its condition holds already. -/
def State.waitFor (s : State) (u : Issue) (w : Wait) : State := s.putAt u { s.at u with wait := w }

/-- Issue an instruction of a context (R425 to R427, R431): encoding faults, operands that await results, then
its effect, the PC and the count of sequencer issues (R762). -/
def State.issue (s : State) (u : Issue) (f : Fields) (use : Use) (body : State → Eff) : State :=
  let n := u.core.val
  let x := s.ctx n u.ctx
  if !s.coreLive n || !x.issuing then s
  else
    match use.fault f with
    | some code => s.programFault n u.ctx code x.pc.toNat
    | none =>
      if use.hazard f x then s
      else
        match body s with
        | .stall => s
        | .hold s => s
        | .fault s code => s.programFault n u.ctx code x.pc.toNat
        | .jump s t => ((s.count (0x100 + n) 9 1).goTo n u.ctx t).settleCtx n u.ctx
        | .next s => ((s.count (0x100 + n) 9 1).goTo n u.ctx (x.pc.toNat + 8)).settleCtx n u.ctx

/-! Branches (R389, R390). -/

/-- A branch condition (R389). -/
inductive Cond where
  | eq | ne | lt | ge | ltu | geu
  deriving DecidableEq, Repr

/-- Whether aA compares with aB as named. -/
def Cond.holds (k : Cond) (a b : Word) : Bool :=
  match k with
  | .eq => decide (a = b)
  | .ne => decide (a ≠ b)
  | .lt => a.slt b
  | .ge => !a.slt b
  | .ltu => a.ult b
  | .geu => !a.ult b

/-- The target PC + 8 OFF (R389). -/
def branchTarget (x : Context) (f : Fields) : Int := (x.pc.toNat : Int) + 8 * f.imm.toInt

/-- A conditional branch on two scalars (R384, R389). -/
def State.branch (s : State) (u : Issue) (f : Fields) (k : Cond) : State :=
  s.issue u f { noUse with a := .scalar, b := .scalar, rsv := 0 } fun s =>
    let x := s.at u
    let s := s.taintIf u (x.poisA f.srca.toNat || x.poisA f.srcb.toNat)
    if k.holds (x.getA f.srca.toNat) (x.getA f.srcb.toNat) then .jump s (branchTarget x f) else .next s

/-- NOP. -/
def execNop (u : Issue) (f : Fields) (s : State) : Host.Outcome State Fault Refusal :=
  .next <| s.issue u f noUse .next
/-- BR. -/
def execBr (u : Issue) (f : Fields) (s : State) : Host.Outcome State Fault Refusal :=
  .next <| s.issue u f { noUse with rsv := 0 } fun s => .jump s (branchTarget (s.at u) f)
/-- BEQ. -/
def execBeq (u : Issue) (f : Fields) (s : State) : Host.Outcome State Fault Refusal := .next (s.branch u f .eq)
/-- BNE. -/
def execBne (u : Issue) (f : Fields) (s : State) : Host.Outcome State Fault Refusal := .next (s.branch u f .ne)
/-- BLT. -/
def execBlt (u : Issue) (f : Fields) (s : State) : Host.Outcome State Fault Refusal := .next (s.branch u f .lt)
/-- BGE. -/
def execBge (u : Issue) (f : Fields) (s : State) : Host.Outcome State Fault Refusal := .next (s.branch u f .ge)
/-- BLTU. -/
def execBltu (u : Issue) (f : Fields) (s : State) : Host.Outcome State Fault Refusal := .next (s.branch u f .ltu)
/-- BGEU. -/
def execBgeu (u : Issue) (f : Fields) (s : State) : Host.Outcome State Fault Refusal := .next (s.branch u f .geu)

/-- A branch on a predicate register: taken when it is all zero, or when it is not (R389). -/
def State.branchPred (s : State) (u : Issue) (f : Fields) (onZero : Bool) : State :=
  s.issue u f { noUse with a := .pred, rsv := 0 } fun s =>
    let x := s.at u
    if decide (x.getP f.srca.toNat = 0#64) == onZero then .jump s (branchTarget x f) else .next s

/-- BPZ. -/
def execBpz (u : Issue) (f : Fields) (s : State) : Host.Outcome State Fault Refusal := .next (s.branchPred u f true)
/-- BPNZ. -/
def execBpnz (u : Issue) (f : Fields) (s : State) : Host.Outcome State Fault Refusal :=
  .next (s.branchPred u f false)
/-- JAL: aD is the next PC (R389). -/
def execJal (u : Issue) (f : Fields) (s : State) : Host.Outcome State Fault Refusal :=
  .next <| s.issue u f { noUse with dst := .scalar, rsv := 0 } fun s =>
    let x := s.at u
    .jump (s.putA u f.dst (BitVec.ofNat 64 (x.pc.toNat + 8)) false) (branchTarget x f)
/-- JR: PC from aA (R384, R389). -/
def execJr (u : Issue) (f : Fields) (s : State) : Host.Outcome State Fault Refusal :=
  .next <| s.issue u f { noUse with a := .scalar } fun s =>
    let x := s.at u
    .jump (s.taintIf u (x.poisA f.srca.toNat)) (x.getA f.srca.toNat).toNat

/-- FENCE: holds the context until the selected kinds are complete (R437). -/
def execFence (u : Issue) (f : Fields) (s : State) : Host.Outcome State Fault Refusal :=
  .next <| s.issue u f { noUse with rsv := ones 33 3 } fun s =>
    .next (s.waitFor u (.fence (BitVec.ofNat 3 (immBits f 2 0))))

/-! Waves (R391 to R394). -/

/-- WNEXT: waits for the next wave of the context's kind; sends and stores are clean again (R384, R391). -/
def execWnext (u : Issue) (f : Fields) (s : State) : Host.Outcome State Fault Refusal :=
  .next <| s.issue u f { noUse with dst := .scalar } fun s =>
    .next ((s.putAt u { s.at u with taint := false }).waitFor u (.wnext f.dst.toNat))

/-- WBAR: the core has finished a layer; with ALL = 1 the context waits for the boundary (R391 to R393). -/
def execWbar (u : Issue) (f : Fields) (s : State) : Host.Outcome State Fault Refusal :=
  .next <| s.issue u f { noUse with rsv := ones 32 8 } fun s =>
    let layer := immBits f 7 0
    let s := s.keepSave u.core.val u.ctx layer (s.ctxSave u.core.val u.ctx ((s.at u).pc + 8#20))
    if immBit f 33 then .next (s.waitFor u (.wbar layer))
    else
      let x := s.at u
      .next (s.putAt u { x with wbars := x.wbars ++ [layer] })

/-- GAP: context D only, at least 320 A-cycles; waits while a gap is open (R391, R394, R427). -/
def execGap (u : Issue) (f : Fields) (s : State) : Host.Outcome State Fault Refusal :=
  .next <| s.issue u f { noUse with rsv := ones 33 16 } fun s =>
    let len := immBits f 15 0
    if u.ctx = .p then .fault s fILL
    else if len < 320 then .fault s fILL
    else .next (s.waitFor u (.gap len))

/-- A gap ends (R394). -/
def State.endGap (s : State) (n : Nat) : State := (s.setCore n { s.core n with gap := none }).settle n

/-- GAP_END: the length of the open gap has elapsed (R394). -/
def execGapEnd (core : Fin 624) (s : State) : Host.Outcome State Fault Refusal :=
  .next (if (s.core core.val).gap.isSome then s.endGap core.val else s)

end Sys2Proof.Machine
end

