-- ==== Sys2Proof/Machine/Vector.lean ====
section
/-!
DEFINITION. Vector.lean: floating-point, integer, cross-lane and predicate instructions of the vector unit (R383,
R397 to R401, R405, R406, R808).
-/
namespace Sys2Proof.Machine

/-- PRED after PINV (R397). -/
def predOf (x : Context) (f : Fields) : Word :=
  let p := x.getP (immBits f 33 31)
  if immBit f 30 then ~~~ p else p

/-- Whether lane i is active. -/
def active (m : Word) (i : Nat) : Bool := m.getLsbD i

/-- Source B: vB, or aB[31:0] broadcast when SB = 1 (R397). -/
def vecB (x : Context) (f : Fields) : Nat → Lane :=
  if immBit f 21 then fun _ => (x.getA f.srcb.toNat).truncate 32 else (x.getV f.srcb.toNat).lane

/-- Poison bits of source B; a poisoned scalar poisons every quarter (R383). -/
def poisB (x : Context) (f : Fields) : BitVec 4 :=
  if immBit f 21 then (if x.poisA f.srcb.toNat then 15#4 else 0#4) else (x.getV f.srcb.toNat).pois

/-- What SRCB names where source B may be a vector (R397). -/
def kindB (f : Fields) : RegKind := if immBit f 21 then .scalar else .vector

/-- Whether every lane of quarter j is active. -/
def quarterFull (m : Word) (j : Nat) : Bool := decide (bitsOf m.toNat (16 * j + 15) (16 * j) = 0xFFFF)

/-- Whether some lane of quarter j is active. -/
def quarterAny (m : Word) (j : Nat) : Bool := decide (bitsOf m.toNat (16 * j + 15) (16 * j) ≠ 0)

/-- Merge new lanes into a register: inactive lanes keep their values (R398). -/
def VReg.merge (old : VReg) (m : Word) (new : Nat → Lane) (po : BitVec 4) : VReg :=
  VReg.ofFn (fun i => if active m i then new i else old.lane i) po

/-- Poison of an element-wise result (R383): the sources' bit, and the old bit of a quarter that keeps a lane
(notes/assumptions/10.md). -/
def elemPois (old : BitVec 4) (m : Word) (src : BitVec 4) : BitVec 4 :=
  maskBy 4 fun j => src.getLsbD j || (!quarterFull m j && old.getLsbD j)

/-- Poison of any other vector result: each written quarter takes the poison of any source (R383). -/
def otherPois (old : BitVec 4) (m : Word) (src : Bool) : BitVec 4 :=
  maskBy 4 fun j => (quarterAny m j && src) || (!quarterFull m j && old.getLsbD j)

/-- Count a vector issue (R762). -/
def State.vecIssue (s : State) (u : Issue) : State := s.count (0x100 + u.core.val) 7 1

/-- A lane operation with flags. -/
abbrev LaneOp := Lane → Lane → Lane → Lane × FpFlags

/-- The flags of the active lanes (R398). -/
def laneFlags (m : Word) (op : Nat → Lane × FpFlags) : FpFlags :=
  allFlags ((List.range 64).map fun i => if active m i then (op i).2 else 0#5)

/-- An element-wise instruction into vd under PRED (R383, R398). -/
def State.elemWise (s : State) (u : Issue) (f : Fields) (a b c : Nat → Lane) (src : BitVec 4) (op : LaneOp) : State :=
  let x := s.at u
  let m := predOf x f
  let g := fun i => op (a i) (b i) (c i)
  let old := x.getV f.dst.toNat
  let r := old.merge m (fun i => (g i).1) (elemPois old.pois m src)
  (((s.putAt u (x.setV f.dst.toNat r)).raiseFlags u.core.val (laneFlags m g))).vecIssue u

/-! Floating point (R399 to R401). -/

/-- The TYPE field (R397). -/
def typeOf (f : Fields) : Nat := immBits f 29 28

/-- A binary, ternary or unary operation on codes of a format. -/
abbrev CodeOp := FpFmt → FpMode → Nat → Nat → Nat → Nat × FpFlags

/-- An operation on FP32 lanes. -/
def laneOp32 (md : FpMode) (op : CodeOp) : LaneOp := fun a b c =>
  let (r, fl) := op fmt32 md a.toNat b.toNat c.toNat
  (BitVec.ofNat 32 r, fl)

/-- An operation on the two FP16 elements of a lane (R111). -/
def laneOp16 (md : FpMode) (op : CodeOp) : LaneOp := fun a b c =>
  let (r0, f0) := op fmt16 md (a.toNat % 65536) (b.toNat % 65536) (c.toNat % 65536)
  let (r1, f1) := op fmt16 md (a.toNat / 65536) (b.toNat / 65536) (c.toNat / 65536)
  (BitVec.ofNat 32 (r0 + r1 * 65536), f0 ||| f1)

/-- The operation of a TYPE under VMODE. -/
def State.fpLane (s : State) (u : Issue) (f : Fields) (op : CodeOp) : LaneOp :=
  if typeOf f = 1 then laneOp16 (s.mode16 u.core.val) op else laneOp32 (s.mode32 u.core.val) op

/-- Operands of a floating-point instruction: one, two or three sources. -/
def fpUse (f : Fields) (n : Nat) : Use :=
  { dst := .vector, a := .vector, b := if n ≥ 2 then kindB f else .unused,
    c := if n = 3 then some (immBits f 27 22) else none, rsv := ones 20 0 ||| (if n = 3 then 0 else ones 27 22) }

/-- An instruction of major 0x08 with n sources (R399); only FP32 where wide holds. -/
def State.vfp (s : State) (u : Issue) (f : Fields) (n : Nat) (wide : Bool) (op : CodeOp) : State :=
  s.issue u f (fpUse f n) fun s =>
    if typeOf f ≥ 2 || (wide && typeOf f ≠ 0) then .fault s fILL
    else
      let x := s.at u
      let va := x.getV f.srca.toNat
      let vc := x.getV (immBits f 27 22)
      let src := va.pois ||| (if n ≥ 2 then poisB x f else 0#4) ||| (if n = 3 then vc.pois else 0#4)
      .next (s.elemWise u f va.lane (if n ≥ 2 then vecB x f else fun _ => 0#32) vc.lane src (s.fpLane u f op))

/-- VADD. -/
def execVadd (u : Issue) (f : Fields) (s : State) : Host.Outcome State Fault Refusal :=
  .next (s.vfp u f 2 false fun t md a b _ => fpAdd t md (unpack t a) (unpack t b))
/-- VSUB. -/
def execVsub (u : Issue) (f : Fields) (s : State) : Host.Outcome State Fault Refusal :=
  .next (s.vfp u f 2 false fun t md a b _ => fpSub t md (unpack t a) (unpack t b))
/-- VMUL. -/
def execVmul (u : Issue) (f : Fields) (s : State) : Host.Outcome State Fault Refusal :=
  .next (s.vfp u f 2 false fun t md a b _ => fpMul t md (unpack t a) (unpack t b))
/-- VFMA. -/
def execVfma (u : Issue) (f : Fields) (s : State) : Host.Outcome State Fault Refusal :=
  .next (s.vfp u f 3 false fun t md a b c => fpFma t md (unpack t a) (unpack t b) (unpack t c))
/-- VFMS. -/
def execVfms (u : Issue) (f : Fields) (s : State) : Host.Outcome State Fault Refusal :=
  .next (s.vfp u f 3 false fun t md a b c => fpFma t md (unpack t a) (unpack t b) (unpack t c).neg)
/-- VDIV. -/
def execVdiv (u : Issue) (f : Fields) (s : State) : Host.Outcome State Fault Refusal :=
  .next (s.vfp u f 2 false fun t md a b _ => fpDiv t md (unpack t a) (unpack t b))
/-- VSQRT. -/
def execVsqrt (u : Issue) (f : Fields) (s : State) : Host.Outcome State Fault Refusal :=
  .next (s.vfp u f 1 false fun t md a _ _ => fpSqrt t md (unpack t a))
/-- VMIN. -/
def execVmin (u : Issue) (f : Fields) (s : State) : Host.Outcome State Fault Refusal :=
  .next (s.vfp u f 2 false fun t _ a b _ => fpMinMax t false a b (unpack t a) (unpack t b))
/-- VMAX. -/
def execVmax (u : Issue) (f : Fields) (s : State) : Host.Outcome State Fault Refusal :=
  .next (s.vfp u f 2 false fun t _ a b _ => fpMinMax t true a b (unpack t a) (unpack t b))
/-- VMINN. -/
def execVminn (u : Issue) (f : Fields) (s : State) : Host.Outcome State Fault Refusal :=
  .next (s.vfp u f 2 false fun t _ a b _ => fpMinMaxNum t false a b (unpack t a) (unpack t b))
/-- VMAXN. -/
def execVmaxn (u : Issue) (f : Fields) (s : State) : Host.Outcome State Fault Refusal :=
  .next (s.vfp u f 2 false fun t _ a b _ => fpMinMaxNum t true a b (unpack t a) (unpack t b))
/-- VRINT. -/
def execVrint (u : Issue) (f : Fields) (s : State) : Host.Outcome State Fault Refusal :=
  .next (s.vfp u f 1 false fun t md a _ _ => fpRint t md a (unpack t a))
/-- VEXP2. -/
def execVexp2 (u : Issue) (f : Fields) (s : State) : Host.Outcome State Fault Refusal :=
  .next (s.vfp u f 1 true fun _ md a _ _ => estExp2 md.sat a)
/-- VRCP. -/
def execVrcp (u : Issue) (f : Fields) (s : State) : Host.Outcome State Fault Refusal :=
  .next (s.vfp u f 1 true fun _ md a _ _ => estRcp md.sat a)
/-- VRSQ. -/
def execVrsq (u : Issue) (f : Fields) (s : State) : Host.Outcome State Fault Refusal :=
  .next (s.vfp u f 1 true fun _ _ a _ _ => estRsq a)
/-- VLOG2. -/
def execVlog2 (u : Issue) (f : Fields) (s : State) : Host.Outcome State Fault Refusal :=
  .next (s.vfp u f 1 true fun _ _ a _ _ => estLog2 a)

/-- The comparison of a lane and its flags; with FP16 both elements must compare true (R400). -/
def cmpLane (f : Fields) (a b : Lane) : Bool × FpFlags :=
  let code := immBits f 20 18
  if typeOf f = 1 then
    let (r0, f0) := fpCompare code (unpack fmt16 (a.toNat % 65536)) (unpack fmt16 (b.toNat % 65536))
    let (r1, f1) := fpCompare code (unpack fmt16 (a.toNat / 65536)) (unpack fmt16 (b.toNat / 65536))
    (r0 && r1, f0 ||| f1)
  else fpCompare code (unpack fmt32 a.toNat) (unpack fmt32 b.toNat)

/-- VCMP: pD from the comparison; an inactive lane writes 0 (R400, R808). -/
def execVcmp (u : Issue) (f : Fields) (s : State) : Host.Outcome State Fault Refusal :=
  .next <| s.issue u f { dst := .pred, a := .vector, b := kindB f, c := none, rsv := ones 17 0 ||| ones 27 22 }
    fun s =>
      if typeOf f ≥ 2 then .fault s fILL
      else
        let x := s.at u
        let m := predOf x f
        let g := fun i => cmpLane f ((x.getV f.srca.toNat).lane i) (vecB x f i)
        let r : Word := maskBy 64 fun i => active m i && (g i).1
        let fl := allFlags ((List.range 64).map fun i => if active m i then (g i).2 else 0#5)
        .next (((s.putAt u (x.setP f.dst.toNat r)).raiseFlags u.core.val fl).vecIssue u)

/-! Integer and logic (R405). -/

/-- An instruction of major 0x0A with sources vA and B (R405). -/
def State.vint (s : State) (u : Issue) (f : Fields) (op : Lane → Lane → Lane) : State :=
  s.issue u f { dst := .vector, a := .vector, b := kindB f, c := none, rsv := ones 20 0 ||| ones 27 22 } fun s =>
    let x := s.at u
    let va := x.getV f.srca.toNat
    .next (s.elemWise u f va.lane (vecB x f) (fun _ => 0#32) (va.pois ||| poisB x f)
      (fun a b _ => (op a b, 0#5)))

/-- B[4:0] as a shift amount. -/
def laneShift (b : Lane) : Nat := b.toNat % 32

/-- VIADD. -/
def execViadd (u : Issue) (f : Fields) (s : State) : Host.Outcome State Fault Refusal := .next (s.vint u f (· + ·))
/-- VISUB. -/
def execVisub (u : Issue) (f : Fields) (s : State) : Host.Outcome State Fault Refusal := .next (s.vint u f (· - ·))
/-- VIMUL. -/
def execVimul (u : Issue) (f : Fields) (s : State) : Host.Outcome State Fault Refusal := .next (s.vint u f (· * ·))
/-- VAND. -/
def execVand (u : Issue) (f : Fields) (s : State) : Host.Outcome State Fault Refusal := .next (s.vint u f (· &&& ·))
/-- VOR. -/
def execVor (u : Issue) (f : Fields) (s : State) : Host.Outcome State Fault Refusal := .next (s.vint u f (· ||| ·))
/-- VXOR. -/
def execVxor (u : Issue) (f : Fields) (s : State) : Host.Outcome State Fault Refusal := .next (s.vint u f (· ^^^ ·))
/-- VSHL. -/
def execVshl (u : Issue) (f : Fields) (s : State) : Host.Outcome State Fault Refusal :=
  .next (s.vint u f fun a b => a <<< laneShift b)
/-- VSHR. -/
def execVshr (u : Issue) (f : Fields) (s : State) : Host.Outcome State Fault Refusal :=
  .next (s.vint u f fun a b => a >>> laneShift b)
/-- VSRA. -/
def execVsra (u : Issue) (f : Fields) (s : State) : Host.Outcome State Fault Refusal :=
  .next (s.vint u f fun a b => a.sshiftRight (laneShift b))
/-- VIMIN, signed. -/
def execVimin (u : Issue) (f : Fields) (s : State) : Host.Outcome State Fault Refusal :=
  .next (s.vint u f fun a b => if a.slt b then a else b)
/-- VIMAX, signed. -/
def execVimax (u : Issue) (f : Fields) (s : State) : Host.Outcome State Fault Refusal :=
  .next (s.vint u f fun a b => if a.slt b then b else a)

/-- VSEL: vA where PRED is 1, else B; every lane written (R405, R808). -/
def execVsel (u : Issue) (f : Fields) (s : State) : Host.Outcome State Fault Refusal :=
  .next <| s.issue u f { dst := .vector, a := .vector, b := kindB f, c := none, rsv := ones 20 0 ||| ones 27 22 }
    fun s =>
      let x := s.at u
      let m := predOf x f
      let va := x.getV f.srca.toNat
      let r := VReg.ofFn (fun i => if active m i then va.lane i else vecB x f i) (va.pois ||| poisB x f)
      .next ((s.putAt u (x.setV f.dst.toNat r)).vecIssue u)

/-- VMOV: vA, or the broadcast of aB when SB = 1 (R405). -/
def execVmov (u : Issue) (f : Fields) (s : State) : Host.Outcome State Fault Refusal :=
  .next <| s.issue u f { dst := .vector, a := if immBit f 21 then .unused else .vector,
                         b := if immBit f 21 then .scalar else .unused, c := none,
                         rsv := ones 20 0 ||| ones 27 22 } fun s =>
    let x := s.at u
    let va := x.getV f.srca.toNat
    let (src, po) := if immBit f 21 then (vecB x f, poisB x f) else (va.lane, va.pois)
    .next (s.elemWise u f src (fun _ => 0#32) (fun _ => 0#32) po (fun a _ _ => (a, 0#5)))

/-! Cross-lane (R406). -/

/-- One level of the pairwise tree; absent leaves are skipped. -/
def treeLevel (op : Lane → Lane → Lane × FpFlags) : List (Option Lane) → List (Option Lane) × FpFlags
  | some a :: some b :: t =>
    let (r, fl) := op a b
    let (t', fl') := treeLevel op t
    (some r :: t', fl ||| fl')
  | some a :: none :: t => let (t', fl') := treeLevel op t; (some a :: t', fl')
  | none :: b :: t => let (t', fl') := treeLevel op t; (b :: t', fl')
  | [x] => ([x], 0#5)
  | [] => ([], 0#5)

/-- The pairwise tree over ascending lanes (R406). -/
def treeReduce (op : Lane → Lane → Lane × FpFlags) : Nat → List (Option Lane) → Option Lane × FpFlags
  | 0, l => (l.head?.join, 0#5)
  | n + 1, l =>
    let (l', fl) := treeLevel op l
    let (r, fl') := treeReduce op n l'
    (r, fl ||| fl')

/-- A reduction over the active lanes of vA into every lane of vd (R406, R808). With no active lane the spec
states no value: a free value, a function of the operand and VMODE (R123, notes/assumptions/11.md). -/
def State.vreduce (s : State) (u : Issue) (f : Fields) (kind : Nat) (op : Lane → Lane → Lane × FpFlags) : State :=
  s.issue u f { dst := .vector, a := .vector, b := .unused, c := none, rsv := ones 20 0 ||| ones 27 22 } fun s =>
    let x := s.at u
    let m := predOf x f
    let va := x.getV f.srca.toNat
    let (r, fl) := treeReduce op 6 ((List.range 64).map fun i => if active m i then some (va.lane i) else none)
    let v : Lane := r.getD (Config.emptyReduce kind (s.field (offVMODE u.core.val) 5 0) ((List.range 64).map va.lane))
    let po : BitVec 4 := if va.pois = 0#4 then 0#4 else 15#4
    let s := s.putAt u (x.setV f.dst.toNat (VReg.ofFn (fun _ => v) po))
    .next ((s.raiseFlags u.core.val fl).vecIssue u)

/-- A two-operand FP32 operation on lanes. -/
def lanePair (md : FpMode) (op : CodeOp) (a b : Lane) : Lane × FpFlags := laneOp32 md op a b 0#32

/-- VRSUM. -/
def execVrsum (u : Issue) (f : Fields) (s : State) : Host.Outcome State Fault Refusal :=
  .next (s.vreduce u f 0 (lanePair (s.mode32 u.core.val) fun t md a b _ => fpAdd t md (unpack t a) (unpack t b)))
/-- VRMAX. -/
def execVrmax (u : Issue) (f : Fields) (s : State) : Host.Outcome State Fault Refusal :=
  .next (s.vreduce u f 1 (lanePair (s.mode32 u.core.val) fun t _ a b _ =>
    fpMinMax t true a b (unpack t a) (unpack t b)))
/-- VRMIN. -/
def execVrmin (u : Issue) (f : Fields) (s : State) : Host.Outcome State Fault Refusal :=
  .next (s.vreduce u f 2 (lanePair (s.mode32 u.core.val) fun t _ a b _ =>
    fpMinMax t false a b (unpack t a) (unpack t b)))

/-- VPERM: vd[i] from vA[vB[i] mod 64] (R406). -/
def execVperm (u : Issue) (f : Fields) (s : State) : Host.Outcome State Fault Refusal :=
  .next <| s.issue u f { dst := .vector, a := .vector, b := kindB f, c := none, rsv := ones 20 0 ||| ones 27 22 }
    fun s =>
      let x := s.at u
      let m := predOf x f
      let va := x.getV f.srca.toNat
      let old := x.getV f.dst.toNat
      let po := otherPois old.pois m (decide (va.pois ≠ 0#4) || decide (poisB x f ≠ 0#4))
      let r := old.merge m (fun i => va.lane ((vecB x f i).toNat % 64)) po
      .next ((s.putAt u (x.setV f.dst.toNat r)).vecIssue u)

/-- VEXT: aD from lane IMM[5:0] of vA (R406, R808). -/
def execVext (u : Issue) (f : Fields) (s : State) : Host.Outcome State Fault Refusal :=
  .next <| s.issue u f { dst := .scalar, a := .vector, b := .unused, c := none, rsv := ones 20 6 ||| ones 27 22 }
    fun s =>
      let i := immBits f 5 0
      let va := (s.at u).getV f.srca.toNat
      .next ((s.putA u f.dst ((va.lane i).zeroExtend 64) (va.pois.getLsbD (i / 16))).vecIssue u)

/-- VINS: lane IMM[5:0] of vd from aB[31:0], only when that lane is active (R406, R808). -/
def execVins (u : Issue) (f : Fields) (s : State) : Host.Outcome State Fault Refusal :=
  .next <| s.issue u f { dst := .vector, a := .unused, b := .scalar, c := none, rsv := ones 20 6 ||| ones 27 22 }
    fun s =>
      let x := s.at u
      let m := predOf x f &&& BitVec.twoPow 64 (immBits f 5 0)
      let old := x.getV f.dst.toNat
      let v : Lane := (x.getA f.srcb.toNat).truncate 32
      let r := old.merge m (fun _ => v) (otherPois old.pois m (x.poisA f.srcb.toNat))
      .next ((s.putAt u (x.setV f.dst.toNat r)).vecIssue u)

/-- Write the active bits of a predicate register (R808). -/
def State.putPred (s : State) (u : Issue) (f : Fields) (v : Word) : State :=
  let x := s.at u
  let m := predOf x f
  (s.putAt u (x.setP f.dst.toNat ((v &&& m) ||| (x.getP f.dst.toNat &&& ~~~ m)))).vecIssue u

/-- The operation of PLOG (R406). -/
def plogOp (code : Nat) (a b : Word) : Word :=
  match code with
  | 0 => a &&& b
  | 1 => a ||| b
  | 2 => a &&& ~~~ b
  | _ => a ^^^ b

/-- PLOG: pD from pA and pB (R406). -/
def execPlog (u : Issue) (f : Fields) (s : State) : Host.Outcome State Fault Refusal :=
  .next <| s.issue u f { dst := .pred, a := .pred, b := .pred, c := none, rsv := ones 18 0 ||| ones 27 22 } fun s =>
    let x := s.at u
    .next (s.putPred u f (plogOp (immBits f 20 19) (x.getP f.srca.toNat) (x.getP f.srcb.toNat)))

/-- PSET: pD from aA (R406). -/
def execPset (u : Issue) (f : Fields) (s : State) : Host.Outcome State Fault Refusal :=
  .next <| s.issue u f { dst := .pred, a := .scalar, b := .unused, c := none, rsv := ones 20 0 ||| ones 27 22 }
    fun s => .next (s.putPred u f ((s.at u).getA f.srca.toNat))

/-- PGET: aD from pA (R406, R808). -/
def execPget (u : Issue) (f : Fields) (s : State) : Host.Outcome State Fault Refusal :=
  .next <| s.issue u f { dst := .scalar, a := .pred, b := .unused, c := none, rsv := ones 20 0 ||| ones 27 22 }
    fun s => .next ((s.putA u f.dst ((s.at u).getP f.srca.toNat) false).vecIssue u)

end Sys2Proof.Machine
end

