-- ==== Sys2Proof/Machine/Convert.lean ====
section
/-!
DEFINITION. Convert.lean: VCVT between the eight formats (R119 to R121, R402 to R404, R804 to R806).
-/
namespace Sys2Proof.Machine

/-- The format codes of VCVT (R402). -/
inductive Fmt where
  | fp32 | fp16 | bf16 | f8 | a8 | a16 | e8 | i32
  deriving DecidableEq, Repr

/-- A code as a format. -/
def fmtOf (c : Nat) : Fmt :=
  match c with
  | 0 => .fp32
  | 1 => .fp16
  | 2 => .bf16
  | 3 => .f8
  | 4 => .a8
  | 5 => .a16
  | 6 => .e8
  | _ => .i32

/-- Bits of an element. -/
def Fmt.width : Fmt → Nat
  | .fp32 => 32
  | .i32 => 32
  | .fp16 => 16
  | .bf16 => 16
  | .a16 => 16
  | _ => 8

/-- A8 or A16: a multiplier applies (R404). -/
def Fmt.isAct : Fmt → Bool
  | .a8 => true
  | .a16 => true
  | _ => false

/-- Source format, destination format, PART. -/
def cvtSrc (f : Fields) : Fmt := fmtOf (immBits f 20 18)
/-- The destination format. -/
def cvtDst (f : Fields) : Fmt := fmtOf (immBits f 17 15)
/-- PART. -/
def cvtPart (f : Fields) : Nat := immBits f 14 13

/-- Whether PART is in the range of R403. -/
def partOk (a b : Fmt) (p : Nat) : Bool :=
  match Nat.min a.width b.width with
  | 8 => true
  | 16 => decide (p < 2)
  | _ => decide (p = 0)

/-- The part of the register that a side uses (R403). -/
def sidePart (side other : Fmt) (p : Nat) : Nat :=
  match side.width with
  | 8 => p
  | 16 => if other.width = 8 then p % 2 else p
  | _ => 0

/-- The lane of element e on a side (R403). -/
def elemLane (w p e : Nat) : Nat := (if w = 32 then 0 else p * (64 * w / 32)) + e * w / 32

/-- Element e read from a side (R403). -/
def elemGet (v : Nat → Lane) (w p e : Nat) : Nat :=
  ((v (elemLane w p e)).toNat >>> (w * (e % (32 / w)))) % 2 ^ w

/-- Whether the conversion takes a multiplier; whether it takes an exponent scalar (R404, R806). -/
def cvtMul (a b : Fmt) : Bool := decide (a ≠ b) && (a.isAct || b.isAct)
/-- Whether the conversion takes an exponent scalar. -/
def cvtExp (a b : Fmt) : Bool := decide (a ≠ b) && (decide (a = .e8) || decide (b = .e8))

/-- The operands of a VCVT (R402 to R404). -/
def cvtUse (f : Fields) : Use :=
  let a := cvtSrc f
  let b := cvtDst f
  let both := cvtMul a b && cvtExp a b
  { dst := .vector, a := .vector,
    b := if cvtExp a b then .scalar else if cvtMul a b then kindB f else .unused,
    c := if both then some (immBits f 27 22) else none,
    rsv := ones 12 0 ||| (if both then 0 else ones 27 22) }

/-- The exact product a · r of an A8 or A16 source (R805): a NaN multiplier is itself, and zero times infinity is
an invalid operation, taken as a signaling NaN (notes/assumptions/12.md). -/
def mulSource (x r : Num) : Num := if r.isNan then r else (mulNum x r).getD (.nan false false 0)

/-- The exact value of a source element (R806): code, multiplier, exponent of its block. -/
def srcValue (a : Fmt) (code mul ex : Nat) : Num :=
  match a with
  | .fp32 => unpack fmt32 code
  | .fp16 => unpack fmt16 code
  | .bf16 => unpack fmtBf code
  | .f8 => unpackF8 code
  | .a8 => mulSource (numOfInt (signedOf 8 code)) (unpack fmt32 mul)
  | .a16 => mulSource (numOfInt (signedOf 16 code)) (unpack fmt32 mul)
  | .e8 =>
    match numOfInt (signedOf 8 code) with
    | .fin s m _ => .fin s m ((ex : Int) - 127)
    | n => n
  | .i32 => numOfInt (signedOf 32 code)

/-- The value that an element of A8 or A16 rounds: the multiplier enters once (R804, R805). -/
def withMul (a : Fmt) (v : Num) (mul : Nat) : Num := if a.isAct then v else mulActNum v (unpack fmt32 mul)

/-- Convert one element whose destination is not E8 (R119, R806). BF16 into FP32 is bit-exact. -/
def State.convertElem (s : State) (n : Nat) (a b : Fmt) (code mul ex : Nat) : Nat × FpFlags :=
  if a = b then (code, 0#5)
  else
    let v := srcValue a code mul ex
    match b with
    | .fp32 => if a = .bf16 then (code * 65536, 0#5) else toIeee fmt32 (s.mode32 n) v
    | .fp16 => toIeee fmt16 (s.mode16 n) v
    | .bf16 => toBf v
    | .f8 => toF8 v
    | .a8 => toAct 8 (withMul a v mul)
    | .a16 => toAct 16 (withMul a v mul)
    | .i32 => toI32 (s.mode32 n).rnd v
    | .e8 => (0, 0#5)

/-- Put elements into a register: element e of width w at its place (R403). -/
def elemPut (w p : Nat) (old : Nat → Lane) (act : Nat → Bool) (val : Nat → Nat) (i : Nat) : Lane :=
  if w = 32 then (if act i then BitVec.ofNat 32 (val i) else old i)
  else
    let per := 32 / w
    let first := (i - p * (64 / per)) * per
    if p * (64 / per) ≤ i ∧ i < (p + 1) * (64 / per) ∧ act i then
      BitVec.ofNat 32 ((List.range per).foldl (fun acc k => acc + (val (first + k) % 2 ^ w) * 2 ^ (w * k)) 0)
    else old i

/-- VCVT (R402 to R404, R808). -/
def execVcvt (u : Issue) (f : Fields) (s : State) : Host.Outcome State Fault Refusal :=
  .next <| s.issue u f (cvtUse f) fun s =>
    let a := cvtSrc f
    let b := cvtDst f
    if !partOk a b (cvtPart f) then .fault s fILL
    else
      let n := u.core.val
      let x := s.at u
      let m := predOf x f
      let va := x.getV f.srca.toNat
      let pa := sidePart a b (cvtPart f)
      let pb := sidePart b a (cvtPart f)
      let both := cvtMul a b && cvtExp a b
      let vc := x.getV (immBits f 27 22)
      let mul : Nat → Nat := fun e => if both then (vc.lane e).toNat else (vecB x f e).toNat
      let ew := x.getA f.srcb.toNat
      let ex : Nat → Nat := fun e => if e < 32 then fieldOf ew 7 0 else fieldOf ew 15 8
      let live : Nat → Bool := fun e => active m (elemLane b.width pb e)
      let code : Nat → Nat := fun e => elemGet va.lane a.width pa e
      let value : Nat → Num := fun e => withMul (if b = .e8 then .a8 else a) (srcValue a (code e) (mul e) (ex e)) (mul e)
      let block : Nat → List Num := fun k => (List.range 32).map fun i => value (32 * k + i)
      let c0 := if b = .e8 then e8Code (block 0) 256 0 else 0
      let c1 := if b = .e8 then e8Code (block 1) 256 0 else 0
      let out : Nat → Nat × FpFlags := fun e =>
        if a = b then (code e, 0#5)
        else if b = .e8 then e8Sig (if e < 32 then c0 else c1) (value e)
        else s.convertElem n a b (code e) (mul e) (ex e)
      let fl := allFlags ((List.range 64).map fun e => if live e then (out e).2 else 0#5)
      let src := decide (va.pois ≠ 0#4) ||
        (if both then decide (vc.pois ≠ 0#4) else cvtMul a b && decide (poisB x f ≠ 0#4)) ||
        (cvtExp a b && decide (a = .e8) && x.poisA f.srcb.toNat)
      let old := x.getV f.dst.toNat
      let per := 32 / b.width
      let wm : Word := maskBy 64 fun i =>
        active m i && (b.width == 32 || (decide (pb * (64 / per) ≤ i) && decide (i < (pb + 1) * (64 / per))))
      let r := VReg.ofFn (elemPut b.width pb old.lane (active m) (fun e => (out e).1)) (otherPois old.pois wm src)
      let x := x.setV f.dst.toNat r
      let x := if decide (b = .e8) && decide (a ≠ .e8) then
          x.setA f.srcb.toNat (BitVec.ofNat 64 (c0 + c1 * 256)) src else x
      .next (((s.putAt u x).raiseFlags n fl).vecIssue u)

end Sys2Proof.Machine
end

