-- ==== Sys2Proof/Machine/Grain.lean ====
section
/-!
DEFINITION. Grain.lean: the grain map: positions and spares, bond groups and their states, mesh links, its measurement
(R17 to R21, R29, R30, R152 to R161, R611, R614, R624 to R628, R814).
-/
namespace Sys2Proof.Machine

/-! Positions. -/

/-- The map word of cluster g, laid out as GRN_CLg_MAP (R627). -/
def GrainMap.clMap (m : GrainMap) (g : Nat) : BitVec 53 := if h : g < 48 then m.cl[g] else 0#53

/-- Set the map word of a cluster. -/
def GrainMap.setClMap (m : GrainMap) (g : Nat) (v : BitVec 53) : GrainMap :=
  if h : g < 48 then { m with cl := m.cl.set g v } else m

/-- The physical position of logical core k in a map word, 15 for none. -/
def posIn (v : BitVec 53) (k : Nat) : Nat := bitsOf v.toNat (4 * k + 3) (4 * k)

/-- A map word with the position of logical core k replaced. -/
def putPos (v : BitVec 53) (k p : Nat) : BitVec 53 :=
  BitVec.ofNat 53 (putField (v.setWidth 64) (4 * k + 3) (4 * k) p).toNat

/-- A map word with NOTFREE set to a condition (R138). -/
def putNotFree (v : BitVec 53) (b : Bool) : BitVec 53 := BitVec.ofNat 53 (v.toNat % 2 ^ 52 + flag b * 2 ^ 52)

/-- Whether a map word has a free spare: K12 has a position and NOTFREE is 0 (R21). -/
def spareFreeIn (v : BitVec 53) : Bool := decide (posIn v 12 ≠ 15) && !v.getLsbD 52

/-- Whether cluster g has a free spare. -/
def State.spareFree (s : State) (g : Nat) : Bool := spareFreeIn (s.grain.clMap g)

/-- Logical core k moves onto the spare's position, and its own position becomes K12 (R656). -/
def swapSpare (v : BitVec 53) (k : Nat) (notFree : Bool) : BitVec 53 :=
  putNotFree (putPos (putPos v k (posIn v 12)) 12 (posIn v k)) notFree

/-- Clusters whose spare is not free (R21, R624). -/
def State.clSpare (s : State) : Nat := ((List.range 48).filter fun g => !s.spareFree g).length

/-! Bond groups (R154, R157, R814). -/

/-- The state code for a number of failed bonds (R157). -/
def bondCode (failed : Nat) : Nat := if failed ≤ 2 then failed else if failed ≤ 34 then 3 else 4

/-- Groups of a stack (R814 section 4). -/
def stackGroups : Nat := 35712

/-- Where a bond group is: a V-port's top-mid or pass-through group, an attention-port group of pipeline a, an attention
base-path group, a position-port group, a cluster-port group; clusters are numbered 12 s + c. -/
inductive Bond where
  | vport (through : Bool) (cl phys e g : Nat)
  | att (cl a g : Nat)
  | base (cl g : Nat)
  | position (cl phys g : Nat)
  | clusterPort (cl g : Nat)
  deriving DecidableEq, Repr

/-- The number of a group in section 4 of the map body. -/
def Bond.index : Bond → Nat
  | .vport thr cl p e g => cl / 12 * stackGroups + flag thr * 9984 + ((cl % 12 * 13 + p) * 2 + e) * 32 + g
  | .att cl a g => cl / 12 * stackGroups + 19968 + (cl % 12 * 2 + a) * 512 + g
  | .base cl g => cl / 12 * stackGroups + 32256 + cl % 12 * 16 + g
  | .position cl p g => cl / 12 * stackGroups + 32448 + (cl % 12 * 13 + p) * 16 + g
  | .clusterPort cl g => cl / 12 * stackGroups + 34944 + cl % 12 * 64 + g

/-- The group with a number. -/
def Bond.ofIndex (i : Nat) : Bond :=
  let st := i / stackGroups
  let j := i % stackGroups
  if j < 19968 then
    let m := j % 9984
    .vport (decide (9984 ≤ j)) (12 * st + m / 64 / 13) (m / 64 % 13) (m / 32 % 2) (m % 32)
  else if j < 32256 then let m := j - 19968; .att (12 * st + m / 1024) (m / 512 % 2) (m % 512)
  else if j < 32448 then let m := j - 32256; .base (12 * st + m / 16) (m % 16)
  else if j < 34944 then let m := j - 32448; .position (12 * st + m / 16 / 13) (m / 16 % 13) (m % 16)
  else let m := j - 34944; .clusterPort (12 * st + m / 64) (m % 64)

/-- The group that a TYPE 5 identifier names (R535, R628); the fields that the group does not use are zero. -/
def bondNamed (u : Word) : Option Bond :=
  let st := fieldOf u 55 48
  let c := fieldOf u 47 40
  let co := fieldOf u 39 32
  let en := fieldOf u 31 24
  let port := fieldOf u 23 16
  let g := fieldOf u 15 0
  let cl := 12 * st + c
  if fieldOf u 63 56 ≠ 5 ∨ 4 ≤ st ∨ 12 ≤ c then none
  else
    match port with
    | 0 => if co < 13 ∧ en < 2 ∧ g < 32 then some (.vport false cl co en g) else none
    | 1 => if co < 13 ∧ en < 2 ∧ g < 32 then some (.vport true cl co en g) else none
    | 2 => if co < 2 ∧ en = 0 ∧ g < 512 then some (.att cl co g) else none
    | 3 => if co = 0 ∧ en = 0 ∧ g < 16 then some (.base cl g) else none
    | 4 => if co < 13 ∧ en = 0 ∧ g < 16 then some (.position cl co g) else none
    | 5 => if co = 0 ∧ en = 0 ∧ g < 64 then some (.clusterPort cl g) else none
    | _ => none

/-- The identifier of a group (R535). -/
def Bond.unit : Bond → Word
  | .vport thr cl p e g => unitName 5 (cl / 12) (cl % 12) p e (flag thr * 65536 + g)
  | .att cl a g => unitName 5 (cl / 12) (cl % 12) a 0 (2 * 65536 + g)
  | .base cl g => unitName 5 (cl / 12) (cl % 12) 0 0 (3 * 65536 + g)
  | .position cl p g => unitName 5 (cl / 12) (cl % 12) p 0 (4 * 65536 + g)
  | .clusterPort cl g => unitName 5 (cl / 12) (cl % 12) 0 0 (5 * 65536 + g)

/-- Failed bonds that the latest test of a group found. -/
def State.bondFailed (s : State) (b : Bond) : Nat := tabGetD s.grain.bonds b.index 0

/-- The state code of a group. -/
def State.bondState (s : State) (b : Bond) : Nat := bondCode (s.bondFailed b)

/-- Whether a group awaits its test (R158). -/
def State.bondSusp (s : State) (b : Bond) : Bool := s.grain.susp.contains b.index

/-- The result of a test: the state never decreases in operation (R159). -/
def GrainMap.setBond (m : GrainMap) (i failed : Nat) : GrainMap :=
  let n := Nat.min 66 (Nat.max failed (tabGetD m.bonds i 0))
  { m with bonds := if n = 0 then m.bonds else tabSet m.bonds i n, susp := m.susp.filter (· ≠ i) }

/-- The bond groups of a physical position: both V-ports, both interfaces, and the position port. -/
def positionBonds (cl p : Nat) : List Bond :=
  ([false, true].flatMap fun thr => [0, 1].flatMap fun e => (List.range 32).map fun g => Bond.vport thr cl p e g) ++
    (List.range 16).map fun g => .position cl p g

/-- The V-port groups of an engine of logical position n: bit g is 1 while either group of row group g is HALF (R92). -/
def State.halfGroups (s : State) (n e : Nat) : BitVec 32 :=
  maskBy 32 fun g => [false, true].any fun thr => decide (s.bondState (.vport thr (n / 13) (s.physOf n) e g) = 3)

/-- The four directions of a position port (R154). -/
def positionDirections : List (List Nat) :=
  [List.range 5, (List.range 5).map (5 + ·), (List.range 3).map (10 + ·), (List.range 3).map (13 + ·)]

/-- The cluster whose pipelines stand in for those of a cluster: the row neighbour to the west, or to the east of column 0
(R369). -/
def standIn (g : Nat) : Nat := if g % 12 % 4 = 0 then g + 1 else g - 1

/-- Whether a direction of a cluster port has no group left: 0 top-mid up, 1 top-mid down, 2 pass-through up, 3 pass-through down
(R154, R161). -/
def State.portLost (s : State) (cl d : Nat) : Bool :=
  (List.range 16).all fun j => decide (s.bondState (.clusterPort cl (16 * d + j)) = 4)

/-- The cluster port that a cluster's traffic takes: its own, or the neighbour's while it has lost a direction on the way
(R161). -/
def State.portOf (s : State) (cl : Nat) (up : Bool) : Nat :=
  let d := if up then 0 else 1
  if s.portLost cl d || s.portLost cl (2 + d) then 12 * (cl / 12) + standIn cl % 12 else cl

/-- Whether a position fails for its bonds: a V-port group LOST, or a position-port direction with no group left (R161,
R655). -/
def State.bondsLost (s : State) (cl p : Nat) : Bool :=
  ([false, true].any fun thr => [0, 1].any fun e => (List.range 32).any fun g => decide (s.bondState (.vport thr cl p e g) = 4)) ||
    positionDirections.any fun d => d.all fun g => decide (s.bondState (.position cl p g) = 4)

/-- The logical core at a physical position of a cluster. -/
def State.logicalAt (s : State) (cl p : Nat) : Option Nat := (List.range 13).find? fun k => decide (s.physOf (13 * cl + k) = p)

/-- The identifier of a group in records (R19, R535): its core field holds the logical core, 15 at a position without one. -/
def State.bondUnit (s : State) (b : Bond) : Word :=
  match b with
  | .vport thr cl p e g => (Bond.vport thr cl ((s.logicalAt cl p).getD 15) e g).unit
  | .position cl p g => (Bond.position cl ((s.logicalAt cl p).getD 15) g).unit
  | b => b.unit

/-- Bytes that groups carried fail parity: two different beats within one churn make a group suspect (R158). -/
def State.carried (s : State) (l : List Nat) (beat : Nat) : State :=
  l.foldl (fun s g =>
    let s := if s.parFail.any fun x => decide (x.1 = g) && decide (x.2 ≠ beat) then
        { s with grain := { s.grain with susp := natInsert s.grain.susp g } }
      else s
    { s with parFail := if s.parFail.contains (g, beat) then s.parFail else s.parFail ++ [(g, beat)] }) s

/-- Mark bond groups as suspect. -/
def State.suspect (s : State) (l : List Nat) : State :=
  { s with grain := { s.grain with susp := l.foldl natInsert s.grain.susp } }

/-! Which groups carry a byte (R158). Apart from the V-ports the spec gives no place of a byte on a port's wires: byte i
travels on the group that it would with the bytes in order on the wires of its direction (DESIGN CHOICE,
notes/assumptions/80.md). -/

/-- The group of a direction of w groups that carries byte i. -/
def wireOf (w i : Nat) : Nat := i % (8 * w) / 8

/-- The position-port groups that a byte of a field passes on its way up to the top die (R154). -/
def State.upGroups (s : State) (n off : Nat) : List Nat :=
  let b (g : Nat) : Nat := (Bond.position (n / 13) (s.physOf n) g).index
  b (wireOf 5 off) :: (if 0x1400000 ≤ off then [b (10 + wireOf 3 off)] else [])

/-- The position-port groups that a byte of the mid-die half passes on its way down to the base die (R154). -/
def State.downGroups (s : State) (n off : Nat) : List Nat :=
  if off < 0x1400000 then [(Bond.position (n / 13) (s.physOf n) (13 + wireOf 3 off)).index] else []

/-- Whether the attention base path of a cluster has lost a group, so that reads of base-die halves travel the position port of
the page (R161). -/
def State.basePathLost (s : State) (cl : Nat) : Bool := (List.range 16).any fun g => decide (s.bondState (.base cl g) = 4)

/-- The pipeline that serves for pipeline q in every serving list: q itself, its cluster partner when q is mapped out, and with both
mapped out those of the row neighbour (R368, R369). -/
def State.servedBy (s : State) (q : Nat) : Nat :=
  let out (p : Nat) : Bool := s.grain.pipes.getLsbD p
  let mate (p : Nat) : Nat := p / 2 * 2 + (1 - p % 2)
  let n := 2 * standIn (q / 2) + q % 2
  if !out q then q else if !out (mate q) then mate q else if !out n then n else mate n

/-- The pipeline under which the reserve is kept that pipeline q's appends use: its partner's when that serves for it, since both have
pairs of the same cluster; a stand-in from the neighbour keeps pairs of the mapped-out cluster apart (R352, R368, R369). -/
def State.reserveOf (s : State) (q : Nat) : Nat := if s.servedBy q / 2 = q / 2 then s.servedBy q else q

/-- The groups that a byte passes on its way to where pipeline q's work is done: of that pipeline's port, or for the base-die half of
the cluster's base path; to the neighbour's pipelines the position port of the page (R153, R161, R369). -/
def State.attGroups (s : State) (q n off : Nat) : List Nat :=
  let p := s.servedBy q
  if p / 2 ≠ q / 2 then s.upGroups n off
  else if off < 0x1400000 then [(Bond.att (q / 2) (p % 2) (wireOf 512 off)).index]
  else if s.basePathLost (q / 2) then s.upGroups n off
  else [(Bond.base (q / 2) (wireOf 16 off)).index]

/-- The groups that carried failing bytes of a range of a field are told (R158). -/
def State.carriedIn (s : State) (via : Nat → List Nat) (n off len : Nat) : State :=
  (s.mem.badBytes (fieldKey n off) len).foldl (fun s i => s.carried (via (off + i)) ((off + i) / 512)) s

/-- Read bytes of a field over the ports that via names. -/
def State.fieldReadVia (s : State) (via : Nat → List Nat) (n off len : Nat) : ReadOut :=
  (s.carriedIn via n off len).fieldRead n off len

/-! Mesh links (R29, R30, R612). -/

/-- The links of the fixed detour around a mesh link. -/
def meshDetour (m : Nat) : List Nat :=
  let ew (x y : Nat) : Nat := 3 * y + x
  let ns (x y : Nat) : Nat := 9 + 4 * y + x
  if m < 9 then
    let x := m % 3
    let y := m / 3
    let r := if y = 0 then 1 else y - 1
    let v := Nat.min y r
    [ns x v, ew x r, ns (x + 1) v]
  else
    let x := (m - 9) % 4
    let y := (m - 9) / 4
    let k := if x = 0 then 1 else x - 1
    let w := Nat.min x k
    [ew w y, ns k y, ew w (y + 1)]

/-- The links of a stack that are mapped out. -/
def State.meshOut (s : State) (st : Fin 4) : BitVec 17 := s.grain.mesh[st]

/-- Whether a link can be mapped out: its detour uses no mapped-out link, and no mapped-out link's detour uses it (R665). -/
def State.meshCanMap (s : State) (st : Fin 4) (m : Nat) : Bool :=
  let out := s.meshOut st
  !((meshDetour m).any fun x => out.getLsbD x) && !(List.range 17).any fun x => out.getLsbD x && (meshDetour x).contains m

/-! The measurement (R625, R814). -/

/-- The map body. -/
def GrainMap.body (m : GrainMap) : List Byte :=
  (m.cl.toList.flatMap fun v => leBytes 8 v.toNat) ++ leBytes 16 m.pipes.toNat ++
    (m.mesh.toList.flatMap fun v => leBytes 8 v.toNat) ++
    ((List.range (4 * stackGroups)).map fun i => BitVec.ofNat 8 (bondCode (tabGetD m.bonds i 0))) ++
    leBytes 8 m.rows.length ++ m.rows.flatMap fun r => leBytes 8 r

/-- GRN_MEAS: the SHA-512 digest of the map body. -/
def GrainMap.meas (m : GrainMap) : List Word := digestWords (sha512 m.body)

/-- The grain map changed in operation: GEN rises, the new map waits for flash, and a loaded image shows the difference
(R321, R614). -/
def State.grainChanged (s : State) : State :=
  let s := { s with grain := { s.grain with gen := s.grain.gen + 1#32 },
                    power := { s.power with flashQ := natInsert s.power.flashQ 0 } }
  match s.image with
  | some g => s.putBit 0x108 51 (decide (g.gmMeas ≠ s.grain.meas))
  | none => s

/-- Change the map word of a cluster. -/
def State.mapCluster (s : State) (g : Nat) (v : BitVec 53) : State :=
  { s with grain := s.grain.setClMap g v }.grainChanged

/-- The result of GRN_PROBE (R628). -/
def State.probeBond (s : State) (u : Word) : Word :=
  match bondNamed u with
  | none => BitVec.ofNat 64 (3 * 2 ^ 62)
  | some b => BitVec.ofNat 64 (2 ^ 63 + s.bondFailed b * 256 + flag (s.bondSusp b) * 8 + s.bondState b)

end Sys2Proof.Machine
end

