-- ==== Sys2Proof/Machine/Home.lean ====
section
/-!
DEFINITION. Home.lean: homes of lines (R174 to R182), frames and replacement (R183 to R186), curd pairs (R190 to
R193), young evictions (R203).
-/
namespace Sys2Proof.Machine

/-- The line of an address (R174). -/
def lineOf (pa : Nat) : Nat := pa / 256

/-- Whether an address lies in the ranges that are cached at all (R174). -/
def inDram (pa : Nat) : Bool :=
  match targetOf pa with
  | .hbm _ => true
  | .ddr _ _ => true
  | _ => false

/-! Regions (R181, R228). -/

/-- BASE and LIM of region table entry i; the table is device-wide (R222). -/
def offREG (i : Nat) : Nat := offCACHE 0 + 0x1000 + 0x10 * i

/-- The lowest-numbered region entry that covers an address (R181). -/
def State.regionOf (s : State) (pa : Nat) : Option Nat :=
  (List.range 16).find? fun i => s.bit (offREG i) 63 && decide (s.field (offREG i) 47 30 ≤ pa / 2 ^ 30) &&
    decide (pa / 2 ^ 30 ≤ s.field (offREG i + 8) 47 30)

/-- MODE of an address: 0 interleaved, 1 stack-local, 2 uncached (R177, R181). -/
def State.modeOf (s : State) (pa : Nat) : Nat :=
  match s.regionOf pa with
  | some i => s.field (offREG i) 59 58
  | none => 0

/-- PAIR of an address (R181, R191). -/
def State.pairMode (s : State) (pa : Nat) : Bool := (s.regionOf pa).any fun i => s.bit (offREG i) 57

/-! Segments (R175, R176, R178). -/

/-- Segments that position n contributes (R175). -/
def State.segsOf (s : State) (n : Nat) : Nat := if s.hasPos n then (if isK12 n then 16 else 16 - s.fprop n) else 0

/-- G of a stack (R176). -/
def State.stackSegs (s : State) (st : Nat) : Nat :=
  (List.range 156).foldl (fun acc p => acc + s.segsOf (156 * st + p)) 0

/-- The position and segment of global segment g, walking the positions from p (R176). -/
def State.segAt (s : State) (st : Nat) : Nat → Nat → Nat → Option (Nat × Nat)
  | 0, _, _ => none
  | fuel + 1, p, g =>
    let k := s.segsOf (156 * st + p)
    if g < k then some (156 * st + p, g) else s.segAt st fuel (p + 1) (g - k)

/-- The home stack of an address; none in an uncached region (R177). -/
def State.homeStack (s : State) (pa : Nat) : Option Nat :=
  match s.modeOf pa with
  | 0 => some (bitsOf pa 17 16 ^^^ bitsOf pa 19 18)
  | 1 => some (ownerOf pa)
  | _ => none

/-- H of R178. -/
def homeHash (pa : Nat) : Nat := crcOf crc32c (leBytes 8 (bitsOf pa 47 9))

/-- A home: logical position, segment within it, set. -/
structure Home where
  pos : Nat
  seg : Nat
  set : Nat
  deriving DecidableEq, Repr

/-- The home slice of an address, none where it has none (R174, R177, R178). -/
def State.home (s : State) (pa : Nat) : Option Home :=
  if !inDram pa then none
  else
    match s.homeStack pa with
    | none => none
    | some st =>
      let g := s.stackSegs st
      if g = 0 then none
      else
        match s.segAt st 156 0 (homeHash pa * g / 2 ^ 32) with
        | some (pos, seg) => some { pos := pos, seg := seg, set := bitsOf pa 17 9 ^^^ bitsOf pa 26 18 }
        | none => none

/-- The number of a set. -/
def Home.key (h : Home) : Nat := (h.pos * 16 + h.seg) * 512 + h.set

/-- The home that a line records. -/
def Line.home (l : Line) : Home := { pos := l.pos, seg := l.seg, set := l.set }

/-- A logical K12 slice being vacated for a failover, planned or of a failed core, until the takeover (R137, R215). -/
def State.vacating (s : State) (pos : Nat) : Bool :=
  isK12 pos && (s.failover.any (fun x => decide (x.1 = pos / 13)) || s.failed.any fun x => decide (x.1 / 13 = pos / 13))

/-- Whether the frames of a home lie in the range that a split change moves: accesses to its lines wait (R134). -/
def State.homeMoving (s : State) (h : Home) : Bool := s.splitMoving h.pos ((s.fprop h.pos + h.seg) * 0x200000)

/-- Whether a split change is in progress in a stack (R134, R179). -/
def State.stackMoving (s : State) (st : Nat) : Bool := s.splits.any fun x => decide (x.1 / 156 = st)

/-! Frames (R183, R185, R186). -/

/-- The lines of a set with their numbers. -/
def State.setLines (s : State) (h : Home) : List (Nat × Line) := s.lines.filter fun x => decide (x.2.home = h)

/-- The lines in a frame. -/
def State.frame (s : State) (h : Home) (way : Nat) : List (Nat × Line) :=
  (s.setLines h).filter fun x => decide (x.2.way = way)

/-- Whether a line keeps its frame from being a victim (R185). -/
def Line.holdsFrame (l : Line) : Bool := l.chuck.isSome || !l.reds.isEmpty || decide (l.state = 5#3)

/-- The victim under the tree: node, first way and number of ways of the subtree (R185). A node bit 0 points to
the lower ways (notes/assumptions/13.md). -/
def treePick (bits : Nat) (ok : Nat → Bool) : Nat → Nat → Nat → Nat → Nat
  | 0, _, base, _ => base
  | fuel + 1, node, base, size =>
    let half := size / 2
    let lowOk := (List.range half).any fun i => ok (base + i)
    let highOk := (List.range half).any fun i => ok (base + half + i)
    let high := if bits.testBit node then highOk else !lowOk
    if high then treePick bits ok fuel (2 * node + 2) (base + half) half
    else treePick bits ok fuel (2 * node + 1) base half

/-- The tree bits after an access to a way: every node on its path points away (R185). -/
def treeTouch (bits way : Nat) : Nat :=
  [(0, 8), (1 + way / 8, 4), (3 + way / 4, 2), (7 + way / 2, 1)].foldl (fun b (x : Nat × Nat) =>
    let low : Bool := decide (way / x.2 % 2 = 0)
    if low then b ||| 2 ^ x.1 else b &&& (32767 - 2 ^ x.1)) bits

/-- An access to a frame. -/
def State.touch (s : State) (h : Home) (way : Nat) : State :=
  { s with plru := tabSet s.plru h.key (treeTouch (tabGetD s.plru h.key 0) way) }

/-- An access reaches a set (R203). -/
def State.reachSet (s : State) (h : Home) : State :=
  { s with setAcc := tabSet s.setAcc h.key (tabGetD s.setAcc h.key 0 + 1) }

/-- Remove a line from its frame; its partner stays there alone, expanded (R193). -/
def State.dropLine (s : State) (ln : Nat) : State :=
  let partner := ln ^^^ 1
  let lines := tabErase s.lines ln
  let lines := match tabGet? lines partner with
    | some p => if p.curd then tabSet lines partner { p with curd := false } else lines
    | none => lines
  { s with lines := lines, cmem := s.cmem.erase (256 * ln) (256 * ln + 256) }

/-- Occupied entries of a slice's eviction buffer (R212). -/
def State.evictCount (s : State) (pos : Nat) : Nat := (s.evicts.filter fun x => decide (x.2.line.pos = pos)).length

/-- Whether a state code is DIRTY or PARTIAL (R184). -/
def dirtyState (st : BitVec 3) : Bool := decide (st = 2#3) || decide (st = 3#3)

/-- Count a young eviction; at CACHE_THRTH the slice raises THRASH (R203). -/
def State.young (s : State) (pos : Nat) : State :=
  let o := offSLICE pos + 0x10
  let n := s.field o 31 0 + 1
  let s := s.setField o 31 0 n
  let th := s.field (offCACHE (pos / 156) + 0x10) 31 0
  if th ≠ 0 ∧ n = th then
    let s := (s.setBit (offSLICE pos) 17).setBit (offCACHE (pos / 156) + 8) 18
    { s with thrash := if s.thrash.contains pos then s.thrash else s.thrash ++ [pos] }
  else s

/-- Flits of a line whose parity fails. -/
def State.badFlits (s : State) (ln : Nat) : List Nat := [0, 1, 2, 3].filter fun q => s.cmem.failing (4 * ln + q) ≠ 0

/-- The parity check of a DIRTY or PARTIAL line or copy: POIS of the flits that fail, PPOIS and an error record (R219). -/
def State.markBad (s : State) (ln : Nat) (l : Line) : Line × State :=
  let bad := s.badFlits ln
  if bad.isEmpty then (l, s)
  else
    let fix (st : Store) (q : Nat) : Store :=
      { st with flips := memErase st.flips (256 * ln + 64 * q) (256 * ln + 64 * q + 64),
                chk := memErase st.chk (256 * ln + 64 * q) (256 * ln + 64 * q + 64) }
    let s := (s.setBit (offSLICE l.pos) 20).errRec 15 3 (posUnit 4 l.pos 0) (256 * ln + 64 * bad.headD 0)
    ({ l with pois := l.pois ||| maskBy 4 fun q => bad.contains q }, { s with cmem := bad.foldl fix s.cmem })

/-- Empty a victim frame: CLEAN lines are dropped, a dirty line enters the eviction buffer; none when that buffer
is full (R185, R193, R212). -/
def State.evictFrame (s : State) (h : Home) (way : Nat) : Option State :=
  let ls := s.frame h way
  let dirty := ls.filter fun x => dirtyState x.2.state
  if !dirty.isEmpty && decide (s.evictCount h.pos ≥ 16) then none
  else
    let births := ls.map fun x => x.2.birth
    let isYoung := !ls.isEmpty && decide (tabGetD s.setAcc h.key 0 - births.foldl Nat.max 0 < 256)
    let s := ls.foldl (fun s x =>
      if dirtyState x.2.state then
        let (l, s) := s.markBad x.1 x.2
        { s with lines := tabErase s.lines x.1, evicts := tabSet s.evicts x.1 { line := l, issued := false } }
      else s.dropLine x.1) s
    some (if isYoung then s.young h.pos else s)

/-- Take a frame of a set: an empty one first, the lowest-numbered; else the victim of R185, not the frame not.
None when none is eligible (R186) or the eviction buffer is full. -/
def State.takeFrame (s : State) (h : Home) (not : Option Nat) : Option (Nat × State) :=
  match (List.range 16).find? (fun w => (s.frame h w).isEmpty) with
  | some w => some (w, s)
  | none =>
    let ok (w : Nat) : Bool := decide (not ≠ some w) && (s.frame h w).all fun x => !x.2.holdsFrame
    if (List.range 16).any ok then
      let w := treePick (tabGetD s.plru h.key 0) ok 4 0 0 16
      match s.evictFrame h w with
      | some s => some (w, s)
      | none => none
    else none

/-- The CLASS of a line that no write has reached: R184 states none (notes/assumptions/2.md). -/
def unwritten : Nat := 8

/-- A line newly placed in a frame. -/
def newLine (h : Home) (way : Nat) (st : BitVec 3) (cls birth : Nat) : Line :=
  { pos := h.pos, seg := h.seg, set := h.set, way := way, state := st, mask := 0#256, curd := false, skim := false,
    chuck := none, pois := 0#4, cls := cls, reds := [], birth := birth }

/-- Give a line a frame in a state (R185). -/
def State.placeLine (s : State) (h : Home) (ln : Nat) (st : BitVec 3) (cls : Nat) : Option State :=
  match s.takeFrame h none with
  | none => none
  | some (w, s) =>
    let s := s.touch h w
    some { s with lines := tabSet s.lines ln (newLine h w st cls (tabGetD s.setAcc h.key 0)) }

/-! Curd pairs (R190 to R192). -/

/-- The smallest q of R190 for a group, if any. -/
def curdQ (b : Nat) (ws : List Nat) : Option Nat :=
  [1, 2, 3, 4, 5, 6, 7].find? fun q => ws.all fun w =>
    let d := (BitVec.ofNat 32 (w + 2 ^ 32 - b)).toInt
    decide (-(2 : Int) ^ (4 * q - 1) ≤ d) && decide (d < (2 : Int) ^ (4 * q - 1))

/-- The cost of a group of eight words (R190). -/
def curdCost (ws : List Nat) : Nat :=
  match ws.filter (· ≠ 0) with
  | [] => 0
  | b :: rest =>
    match curdQ b rest with
    | some q => 5 + (4 * q * rest.length + 7) / 8
    | none => 1 + 4 * (rest.length + 1)

/-- The encoded size Z of a pair (R190). -/
def curdSize (bytes : List Byte) : Nat :=
  let a := bytes.toArray
  let word (i : Nat) : Nat := (List.range 4).foldl (fun acc k => acc + (a.getD (4 * i + k) 0#8).toNat * 256 ^ k) 0
  (List.range 16).foldl (fun acc g => acc + curdCost ((List.range 8).map fun i => word (8 * g + i))) 16

/-- Whether a line may join a pair (R191). -/
def Line.pairable (l : Line) : Bool :=
  decide (l.state = 1#3) && !l.skim && l.chuck.isNone && l.reds.isEmpty && decide (l.pois = 0#4) && !l.curd

/-- Try to form a pair of a line and its partner: they take the partner's frame (R191). -/
def State.tryPair (s : State) (ln : Nat) : State :=
  match tabGet? s.lines ln, tabGet? s.lines (ln ^^^ 1) with
  | some l, some p =>
    if l.pairable && p.pairable && decide (curdSize (s.cmem.read (256 * (ln / 2 * 2)) 512) ≤ 256) then
      let lines := tabSet s.lines ln { l with curd := true, way := p.way }
      { s with lines := tabSet lines (ln ^^^ 1) { p with curd := true } }
    else s
  | _, _ => s

/-- Split the pair of a line: it moves to a second frame; none while it must wait for one (R192). -/
def State.splitPair (s : State) (ln : Nat) : Option State :=
  match tabGet? s.lines ln with
  | none => some s
  | some l =>
    if !l.curd then some s
    else
      match s.takeFrame l.home (some l.way) with
      | none => none
      | some (w, s) =>
        let lines := tabSet s.lines ln { l with curd := false, way := w }
        let lines := match tabGet? lines (ln ^^^ 1) with
          | some p => tabSet lines (ln ^^^ 1) { p with curd := false }
          | none => lines
        some { s with lines := lines }

end Sys2Proof.Machine
end

