-- ==== Sys2Proof/Machine/MemQueue.lean ====
section
/-!
DEFINITION. MemQueue.lean: the memory controllers' queues and regulation by class (R244 to R248, R271 to R277), and
what the completion of a request does.
-/
namespace Sys2Proof.Machine

/-! Requests complete (R383, R436, R451, R460, R483). -/

/-- Write one lane of a thread register with its poison. -/
def GroupCtx.setT (x : GroupCtx) (k lane : Nat) (v : Lane) (po : Bool) : GroupCtx :=
  if h : k < 64 ∧ lane < 32 then
    { x with t := x.t.set k (x.t[k].set lane v h.2) h.1,
             tPois := x.tPois.set k (if po then x.tPois[k] ||| BitVec.twoPow 32 lane
                                     else x.tPois[k] &&& ~~~ BitVec.twoPow 32 lane) h.1 }
  else x

/-- Requests of a group context whose acknowledgement the launch waits for (R451, R483). -/
def State.groupStores (s : State) (n g : Nat) : Bool :=
  s.reqs.any fun r => decide (r.who = .grp n g) && (match r.kind with | .ld _ _ _ => false | _ => true)

/-- A group context with no lane left becomes free when its stores are acknowledged; its loads are discarded
(R451, R471, R483). -/
def State.reapGroup (s : State) (n : Nat) (g : Fin 16) : State :=
  let k := s.core n
  let x := k.group g
  if !x.busy || !x.subs.isEmpty || s.groupStores n g.val then s
  else
    let k := k.setGroup g GroupCtx.zero
    let ended (l : Launch) : Launch :=
      if l.id = x.launch then { l with live := l.live - 1, killed := l.killed + flag x.killed } else l
    let k : Core := { k with launches := k.launches.map ended }
    let s := { s with reqs := s.reqs.filter fun (r : Req) => decide (r.who ≠ Requester.grp n g.val) }
    (s.setCore n k).settle n

/-- Data reaches a lane of a group context: one register per 4 bytes; a group that ended discards it. -/
def State.deliverT (s : State) (n : Nat) (g : Fin 16) (lane r : Nat) (bytes : List Byte) (po : Bool) : State :=
  let k := s.core n
  let x := k.group g
  if !x.pend.contains (lane * 64 + r) then s
  else
    let x := (List.range (bytes.length / 4)).foldl (fun x i =>
      x.setT (r + i) lane (BitVec.ofNat 32 (leNat ((bytes.drop (4 * i)).take 4))) po) x
    let x := { x with pend := x.pend.filter fun p =>
      !((List.range (bytes.length / 4)).any fun i => decide (p = lane * 64 + r + i)) }
    s.setCore n (k.setGroup g x)

/-- Four flits marked alike. -/
def quad (po : Bool) : BitVec 4 := if po then 15#4 else 0#4

/-- Data of a load reaches its destination; a poisoned flit or address poisons all of it (R383, R460,
notes/assumptions/15.md). -/
def State.deliver (s : State) (r : Req) (dst : LoadDst) (bytes : List Byte) (po : List Bool) : State :=
  match r.who, dst with
  | .ctx n c, .areg k => s.deliverA n c k (BitVec.ofNat 64 (leNat bytes)) (po.any id)
  | .ctx n c, .vreg k => s.deliverV n c k (VReg.ofBytes bytes (quad (po.any id)))
  | .grp n g, .treg _ lane k => s.deliverT n (Fin.ofNat 16 g) lane k bytes (po.any id)
  | _, _ => s

/-- A request is complete or acknowledged: it leaves, and what waited for it goes on. -/
def State.finishReq (s : State) (id : Nat) : State :=
  match s.reqs.find? (fun r => decide (r.id = id)) with
  | none => s
  | some r =>
    let s := { s with reqs := s.reqs.filter fun x => decide (x.id ≠ id) }
    match r.who with
    | .ctx n _ => s.settle n
    | .grp n g => s.reapGroup n (Fin.ofNat 16 g)
    | .other => s

/-- Set the stage of a request. -/
def State.stageReq (s : State) (id : Nat) (st : ReqStage) : State :=
  { s with reqs := s.reqs.map fun r => if r.id = id then { r with stage := st } else r }

/-! Requesters, limits, levels and steps (R271 to R274). -/

/-- Requester numbers: the NI of position n. -/
def niOf (n : Nat) : Nat := n
/-- The memory side of the slice of position n. -/
def sliceOf (n : Nat) : Nat := 1024 + n
/-- Tier mover m. -/
def moverOf (m : Nat) : Nat := 2048 + m
/-- The management core of stack st. -/
def mgmtOf (st : Nat) : Nat := 2064 + st
/-- The NI of pipeline q. -/
def pipeOf (q : Nat) : Nat := 2080 + q
/-- The host controllers. -/
def hostOf : Nat := 2176
/-- The peer controllers. -/
def peerOf : Nat := 2177

/-- A controller. -/
def State.ctl (s : State) (c : Nat) : Controller := tabGetD s.ctls c Controller.zero

/-- Set a controller. -/
def State.setCtl (s : State) (c : Nat) (k : Controller) : State := { s with ctls := tabSet s.ctls c k }

/-- LIM of a class (R271, R279). -/
def State.limOf (s : State) (cls : Nat) : Nat := s.field (offTIER 0 + 0x40 + 8 * cls) 11 0

/-- A class limit scaled for a level (R272); LIM 0 stops the class (R279). -/
def scaledLimit (lim cls : Nat) (level : BitVec 2) : Nat :=
  if lim = 0 then 0
  else
    match level.toNat with
    | 0 => lim
    | 1 => Nat.max 1 (lim / 2)
    | 2 => Nat.max 1 (lim / 4)
    | _ => if cls < 5 then 1 else 0

/-- The level that a controller reports: BLACK during a calibration window (R276). -/
def Controller.reports (k : Controller) : BitVec 2 := if k.cal then 3#2 else k.level

/-- The level that a requester knows: what the latest response told it, or a change sent to it since then and at least 64
S-cycles ago (R273; that a change takes all of the 64 S-cycles is a DESIGN CHOICE, notes/assumptions/14.md). -/
def Controller.known (k : Controller) (now src : Nat) : BitVec 2 :=
  match tabGet? k.heard src, k.news.find? fun x => decide (x.1 + 32 ≤ now) with
  | some h, some t => if t.1 ≤ h.1 then h.2 else t.2
  | some h, none => h.2
  | none, some t => t.2
  | none, none => 0#2

/-- Change a controller; a change of the level that it reports is sent to every requester (R273). -/
def State.changeCtl (s : State) (c : Nat) (f : Controller → Controller) : State :=
  let k := s.ctl c
  let k' := f k
  if k'.reports = k.reports then s.setCtl c k'
  else
    let old := k.news.filter (fun x => decide (s.time < x.1 + 32)) ++ (k.news.find? fun x => decide (x.1 + 32 ≤ s.time)).toList
    s.setCtl c { k' with news := (s.time, k'.reports) :: old }

/-- Entries in a controller's request queue (R272). -/
def Controller.depth (k : Controller) : Nat := k.reads.length + k.writes.length

/-- Transactions of a requester and class outstanding at memory controllers (R271). -/
def State.outstanding (s : State) (src cls : Nat) : Nat :=
  s.ctls.foldl (fun acc x => acc +
    (x.2.reads.filter fun r => decide (r.src = src) && decide (r.cls = cls)).length +
    (x.2.writes.filter fun w => !w.acked && decide (w.src = src) && decide (w.cls = cls)).length) 0

/-- Whether a requester may issue a transaction of a class to a controller, by the level that it knows (R271, R273); the
controller's queue holds 256 (R238). -/
def State.mayIssue (s : State) (src cls c : Nat) : Bool :=
  let k := s.ctl c
  decide (s.outstanding src cls < scaledLimit (s.limOf cls) cls (k.known s.time src)) && decide (k.depth < 256)

/-- Latencies and step of a requester and class (R274). -/
def State.clsStep (s : State) (src cls : Nat) : ClassStep :=
  tabGetD s.steps (src * 8 + cls) { lats := [], step := 0, fell := 0 }

/-- The step that the mean of the kept latencies calls for (R274). -/
def stepFor (lats : List Nat) (target : Nat) : Nat :=
  let n := lats.length
  let t := 100 * lats.foldl (· + ·) 0
  if n = 0 then 0
  else if 90 * target * n ≤ t then 3
  else if 75 * target * n ≤ t then 2
  else if 50 * target * n ≤ t then 1
  else 0

/-- A transaction completes: its latency in S-cycles joins the last 16, the step rises where a threshold is crossed, and the
response carries the controller's level (R273, R274). -/
def State.measured (s : State) (src cls c since : Nat) : State :=
  let x := s.clsStep src cls
  let lats := (2 * (s.time - since) :: x.lats).take 16
  let t := stepFor lats (s.field (offTIER 0 + 0x40 + 8 * cls) 47 16)
  let k := s.ctl c
  { s.setCtl c { k with heard := tabSet k.heard src (s.time, k.reports) } with
    steps := tabSet s.steps (src * 8 + cls) { x with lats := lats, step := Nat.max x.step t } }

/-- CLASS_STEP_DECAY: a step falls by one, at most once in 256 S-cycles (R274). -/
def execClassStepDecay (req : Nat) (cls : Fin 8) (s : State) : Host.Outcome State Fault Refusal :=
  .next <|
    let x := s.clsStep req cls.val
    let t := stepFor x.lats (s.field (offTIER 0 + 0x40 + 8 * cls.val) 47 16)
    if t < x.step ∧ (x.fell = 0 ∨ 128 ≤ s.time - x.fell) then
      { s with steps := tabSet s.steps (req * 8 + cls.val) { x with step := x.step - 1, fell := s.time } }
    else s

/-! The queues (R244 to R246, R275). -/

/-- Put a read in the queue of the owning controller. -/
def State.sendRead (s : State) (src pa len cls : Nat) (who : ReadFor) : State :=
  let c := ctlOf pa
  let k := s.ctl c
  let r : MemRead := { pa := pa, len := len, cls := cls, step := (s.clsStep src cls).step, time := s.time,
                       ord := s.nextReq, src := src, who := who }
  { s.setCtl c { k with reads := k.reads ++ [r] } with nextReq := s.nextReq + 1 }

/-- Put a masked write of a line in the queue of the owning controller; one that has entered the queue is
acknowledged (R246). -/
def State.sendWrite (s : State) (src ln : Nat) (mask : BitVec 256) (data : List Byte) (po : BitVec 4) (cls : Nat)
    (who : WriteFor) (acked : Bool) : State :=
  let c := ctlOf (256 * ln)
  let k := s.ctl c
  let w : MemWrite := { pa := 256 * ln, mask := mask, data := data, pois := po, cls := cls,
                        step := (s.clsStep src cls).step, time := s.time, ord := s.nextReq, src := src,
                        who := who, acked := acked }
  { s.setCtl c { k with writes := k.writes ++ [w] } with nextReq := s.nextReq + 1 }

/-- The runs of masked bytes of a list, with their places. -/
def maskRuns : List (Bool × Byte) → Nat → List (Nat × List Byte)
  | [], _ => []
  | (false, _) :: t, i => maskRuns t (i + 1)
  | (true, b) :: t, i =>
    match maskRuns t (i + 1) with
    | (j, bs) :: r => if j = i + 1 then (i, b :: bs) :: r else (i, [b]) :: (j, bs) :: r
    | [] => [(i, [b])]

/-- The bytes of a line with their mask bits. -/
def masked (mask : BitVec 256) (data : List Byte) : List (Bool × Byte) := data.zipIdx.map fun (b, i) => (mask.getLsbD i, b)

/-- Write the masked bytes of a line to memory, flit by flit with its poison (R188, R244). -/
def State.writeMasked (s : State) (pa : Nat) (mask : BitVec 256) (data : List Byte) (po : BitVec 4) : State :=
  let l := masked mask data
  [0, 1, 2, 3].foldl (fun s q =>
    (maskRuns ((l.drop (64 * q)).take 64) 0).foldl
      (fun s run => s.writeMem (pa + 64 * q + run.1) run.2 (po.getLsbD q)) s) s

/-- Count bytes of a class at the controller of an address (R277): reads from counter 1, writes from counter 9. -/
def State.countBytes (s : State) (pa : Nat) (write : Bool) (cls n : Nat) : State :=
  s.count (0x480 + ctlOf pa) ((if write then 9 else 1) + cls) n

/-- The bits of a byte mask. -/
def maskCount (m : BitVec 256) : Nat := onesIn 256 m.toNat

/-- A queued write reaches memory. -/
def State.applyWrite (s : State) (w : MemWrite) : State :=
  (s.writeMasked w.pa w.mask w.data w.pois).countBytes w.pa true w.cls (maskCount w.mask)

/-- Whether a queued write has been accepted for a byte of a range. -/
def MemWrite.meets (w : MemWrite) (pa n : Nat) : Bool := w.acked && decide (w.pa < pa + n) && decide (pa < w.pa + 256)

/-- Apply the accepted writes queued for a range, in order, ahead of a write that is performed in one step: writes to one burst
apply in order of arrival (R246). -/
def State.drainRange (s : State) (pa n : Nat) : State :=
  s.ctls.foldl (fun s x =>
    let ws := x.2.writes.filter fun w => w.meets pa n
    if ws.isEmpty then s
    else ws.foldl State.applyWrite (s.setCtl x.1 { x.2 with writes := x.2.writes.filter fun w => !w.meets pa n })) s

/-! The choice of R275. -/

/-- A request that a controller may choose (R275). -/
structure Choice where
  write : Bool
  idx   : Nat
  step  : Nat
  cls   : Nat
  ord   : Nat
  aged  : Bool
  deriving DecidableEq, Repr

/-- The order of R275: aged requests first, oldest first; then highest step, lowest class, oldest. -/
def Choice.before (a b : Choice) : Bool :=
  if a.aged || b.aged then a.aged && (!b.aged || decide (a.ord < b.ord))
  else if a.step ≠ b.step then decide (b.step < a.step)
  else if a.cls ≠ b.cls then decide (a.cls < b.cls)
  else decide (a.ord < b.ord)

/-- What a controller may choose from: reads, and accepted writes that no earlier write to the line precedes
(R246). -/
def State.choices (s : State) (k : Controller) : List Choice :=
  let aged (t : Nat) : Bool := decide (2048 ≤ s.time - t)
  (k.reads.zipIdx.map fun (r, i) =>
      ({ write := false, idx := i, step := r.step, cls := r.cls, ord := r.ord, aged := aged r.time } : Choice)) ++
    (k.writes.zipIdx.filter fun (w, _) =>
        w.acked && k.writes.all fun v => !(decide (v.pa = w.pa) && decide (v.ord < w.ord))).map fun (w, i) =>
      ({ write := true, idx := i, step := w.step, cls := w.cls, ord := w.ord, aged := aged w.time } : Choice)

/-- The request that a controller chooses next (R275); none during a calibration window (R276). -/
def State.chosen (s : State) (c : Nat) : Option Choice :=
  let k := s.ctl c
  if k.cal then none
  else (s.choices k).foldl (fun acc x => match acc with
    | none => some x
    | some y => if x.before y then some x else some y) none

/-- The data of a read with an earlier queued write merged in (R246): bytes from pa, and the poison of the flits they touch. -/
def overlay (pa : Nat) (w : MemWrite) (d : List Byte × List Bool) : List Byte × List Bool :=
  let has (a : Nat) : Bool := decide (w.pa ≤ a) && w.mask.getLsbD (a - w.pa)
  let bytes := d.1.zipIdx.map fun (b, i) => if has (pa + i) then w.data.getD (pa + i - w.pa) 0#8 else b
  let po := d.2.zipIdx.map fun (p, q) =>
    let f := 64 * (pa / 64 + q)
    let l := (List.range 64).map fun i => has (f + i)
    let own := decide (w.pa ≤ f) && w.pois.getLsbD ((f - w.pa) / 64)
    if l.all id then own else if l.any id then p || own else p
  (bytes, po)

/-! Transactions performed in one step (R218, R271 to R277): those of the movers, the management cores, the pipelines, the host and
the peers. They issue when their class count allows it and their controllers would serve them next; otherwise what performs them
waits (notes/assumptions/81.md). -/

/-- Whether a transaction may issue to a controller, which then serves it before all that is queued there (R271, R275, R276). -/
def State.turn (s : State) (src cls c : Nat) : Bool :=
  let k := s.ctl c
  let x : Choice :=
    { write := false, idx := 0, step := (s.clsStep src cls).step, cls := cls, ord := s.nextReq, aged := false }
  s.mayIssue src cls c && !k.cal && (s.choices k).all x.before

/-- The address at which the memory of a controller that holds an address ends (R234, R235). -/
def ctlEnd (pa : Nat) : Nat :=
  match targetOf pa with
  | .hbm h => 0xC00000000 * (h + 1)
  | _ => (pa / 2 ^ 38 + 1) * 2 ^ 38

/-- The controllers of a range of memory that lies in one HBM stack or chunk, or crosses into the next. -/
def rangeCtls (pa n : Nat) : List Nat :=
  if n = 0 || !inDram pa then [] else [ctlOf pa, ctlOf (pa + n - 1)].eraseDups

/-- Whether a range may be read in one step. -/
def State.mayRead (s : State) (src cls pa n : Nat) : Bool := (rangeCtls pa n).all (s.turn src cls)

/-- Whether a range may be written in one step: no earlier write to it is queued (R246). -/
def State.mayWrite (s : State) (src cls pa n : Nat) : Bool :=
  (rangeCtls pa n).all fun c => s.turn src cls c && (s.ctl c).writes.all fun w => !w.meets pa n

/-- Count the bytes of a range at its controllers, and measure its transactions, one for each line (R274, R277). -/
def State.performed (s : State) (src cls pa n : Nat) (write : Bool) : State :=
  if !inDram pa then s
  else
    let a := Nat.min n (ctlEnd pa - pa)
    let s := s.countBytes pa write cls a
    let s := if a < n then s.countBytes (pa + a) write cls (n - a) else s
    (rangeCtls pa n).foldl (fun s c =>
      (List.range (Nat.min 16 ((n + 255) / 256))).foldl (fun s _ => s.measured src cls c s.time) s) s

/-- A read performed in one step: queued writes merged in (R246), counted and measured. -/
def State.memReadFor (s : State) (src cls pa n : Nat) : ReadOut :=
  let o := s.dramRead pa n
  let ws := (rangeCtls pa n).flatMap fun c => (s.ctl c).writes.filter fun w => w.meets pa n
  let d := ws.foldl (fun d w => overlay pa w d) (o.bytes, o.pois)
  { bytes := d.1, pois := d.2, s := o.s.performed src cls pa n false }

/-- A write performed in one step. -/
def State.memWriteFor (s : State) (src cls pa : Nat) (bs : List Byte) (po : Bool) : State :=
  ((s.drainRange pa bs.length).writeMem pa bs po).performed src cls pa bs.length true

/-- Whole flits with their marks written in one step. -/
def State.memFlitsFor (s : State) (src cls pa : Nat) (fs : List Delivered) : State :=
  ((s.drainRange pa (64 * fs.length)).writeFlits pa fs).performed src cls pa (64 * fs.length) true

/-- Where a line goes inside its memory (R237). -/
inductive MemPlace where
  | hbm (h channel pseudo : Nat)
  | ddr (d sub : Nat)
  | none
  deriving DecidableEq, Repr

/-- The pseudo-channel and channel of an HBM line, the subchannel of a DDR5 line: 0 for A, 1 for B (R237). -/
def placeOf (pa : Nat) : MemPlace :=
  match targetOf pa with
  | .hbm h => let n := bitsOf pa 13 8 ^^^ bitsOf pa 19 14; .hbm h (n / 2) n
  | .ddr k _ => .ddr (k / 2) (bitsOf pa 8 8)
  | _ => .none

/-- A controller performs a queued read (R239, R246, R277): its data goes to the fill or the load that it serves. -/
def State.performRead (s : State) (c idx : Nat) (r : MemRead) : State :=
  let k := s.ctl c
  let older := k.writes.filter fun w => decide (w.pa ≤ r.pa) && decide (r.pa < w.pa + 256) && decide (w.ord < r.ord)
  let s := s.setCtl c { k with reads := k.reads.eraseIdx idx }
  let o := s.dramRead r.pa r.len
  let (bytes, po) := older.foldl (fun d w => overlay r.pa w d) (o.bytes, o.pois)
  let s := (o.s.countBytes r.pa false r.cls r.len).measured r.src r.cls c r.time
  match r.who with
  | .fill ln =>
    match tabGet? s.fills ln with
    | some f => { s with fills := tabSet s.fills ln { f with data := some bytes, pois := pois4 po } }
    | none => s
  | .req id =>
    match s.reqs.find? (fun q => decide (q.id = id)) with
    | some q =>
      (match q.kind with
       | .ld dst _ bad => s.deliver q dst bytes (bad :: po)
       | _ => s).finishReq id
    | none => s

/-- The level of an occupancy (R272). -/
def levelOf (n : Nat) : BitVec 2 := if n < 128 then 0#2 else if n < 192 then 1#2 else if n < 240 then 2#2 else 3#2

/-- Controllers of one kind in one stack: HBM4 controllers in pairs, DDR5 channels in fours (R15, R679). -/
def ctlPeers (c d : Nat) : Bool := if c < 8 then decide (d < 8 ∧ d / 2 = c / 2) else decide (8 ≤ d ∧ (d - 8) / 4 = (c - 8) / 4)

end Sys2Proof.Machine
end

