-- ==== Sys2Proof/Machine/Cache.lean ====
section
/-!
DEFINITION. Cache.lean: how a home slice serves loads, stores and reductions, fills, evictions, skim marks, chucks,
flushes and probes (R183 to R232, R432 to R436, R813).
-/
namespace Sys2Proof.Machine

/-! Lines and their bytes. -/

/-- Change the record of a line. -/
def State.putLine (s : State) (ln : Nat) (l : Line) : State := { s with lines := tabSet s.lines ln l }

/-- Write bytes of a cache line, an armed flip of kind 5 included (R686). -/
def State.writeCache (s : State) (pos a : Nat) (bs : List Byte) : State :=
  let s := { s with cmem := s.cmem.write a bs }
  match s.flipArmed true a bs.length with
  | none => s
  | some f =>
    let m := s.reg (offERR + 0x18)
    let st := if s.bit (offERR + 0x20) 1 then s.cmem.flipParity (64 * f) m else s.cmem.flipData (64 * f) m
    State.flipDone { s with cmem := st } (posUnit 4 pos 0) (64 * f)

/-- The mask of n bytes from an offset of a line. -/
def byteMask (off n : Nat) : BitVec 256 := BitVec.ofNat 256 ((2 ^ n - 1) <<< off)

/-- Whether a mask covers n bytes from an offset. -/
def covers (m : BitVec 256) (off n : Nat) : Bool := decide (m &&& byteMask off n = byteMask off n)

/-- POIS after n bytes are written from an offset: a whole flit takes the mark of the data, a part adds it
(R219, R636). -/
def storePois (p : BitVec 4) (off n : Nat) (po : BitVec 4) : BitVec 4 :=
  maskBy 4 fun q =>
    if n = 0 ∨ 64 * q + 64 ≤ off ∨ off + n ≤ 64 * q then p.getLsbD q
    else if off ≤ 64 * q ∧ 64 * q + 64 ≤ off + n then po.getLsbD q
    else p.getLsbD q || po.getLsbD q

/-- The poison of the flits that n bytes from an offset touch. -/
def loadPois (p : BitVec 4) (off n : Nat) : List Bool := (flitsOf off n).map fun q => p.getLsbD q

/-- The bytes and poison of a line from those that a slice holds under a mask and those that memory holds (R184, R217). -/
def mergeUnder (m : BitVec 256) (own : List Byte) (op : BitVec 4) (mem : List Byte) (mp : BitVec 4) : List Byte × BitVec 4 :=
  ((masked m own).zipWith (fun x b => if x.1 then x.2 else b) mem,
    maskBy 4 fun q => op.getLsbD q || (mp.getLsbD q && !covers m (64 * q) 64))

/-! Fills, as the slice asks for them. -/

/-- Issue the read of a fill. -/
def State.askFill (s : State) (ln : Nat) (f : Fill) : State :=
  ({ s with fills := tabSet s.fills ln { f with asked := true } }).sendRead (sliceOf f.pos) (256 * ln) 256 f.cls (.fill ln)

/-- A slice needs a line from memory: its read is issued as soon as its class count allows (R189, R271). -/
def State.sendFill (s : State) (pos ln cls : Nat) (alloc : Bool) : State :=
  let f : Fill := { pos := pos, alloc := alloc, cls := cls, asked := false, data := none, pois := 0#4, late := none }
  if s.mayIssue (sliceOf pos) cls (ctlOf (256 * ln)) then s.askFill ln f else { s with fills := tabSet s.fills ln f }

/-- Issue the reads of the fills that waited for their class counts (R271, R273). -/
def State.askFills (s : State) : State :=
  s.fills.foldl (fun s x =>
    if !x.2.asked && s.mayIssue (sliceOf x.2.pos) x.2.cls (ctlOf (256 * x.1)) then s.askFill x.1 x.2 else s) s

/-- The parity check of a line at an access (R219): a CLEAN line is invalidated and read again from memory, with the class of the
access (R189); a DIRTY or PARTIAL line marks the flits that fail. The second line of a curd pair keeps the frame, so the line that
is read again takes another. -/
def State.checkLine (s : State) (ln cls : Nat) : State :=
  match tabGet? s.lines ln with
  | none => s
  | some l =>
    if l.state = 5#3 || (s.badFlits ln).isEmpty then s
    else if l.state = 1#3 then
      let s := (s.setBit (offSLICE l.pos) 19).errRec 15 1 (posUnit 4 l.pos 0) (256 * ln + 64 * (s.badFlits ln).headD 0)
      if l.curd then
        match (s.dropLine ln).placeLine l.home ln 5#3 unwritten with
        | some s => s.sendFill l.pos ln cls true
        | none => s.dropLine ln
      else
        ((s.dropLine ln).putLine ln { l with state := 5#3, mask := 0#256, pois := 0#4 }).sendFill l.pos ln cls true
    else
      let (l, s) := s.markBad ln l
      s.putLine ln l

/-- The parity check of a copy in the eviction buffer (R219). -/
def State.checkCopy (s : State) (ln : Nat) (e : Evict) : Evict × State :=
  let (l, s) := s.markBad ln e.line
  let e := { e with line := l }
  (e, { s with evicts := tabSet s.evicts ln e })

/-- The core of a requester. -/
def Requester.core : Requester → Option Nat
  | .ctx n _ => some n
  | .grp n _ => some n
  | .other => none

/-- The NI of a requester, for its class counts. -/
def Requester.ni (w : Requester) : Nat := niOf (w.core.getD 1000)

/-! Requests that go to memory (R177, R178, R214, R215). -/

/-- A request served by the controller: a load waits for its data, a store by byte mask is complete when the
controller accepts it (R177, R246, R436). -/
def State.toMemory (s : State) (r : Req) (src : Nat) : State :=
  if !s.mayIssue src r.cls (ctlOf r.pa) then s
  else
    match r.kind with
    | .ld _ _ _ => (s.sendRead src r.pa r.size r.cls (.req r.id)).stageReq r.id .memory
    | .st data po =>
      let off := r.pa % 256
      let m := byteMask off r.size
      let s := s.sendWrite src (lineOf r.pa) m (padTo 256 (List.replicate off 0#8 ++ data))
        (storePois 0#4 off r.size po) r.cls .silent true
      (s.measured src r.cls (ctlOf r.pa) s.time).finishReq r.id
    | .red _ => s

/-! Loads (R186, R194 to R197, R213). -/

/-- Whether an access to a line waits in its slice: one that waits for its fill, or one that has arrived and is still to be
served (R194). -/
def State.lineWaits (s : State) (ln : Nat) : Bool :=
  s.reqs.any fun r => decide (lineOf r.pa = ln) && (decide (r.stage = .filling) || (decide (r.stage = .sent) && decide (r.arr ≠ 0)))

/-- After a SKIM access: drop the line, or mark it (R194, R197). -/
def State.skimmed (s : State) (ln : Nat) : State :=
  match tabGet? s.lines ln with
  | none => s
  | some l =>
    if l.chuck.isSome then s
    else if l.reds.isEmpty && !s.lineWaits ln then s.dropLine ln
    else s.putLine ln { l with skim := true }

/-- A load is served from the bytes that the slice holds. -/
def State.loadHere (s : State) (r : Req) (po : BitVec 4) : State :=
  match r.kind with
  | .ld dst _ bad =>
    (s.deliver r dst (s.cmem.read r.pa r.size) (bad :: loadPois po (r.pa % 256) r.size)).finishReq r.id
  | _ => s

/-- SKIM of a load. -/
def Req.isSkim (r : Req) : Bool :=
  match r.kind with
  | .ld _ k _ => k
  | _ => false

/-- Count an access of a class at a slice (R762): hits from counter 1, misses 9, write-backs 17, REDs 25. -/
def State.countSlice (s : State) (pos first cls : Nat) : State := s.count (0x500 + pos) (first + cls) 1

/-! Stores and reductions (R187, R196, R205 to R211). -/

/-- Bytes written to a line: data, mask, poison, class; a CLEAN line becomes DIRTY, a PARTIAL one with a full mask
too; a skim mark is cleared (R184, R186, R187, R196). A line of a write-through slice stays CLEAN. -/
def State.storeHere (s : State) (ln : Nat) (l : Line) (off : Nat) (bs : List Byte) (po : BitVec 4) (cls : Nat)
    (through : Bool) : State × Line :=
  let m := l.mask ||| byteMask off bs.length
  let st : BitVec 3 :=
    if through then l.state else if l.state = 1#3 then 2#3
    else if l.state = 3#3 ∧ m = BitVec.allOnes 256 then 2#3 else l.state
  (s.writeCache l.pos (256 * ln + off) bs,
    { l with mask := if through then l.mask else m, state := st, cls := cls, skim := false,
             pois := storePois l.pois off bs.length po })

/-- One element of a RED (R205): the memory element first; the flag says that an I32 ADD saturated. -/
def redElem (ty op a b : Nat) : Nat × Bool :=
  match ty with
  | 0 =>
    let x := unpack fmt32 a
    let y := unpack fmt32 b
    (match op with
     | 0 => (fpAdd fmt32 modeIeee x y).1
     | 1 => (fpMinMax fmt32 true a b x y).1
     | _ => (fpMinMax fmt32 false a b x y).1, false)
  | 1 =>
    let x := unpack fmtBf a
    let y := unpack fmtBf b
    (match op with
     | 0 => (fpAdd fmtBf { rnd := .near, sat := true } x y).1
     | 1 => (fpMinMax fmtBf true a b x y).1
     | _ => (fpMinMax fmtBf false a b x y).1, false)
  | _ =>
    let x := signedOf 32 a
    let y := signedOf 32 b
    match op with
    | 0 => let (v, sat) := sat32 (x + y); (v.toNat, sat)
    | 1 => (if x < y then b else a, false)
    | _ => (if y < x then b else a, false)

/-- The elements of a RED operand combined with memory (R205). -/
def redBytes (ty op : Nat) : Nat → List Byte → List Byte → List Byte × Bool
  | 0, _, _ => ([], false)
  | n + 1, m, d =>
    let w := if ty = 1 then 2 else 4
    let (v, s1) := redElem ty op (leNat (m.take w)) (leNat (d.take w))
    let (rest, s2) := redBytes ty op n (m.drop w) (d.drop w)
    (leBytes w v ++ rest, s1 || s2)

/-- Apply a reduction to a line's bytes (R205, R209): a poisoned operand or flit leaves the flit poisoned. A skim mark set after the
reduction arrived stays (R194, R196). -/
def State.redHere (s : State) (ln : Nat) (l : Line) (r : RedOp) (through : Bool) : State × Line :=
  let n := r.data.length
  let a := 256 * ln + r.off
  let (bs, sat) := redBytes r.ty r.op (n / (if r.ty = 1 then 2 else 4)) (s.cmem.read a n) r.data
  let s := if sat || r.sat then s.setBit (offSLICE l.pos) 21 else s
  let po := r.pois || (loadPois l.pois r.off n).any id
  let (s, l') := s.storeHere ln l r.off bs (quad po) r.cls through
  (s, { l' with pois := l'.pois ||| l.pois, skim := l.skim })

/-- Reductions queued in a slice (R208). -/
def State.redCount (s : State) (pos : Nat) : Nat :=
  s.lines.foldl (fun acc x => if x.2.pos = pos then acc + x.2.reds.length else acc) 0

/-- Queue a reduction on a line; its request is complete, but for a write-through slice (R208, R214, R436). -/
def State.queueRed (s : State) (r : Req) (op : RedOp) : State :=
  let ln := lineOf r.pa
  match tabGet? s.lines ln with
  | none => s
  | some l =>
    let k12 := isK12 l.pos
    let s := (s.putLine ln { l with reds := l.reds ++ [(op, if k12 then some r.id else none)], skim := false }).countSlice
      l.pos 25 r.cls
    if k12 then s.stageReq r.id .queued else s.finishReq r.id

/-! The service of a request at its home slice. -/

/-- What a miss finds of the partner that PAIR = 1 has it fetch too: already here, to be fetched, or still to leave the slice
(R191, R212). -/
inductive Partner where
  | here | fetch | leaving
  deriving DecidableEq, Repr

/-- The partner of a line that misses (R191). -/
def State.partnerOf (s : State) (pa : Nat) : Partner :=
  let other := lineOf pa ^^^ 1
  if !s.pairMode pa || (tabGet? s.lines other).isSome then .here
  else if (tabGet? s.evicts other).isSome || (tabGet? s.fills other).isSome then .leaving
  else .fetch

/-- A frame for a line, FILLING, and its read (R186). -/
def State.fetch (s : State) (h : Home) (ln cls : Nat) : Option State :=
  (s.placeLine h ln 5#3 unwritten).map fun s => s.sendFill h.pos ln cls true

/-- The fills of a miss: the line, and with PAIR = 1 its partner; none while a frame is missing or the partner is still in the
eviction buffer (R186, R191, R212). -/
def State.fetchPair (s : State) (h : Home) (pa cls : Nat) : Option State :=
  match s.partnerOf pa with
  | .here => s.fetch h (lineOf pa) cls
  | .leaving => none
  | .fetch =>
    match s.fetch h (lineOf pa) cls with
    | none => none
    | some s => s.fetch h (lineOf pa ^^^ 1) cls

/-- A request finds its line absent (R186, R187, R191, R195, R207, R214). -/
def State.serveMiss (s : State) (r : Req) (h : Home) : State :=
  let ln := lineOf r.pa
  let src := sliceOf h.pos
  let go := s.mayIssue src r.cls (ctlOf r.pa)
  match r.kind with
  | .ld _ skim _ =>
    if !go then s
    else if skim then ((s.sendFill h.pos ln r.cls false).stageReq r.id .filling).countSlice h.pos 9 r.cls
    else
      match s.fetchPair h r.pa r.cls with
      | none => s
      | some s1 => (s1.stageReq r.id .filling).countSlice h.pos 9 r.cls
  | .st data po =>
    if isK12 h.pos then
      if go then (s.toMemory r src).countSlice h.pos 9 r.cls else s
    else
      match s.placeLine h ln 3#3 r.cls with
      | none => s
      | some s1 =>
        match tabGet? s1.lines ln with
        | none => s
        | some l =>
          let (s1, l) := s1.storeHere ln l (r.pa % 256) data po r.cls false
          ((s1.putLine ln l).countSlice h.pos 9 r.cls).finishReq r.id
  | .red op =>
    if !go || decide (s.redCount h.pos ≥ 64) then s
    else
      match s.fetchPair h r.pa r.cls with
      | none => s
      | some s1 => (s1.countSlice h.pos 9 r.cls).queueRed r op

/-- A request finds its line in a frame. A load waits for the queued reductions of its own core (R434); it is served ahead of
others'. -/
def State.serveLine (s : State) (r : Req) (h : Home) (l : Line) : State :=
  let ln := lineOf r.pa
  let off := r.pa % 256
  let src := sliceOf h.pos
  let filling := (tabGet? s.fills ln).isSome
  match r.kind with
  | .ld _ skim _ =>
    if l.state = 5#3 then (s.touch h l.way).stageReq r.id .filling
    else if l.reds.any (fun x => decide (some x.1.core = r.who.core)) then s
    else if l.state ≠ 3#3 ∨ covers l.mask off r.size then
      let s := ((s.touch h l.way).countSlice h.pos 1 r.cls).loadHere r l.pois
      if skim then s.skimmed ln else s
    else if filling then (s.touch h l.way).stageReq r.id .filling
    else if !s.mayIssue src r.cls (ctlOf r.pa) then s
    else (((s.touch h l.way).sendFill h.pos ln r.cls true).stageReq r.id .filling).countSlice h.pos 9 r.cls
  | .st data po =>
    if l.state = 5#3 ∨ l.reds ≠ [] then s
    else
      match s.splitPair ln with
      | none => s
      | some s1 =>
        match tabGet? s1.lines ln with
        | none => s
        | some l =>
          if isK12 h.pos then
            if !s1.mayIssue src r.cls (ctlOf r.pa) then s
            else
              let (s1, l) := s1.storeHere ln l off data po r.cls true
              (((s1.putLine ln l).touch h l.way).countSlice h.pos 1 r.cls).toMemory r src
          else
            let (s1, l) := s1.storeHere ln l off data po r.cls false
            (((s1.putLine ln l).touch h l.way).countSlice h.pos 1 r.cls).finishReq r.id
  | .red op =>
    if s.redCount h.pos ≥ 64 then s
    else
      match s.splitPair ln with
      | none => s
      | some s1 =>
        let s1 := s1.touch h ((tabGet? s1.lines ln).elim l.way (·.way))
        if l.state = 3#3 ∧ !filling then
          if s1.mayIssue src r.cls (ctlOf r.pa) then
            ((s1.sendFill h.pos ln r.cls true).countSlice h.pos 9 r.cls).queueRed r op
          else s
        else (s1.countSlice h.pos 1 r.cls).queueRed r op

/-- The bytes of a PARTIAL copy in the eviction buffer that its mask lacks, read from memory, and the poison of the line so
completed (R211, R213). -/
def State.copyBytes (s : State) (ln : Nat) (l : Line) (cls : Nat) : List Byte × BitVec 4 × State :=
  let here := s.cmem.read (256 * ln) 256
  if l.state = 2#3 then (here, l.pois, s)
  else
    let o := s.memReadFor (sliceOf l.pos) cls (256 * ln) 256
    let d := mergeUnder l.mask here l.pois o.bytes (pois4 o.pois)
    (d.1, d.2, o.s)

/-- A copy in the eviction buffer is dropped without write-back (R194). -/
def State.dropCopy (s : State) (ln : Nat) : State :=
  { s with evicts := tabErase s.evicts ln, cmem := s.cmem.erase (256 * ln) (256 * ln + 256) }

/-- A request finds its line in the eviction buffer (R194, R211, R213): it is served from the copy; bytes that a PARTIAL copy
lacks come from memory. -/
def State.serveEvict (s : State) (r : Req) (e : Evict) : State :=
  let ln := lineOf r.pa
  let off := r.pa % 256
  let (e, s) := s.checkCopy ln e
  let l := e.line
  let has := decide (l.state = 2#3) || covers l.mask off r.size
  let put (s : State) (l : Line) : State := { s with evicts := tabSet s.evicts ln { e with line := l } }
  if !has && !s.mayRead (sliceOf l.pos) r.cls (256 * ln) 256 && (match r.kind with | .st _ _ => false | _ => true) then s
  else
    match r.kind with
    | .ld dst skim bad =>
      let (bs, po, s) := if has then (s.cmem.read (256 * ln) 256, l.pois, s) else s.copyBytes ln l r.cls
      let s := ((s.countSlice l.pos 1 r.cls).deliver r dst ((bs.drop off).take r.size) (bad :: loadPois po off r.size)).finishReq r.id
      if skim && !s.lineWaits ln then s.dropCopy ln else s
    | .st data po =>
      let (s, l) := s.storeHere ln l off data po r.cls false
      ((put s l).countSlice l.pos 1 r.cls).finishReq r.id
    | .red op =>
      let (bs, po, s) := if has then (s.cmem.read (256 * ln) 256, l.pois, s) else s.copyBytes ln l r.cls
      let s : State := { s with cmem := s.cmem.write (256 * ln + off) ((bs.drop off).take r.size) }
      let bad := maskBy 4 fun q => (flitsOf off r.size).contains q && po.getLsbD q
      let (s, l) := s.redHere ln { l with pois := l.pois ||| bad } op false
      ((put s l).countSlice l.pos 25 r.cls).finishReq r.id

/-- A request reaches its home slice; while a logical K12's slice is vacated, loads and stores go to memory and reductions wait
(R215). -/
def State.serve (s : State) (r : Req) : State :=
  let ln := lineOf r.pa
  match s.home r.pa with
  | none => s.toMemory r r.who.ni
  | some h =>
    if s.vacating h.pos then s.toMemory r r.who.ni
    else
      match tabGet? s.evicts ln with
      | some e => if e.issued then s else s.serveEvict r e
      | none =>
        let s := s.checkLine ln r.cls
        match tabGet? s.lines ln with
        | some l => s.serveLine r h l
        | none =>
          if (tabGet? s.fills ln).isSome then
            match r.kind with
            | .ld _ _ _ => s.stageReq r.id .filling
            | _ => s
          else s.serveMiss r h

/-- A request arrives at its home slice: it takes its place in the order of arrival, and its set counts the access (R203, R206). -/
def State.arrive (s : State) (r : Req) : State :=
  if r.arr ≠ 0 then s
  else
    let reach (s : State) : State := (s.home r.pa).elim s s.reachSet
    reach { s with reqs := s.reqs.map fun (q : Req) => if q.id = r.id then { q with arr := s.nextReq } else q,
                   nextReq := s.nextReq + 1 }

/-- Whether a request waits before its home slice: for a chunk, for a split change, or as a reduction for a takeover (R134, R215,
R251). -/
def State.reqHeld (s : State) (r : Req) : Bool :=
  decide (s.memAccess r.pa false = .waits) ||
    (s.home r.pa).any fun h => s.homeMoving h || (s.vacating h.pos && match r.kind with | .red _ => true | _ => false)

/-- Whether another request is to be served before one: an earlier one of its context to the line (R434), an earlier reduction of
its core to the address (R206), and one to the line that has arrived and waits (R206, R432). -/
def State.reqBehind (s : State) (idx : Nat) (r : Req) : Bool :=
  let red (q : Req) : Bool := match q.kind with | .red _ => true | _ => false
  ((s.reqs.take idx).any fun q => decide (lineOf q.pa = lineOf r.pa) && decide (q.stage ≠ .queued) &&
      (decide (q.who = r.who) || (red q && red r && decide (q.who.core = r.who.core) && decide (q.pa = r.pa)))) ||
    s.reqs.any fun q => decide (lineOf q.pa = lineOf r.pa) && decide (q.stage = .sent) && decide (q.arr ≠ 0) &&
      (decide (r.arr = 0) || decide (q.arr < r.arr))

/-! Fills (R186, R191, R195, R207, R219). -/

/-- Serve the loads that waited for a line, in order, from its bytes and poison. -/
def State.serveWaiting (s : State) (ln : Nat) (po : BitVec 4) : State :=
  (s.reqs.filter fun r => decide (lineOf r.pa = ln) && decide (r.stage = .filling)).foldl
    (fun s r => s.loadHere r po) s

/-- The data of a fill as the slice sees it: under what a write-back issued meanwhile held, and under the copy in the eviction
buffer (R212, R213). -/
def State.fillData (s : State) (ln : Nat) (f : Fill) (bytes : List Byte) : List Byte × BitVec 4 :=
  let d := match f.late with
    | some (m, b, p) => mergeUnder m b p bytes f.pois
    | none => (bytes, f.pois)
  match tabGet? s.evicts ln with
  | some e => if e.issued then d else mergeUnder e.line.mask (s.cmem.read (256 * ln) 256) e.line.pois d.1 d.2
  | none => d

/-- Loads that waited for a line without a frame are served from the data of its fill. -/
def State.servePassing (s : State) (ln : Nat) (bytes : List Byte) (po : BitVec 4) : State :=
  (s.reqs.filter fun r => decide (lineOf r.pa = ln) && decide (r.stage = .filling)).foldl (fun s r =>
    match r.kind with
    | .ld dst _ bad =>
      (s.deliver r dst ((bytes.drop (r.pa % 256)).take r.size) (bad :: loadPois po (r.pa % 256) r.size)).finishReq r.id
    | _ => s) s

/-- The data of a fill reaches its slice. A FILLING line becomes CLEAN, a PARTIAL one is merged under its mask and DIRTY; a fill
without a frame only serves its loads (R184, R186, R191, R195, R207, R219). -/
def State.fillLine (s : State) (line : Nat) (f : Fill) (bytes : List Byte) : State :=
  let (bytes, po) := s.fillData line f bytes
  let s := { s with fills := tabErase s.fills line }
  let skim := s.reqs.any fun r => decide (lineOf r.pa = line) && decide (r.stage = .filling) && r.isSkim
  match tabGet? s.lines line with
  | none => s.servePassing line bytes po
  | some l =>
    if l.state = 5#3 then
      let s := s.writeCache l.pos (256 * line) bytes
      let l := { l with state := 1#3, mask := 0#256, pois := po, birth := tabGetD s.setAcc l.home.key 0 }
      let s := (s.putLine line l).serveWaiting line l.pois
      let s := if skim then s.skimmed line else s
      s.tryPair line
    else
      let d := mergeUnder l.mask (s.cmem.read (256 * line) 256) l.pois bytes po
      let s := { s with cmem := s.cmem.write (256 * line) d.1 }
      let l := { l with state := if l.state = 3#3 then 2#3 else l.state, pois := d.2 }
      let s := (s.putLine line l).serveWaiting line d.2
      if skim then s.skimmed line else s

/-! Reductions (R207 to R209, R214). -/

/-- Whether the first queued reduction of a line may be applied: the line has its bytes, its slice is not being vacated, and in a
write-through slice the write may issue (R207, R214, R215). -/
def State.redMay (s : State) (line : Nat) (l : Line) (op : RedOp) : Bool :=
  decide (l.state ≠ 5#3) && decide (l.state ≠ 3#3) && !s.vacating l.pos &&
    (!isK12 l.pos || s.mayIssue (sliceOf l.pos) op.cls (ctlOf (256 * line)))

/-- Apply the first queued reduction of a line; in a write-through slice it is written to memory and its request completes
(R207 to R209, R214). -/
def State.applyRed (s : State) (line : Nat) (l : Line) (op : RedOp) (who : Option Nat) (rest : List (RedOp × Option Nat)) : State :=
  let src := sliceOf l.pos
  let k12 := isK12 l.pos
  let (s, l) := s.redHere line l op k12
  let s := s.putLine line { l with reds := rest }
  if !k12 then s
  else
    let s := s.sendWrite src line (byteMask op.off op.data.length) (s.cmem.read (256 * line) 256) l.pois op.cls .silent true
    let s := s.measured src op.cls (ctlOf (256 * line)) s.time
    match who with
    | some id => s.finishReq id
    | none => s

/-- SKIM_DROP: a line with a skim mark is dropped once nothing holds it (R194). -/
def execSkimDrop (line : Nat) (s : State) : Host.Outcome State Fault Refusal :=
  .next <|
    match tabGet? s.lines line with
    | none => s
    | some l =>
      if !s.live || !l.skim || l.chuck.isSome || !l.reds.isEmpty || s.lineWaits line || decide (l.state = 5#3) ||
          (tabGet? s.fills line).isSome then s
      else s.dropLine line

/-! Write-backs (R188, R211, R212, R813). -/

/-- The write-back of an evicted line is issued; the line is INVALID from then on. What it holds lies over the data of a fill of the
line that is still in flight (R188, R212, R219, R813). -/
def State.issueBack (s : State) (line : Nat) (e : Evict) : State :=
  let src := sliceOf e.line.pos
  let (e, s) := s.checkCopy line e
  let here := s.cmem.read (256 * line) 256
  let fills := match tabGet? s.fills line with
    | some f => tabSet s.fills line { f with late := some (e.line.mask, here, e.line.pois) }
    | none => s.fills
  let s := { s with evicts := tabSet s.evicts line { e with issued := true }, fills := fills }
  (s.sendWrite src line e.line.mask here e.line.pois e.line.cls (.evict line) false).countSlice e.line.pos 17 e.line.cls

/-- The controller takes a write-back into its queue and acknowledges it; accesses that waited may go on (R212, R246). -/
def State.ackBack (s : State) (line : Nat) : State :=
  let c := ctlOf (256 * line)
  let k := s.ctl c
  let hit (w : MemWrite) : Bool := decide (w.who = .evict line) && !w.acked
  match k.writes.find? hit with
  | none => s
  | some w =>
    let s := s.setCtl c { k with writes := updateFirst hit (fun w => { w with acked := true }) k.writes }
    (s.measured w.src w.cls c w.time).dropCopy line

/-! What a line waits for, brought to its end: used where an access or a flush of the block is performed in one step after its
wait (notes/assumptions/81.md). -/

/-- The fill of a line completes: its data is read where memory has not answered yet. -/
def State.finishFill (s : State) (line : Nat) : State :=
  match tabGet? s.fills line with
  | none => s
  | some f =>
    match f.data with
    | some bytes => s.fillLine line f bytes
    | none =>
      let c := ctlOf (256 * line)
      let k := s.ctl c
      let o := (s.setCtl c { k with reads := k.reads.filter fun r => decide (r.who ≠ .fill line) }).memReadFor (sliceOf f.pos) f.cls
        (256 * line) 256
      o.s.fillLine line { f with pois := pois4 o.pois } o.bytes

/-- The reductions queued on a line are applied. -/
def State.finishReds (s : State) (line : Nat) : State :=
  let n := (tabGet? s.lines line).elim 0 (·.reds.length)
  (List.range n).foldl (fun s _ => match tabGet? s.lines line with
    | some l => (match l.reds with
      | (op, who) :: rest => if l.state = 5#3 ∨ l.state = 3#3 then s else s.applyRed line l op who rest
      | [] => s)
    | none => s) s

/-- A write-back of a line that is issued is acknowledged. -/
def State.finishBack (s : State) (line : Nat) : State :=
  match tabGet? s.evicts line with
  | some e => if e.issued then s.ackBack line else s
  | none => s

/-- Whatever a line waits for is complete. -/
def State.finishLine (s : State) (line : Nat) : State := ((s.finishFill line).finishReds line).finishBack line

/-- A frame of a set can be taken: what holds its frames is complete, and the eviction buffer has room (R186, R212). -/
def State.freeSet (s : State) (h : Home) : State :=
  let s := (s.setLines h).foldl (fun s x => s.finishLine x.1) s
  if s.evictCount h.pos < 16 then s
  else
    match s.evicts.find? fun x => decide (x.2.line.pos = h.pos) with
    | some x => (if x.2.issued then s else s.issueBack x.1 x.2).finishBack x.1
    | none => s

/-- A frame for a line once one is free. -/
def State.placeFree (s : State) (h : Home) (ln : Nat) (st : BitVec 3) (cls : Nat) : Option State :=
  match s.placeLine h ln st cls with
  | some s => some s
  | none => (s.freeSet h).placeLine h ln st cls

/-- The pair of a line is split once a frame is free (R192). -/
def State.splitFree (s : State) (h : Home) (ln : Nat) : State :=
  match s.splitPair ln with
  | some s => s
  | none => ((s.freeSet h).splitPair ln).getD s

/-! Accesses performed in one step: the host, pipelines and management cores, spill buffers, mover updates (R217, R257, R295, R432).
They wait as long as cachedGo does not hold; what the line itself waits for is then brought to its end. -/

/-- Whether the line of an access lies in its slice so that the access needs no memory. -/
def State.lineHere (s : State) (h : Home) (pa n : Nat) (store alloc : Bool) : Bool :=
  let ln := lineOf pa
  let has (l : Line) : Bool := decide (l.state = 2#3) || decide (l.state = 1#3) || covers l.mask (pa % 256) n
  match tabGet? s.evicts ln, tabGet? s.lines ln with
  | some e, _ => !e.issued && (store || has e.line)
  | none, some l =>
    decide (l.state ≠ 5#3) && l.reds.isEmpty && (tabGet? s.fills ln).isNone && (s.badFlits ln).isEmpty &&
      (if store then !isK12 h.pos else has l)
  | none, none => store && alloc && !isK12 h.pos && (tabGet? s.fills ln).isNone

/-- Whether an access of a requester to bytes of one line may be performed now (R134, R215, R271, R275, R276). -/
def State.cachedGo (s : State) (src cls pa n : Nat) (store alloc : Bool) : Bool :=
  let mem (src : Nat) : Bool := if store then s.mayWrite src cls pa n else s.mayRead src cls pa n
  match s.home pa with
  | none => mem src
  | some h =>
    if s.homeMoving h then false
    else if s.vacating h.pos then mem src
    else s.lineHere h pa n store alloc || (mem (sliceOf h.pos) && s.mayRead (sliceOf h.pos) cls (256 * lineOf pa) 256)

/-- A line filled from memory at once, merged under its mask (R184, R207). -/
def State.fillNow (s : State) (ln : Nat) (l : Line) (cls : Nat) : State :=
  let r := s.memReadFor (sliceOf l.pos) cls (256 * ln) 256
  let d := mergeUnder l.mask (r.s.cmem.read (256 * ln) 256) l.pois r.bytes (pois4 r.pois)
  let s := if l.state = 3#3 then { r.s with cmem := r.s.cmem.write (256 * ln) d.1 } else r.s.writeCache l.pos (256 * ln) d.1
  s.putLine ln { l with state := if l.state = 3#3 then 2#3 else 1#3, pois := d.2, birth := tabGetD s.setAcc l.home.key 0 }

/-- A line that is absent is fetched into a frame at once; the line stays absent where the set has no frame to give. -/
def State.fetchNow (s : State) (h : Home) (ln cls : Nat) : State :=
  match s.placeFree h ln 5#3 unwritten with
  | none => s
  | some s =>
    match tabGet? s.lines ln with
    | some l => s.fillNow ln l cls
    | none => s

/-- A miss fetches its line, with PAIR = 1 the partner too, and tries to pair them (R186, R191). -/
def State.missNow (s : State) (h : Home) (pa cls : Nat) : State :=
  let s := if s.partnerOf pa = .leaving then s.finishLine (lineOf pa ^^^ 1) else s
  let both := decide (s.partnerOf pa = .fetch)
  let s := s.fetchNow h (lineOf pa) cls
  (if both then s.fetchNow h (lineOf pa ^^^ 1) cls else s).tryPair (lineOf pa)

/-- Bytes of a memory range and the poison of the flits they touch. -/
def State.memLoad (s : State) (src cls pa n : Nat) : List Byte × List Bool × State :=
  let r := s.memReadFor src cls pa n
  (r.bytes, r.pois, r.s)

/-- A load of n bytes inside one line through its home: alloc for a cached load, which allocates, not for the host; skim for one with
the hint (R186, R194, R195, R213, R217). -/
def State.cohLoad (s : State) (src cls pa n : Nat) (alloc skim : Bool) : List Byte × List Bool × State :=
  let ln := lineOf pa
  let off := pa % 256
  let cut (bs : List Byte) (po : BitVec 4) (s : State) := ((bs.drop off).take n, loadPois po off n, s)
  match s.home pa with
  | none => s.memLoad src cls pa n
  | some h =>
    if s.vacating h.pos then s.memLoad src cls pa n
    else
      let s := (s.finishLine ln).reachSet h
      match tabGet? s.evicts ln with
      | some e =>
        let (e, s) := s.checkCopy ln e
        let (bs, po, s) := s.copyBytes ln e.line cls
        let s := s.countSlice h.pos 1 cls
        cut bs po (if skim && !s.lineWaits ln then s.dropCopy ln else s)
      | none =>
        let s := (s.checkLine ln cls).finishFill ln
        match tabGet? s.lines ln with
        | some l =>
          let s := s.touch h l.way
          let part := decide (l.state = 3#3) && !covers l.mask off n
          let s := s.countSlice h.pos (if part then 9 else 1) cls
          let (bs, po, s) :=
            if part && alloc then
              let s := s.fillNow ln l cls
              (s.cmem.read (256 * ln) 256, (tabGet? s.lines ln).elim 0#4 (·.pois), s)
            else if part then s.copyBytes ln l cls
            else (s.cmem.read (256 * ln) 256, l.pois, s)
          cut bs po (if skim then s.skimmed ln else s)
        | none =>
          let s := s.countSlice h.pos 9 cls
          if !alloc || skim then s.memLoad (sliceOf h.pos) cls pa n
          else
            let s := s.missNow h pa cls
            match tabGet? s.lines ln with
            | some l => cut (s.cmem.read (256 * ln) 256) l.pois s
            | none => s.memLoad (sliceOf h.pos) cls pa n

/-- A store of bytes inside one line through its home: merged into a resident line or copy; absent, it allocates a PARTIAL line where
alloc says so, and goes to memory for the host and at a write-through slice (R187, R213, R214, R217). -/
def State.cohStore (s : State) (src cls pa : Nat) (bs : List Byte) (po alloc : Bool) : State :=
  let ln := lineOf pa
  let off := pa % 256
  match s.home pa with
  | none => s.memWriteFor src cls pa bs po
  | some h =>
    if s.vacating h.pos then s.memWriteFor src cls pa bs po
    else
      let s := (s.finishLine ln).reachSet h
      match tabGet? s.evicts ln with
      | some e =>
        let (e, s) := s.checkCopy ln e
        let (s, l) := s.storeHere ln e.line off bs (quad po) cls false
        { s.countSlice h.pos 1 cls with evicts := tabSet s.evicts ln { e with line := l } }
      | none =>
        let s := ((s.checkLine ln cls).finishFill ln).splitFree h ln
        match tabGet? s.lines ln with
        | some l =>
          let k12 := isK12 h.pos
          let (s, l) := s.storeHere ln l off bs (quad po) cls k12
          let s := ((s.putLine ln l).touch h l.way).countSlice h.pos 1 cls
          if k12 then s.memWriteFor (sliceOf h.pos) cls pa bs po else s
        | none =>
          let s := s.countSlice h.pos 9 cls
          match (if alloc && !isK12 h.pos then s.placeFree h ln 3#3 cls else none) with
          | some s =>
            (match tabGet? s.lines ln with
             | some l => let (s, l) := s.storeHere ln l off bs (quad po) cls false; s.putLine ln l
             | none => s)
          | none => s.memWriteFor (sliceOf h.pos) cls pa bs po

/-! Flits that a receiver consumes (R293, R295). -/

/-- Take n flits that a receiver consumes from stream i: flits, and their credits on the way back (R293). -/
def State.takeFlits (s : State) (i n : Nat) : List Flit × State :=
  let r := s.strm i
  (r.buf.take n, s.setStrm i { r with buf := r.buf.drop n, credFly := r.credFly + n })

/-- The bytes of a flit. -/
def Flit.bytes (f : Flit) : List Byte := leBytes 64 f.data.toNat

/-- A flit from 64 bytes. -/
def Flit.of (bs : List Byte) (po : Bool) : Flit := { data := BitVec.ofNat 512 (leNat bs), pois := po }

/-- The spill address of flit k of a stream (R295). -/
def spillAt (base cap k : Nat) : Nat := base + 64 * (k % cap)

/-- Read n flits of a spilled stream through its cached region, class 3, with SKIM under a last-use handle (R295). -/
def State.spillRead (s : State) (src base cap k : Nat) (last : Bool) : Nat → List Flit × State
  | 0 => ([], s)
  | n + 1 =>
    let (bs, po, s) := s.cohLoad src 3 (spillAt base cap k) 64 true last
    let (fs, s) := s.spillRead src base cap (k + 1) last n
    (Flit.of bs (po.any id) :: fs, s)

/-- How many flits of stream i a receiver may take now, at most n: of a spilled stream those whose lines may be read (R134, R275,
R276, R295). -/
def State.takeable (s : State) (i n : Nat) : Nat :=
  let m := Nat.min n (s.available i)
  match s.streamDef i with
  | some d =>
    match d.spill with
    | some base =>
      ((List.range m).takeWhile fun k =>
        s.cachedGo (niOf d.cons.val) 3 (spillAt base d.cap ((s.strm i).rd + k)) 64 false true).length
    | none => m
  | none => m

/-- Read n flits of a stream from its receive buffer in the consumer's core store (R292, R630). -/
def State.bufferRead (s : State) (d : StreamDef) (k : Nat) : Nat → List Flit × State
  | 0 => ([], s)
  | n + 1 =>
    let o := s.storeRead d.cons.val (d.bufAt + 64 * (k % d.cap)) 64
    let (fs, s) := o.s.bufferRead d (k + 1) n
    (Flit.of o.bytes (o.pois.any id) :: fs, s)

/-- Take n flits that a receiver consumes from stream i; their credits travel back (R292, R293, R295). -/
def State.receive (s : State) (i n : Nat) (last : Bool) : List Flit × State :=
  match s.streamDef i with
  | some d =>
    match d.spill with
    | some base =>
      let (fs, s) := s.spillRead (niOf d.cons.val) base d.cap (s.strm i).rd last n
      let r := s.strm i
      (fs, s.setStrm i { r with rd := r.rd + n, credFly := r.credFly + n })
    | none =>
      if d.toPipe.isSome then s.takeFlits i n
      else
        let (fs, s) := s.bufferRead d (s.strm i).rd n
        let r := s.strm i
        (fs, s.setStrm i { r with rd := r.rd + n, credFly := r.credFly + n })
  | none => s.takeFlits i n

/-! Flushes (R201, R227). -/

/-- Whether a line in a range still has reductions, a fill or an eviction under way. -/
def State.lineBusy (s : State) (lo hi : Nat) : Bool :=
  let inR (x : Nat) : Bool := decide (lo ≤ x) && decide (x < hi)
  s.fills.any (fun x => inR x.1) || s.evicts.any (fun x => inR x.1) || s.lines.any fun x => inR x.1 && !x.2.reds.isEmpty

/-- Write the dirty bytes of a line to memory (R188, R189). -/
def State.backLine (s : State) (ln : Nat) (l : Line) : State :=
  ((((s.drainRange (256 * ln) 256).writeMasked (256 * ln) l.mask (s.cmem.read (256 * ln) 256) l.pois).countBytes (256 * ln) true l.cls
    (maskCount l.mask)).measured (sliceOf l.pos) l.cls (ctlOf (256 * ln)) s.time).countSlice l.pos 17 l.cls

/-- A line that is DIRTY or PARTIAL is written back and stays CLEAN: a PARTIAL one is filled from memory (R227). -/
def State.cleanLine (s : State) (ln : Nat) (l : Line) : State :=
  let s := s.backLine ln l
  let s := if l.state = 3#3 then
      s.fillNow ln { l with state := 5#3, mask := 0#256 } l.cls
    else s.putLine ln { l with state := 1#3, mask := 0#256 }
  s.tryPair ln

/-- A flush handles one line: OP 1 write back, 2 write back and invalidate, 3 invalidate; chucked lines stay but
those of region chid in an invalidating flush (R201, R227). -/
def State.flushLine (s : State) (op : Nat) (chid : Option (BitVec 6)) (ln : Nat) : State :=
  let s := (s.checkLine ln 0).finishFill ln
  match tabGet? s.lines ln with
  | none => s
  | some l =>
    let kept := l.chuck.isSome && (decide (op = 1) || decide (l.chuck ≠ chid))
    let dirty := dirtyState l.state
    match op with
    | 1 =>
      if !dirty then s
      else if l.state = 3#3 ∧ !kept then (s.backLine ln l).dropLine ln
      else s.cleanLine ln l
    | 2 =>
      if kept then (if dirty then s.cleanLine ln l else s)
      else (if dirty then s.backLine ln l else s).dropLine ln
    | 3 => if kept then s else s.dropLine ln
    | _ => s

/-- Flush every line of a range that p selects, in ascending order. -/
def State.flushRange (s : State) (lo hi op : Nat) (chid : Option (BitVec 6)) (p : Line → Bool) : State :=
  ((s.lines.filter fun x => decide (lo ≤ x.1) && decide (x.1 < hi) && p x.2).map (·.1)).foldl
    (fun s ln => s.flushLine op chid ln) s

/-- Whether the write-backs and re-reads of a flush may be performed now (R271, R275, R276). -/
def State.flushGo (s : State) (lo hi op : Nat) (p : Line → Bool) : Bool :=
  s.lines.all fun x => !(decide (lo ≤ x.1) && decide (x.1 < hi) && p x.2) ||
    ((op = 3 || !dirtyState x.2.state || s.mayWrite (sliceOf x.2.pos) x.2.cls (256 * x.1) 256) &&
      ((s.badFlits x.1).isEmpty || s.mayRead (sliceOf x.2.pos) 0 (256 * x.1) 256))

/-- The fills and write-backs of whole slices complete, and their queued reductions are applied. -/
def State.settleSlices (s : State) (p : Nat → Bool) : State :=
  let s := (s.fills.filter fun x => p x.2.pos).foldl (fun s x => s.finishFill x.1) s
  let s := (s.lines.filter fun x => p x.2.pos && !x.2.reds.isEmpty).foldl (fun s x => s.finishReds x.1) s
  (s.evicts.filter fun x => p x.2.line.pos).foldl (fun s x =>
    let s := if x.2.issued then s else s.issueBack x.1 x.2
    (s.finishBack x.1).drainRange (256 * x.1) 256) s

/-- Write back and invalidate the lines that p selects. -/
def State.flushLines (s : State) (p : Line → Bool) : State :=
  ((s.lines.filter fun x => p x.2).map (·.1)).foldl (fun s ln =>
    match tabGet? s.lines ln with
    | none => s
    | some l =>
      let (l, s) := if dirtyState l.state then s.markBad ln l else (l, s)
      (if dirtyState l.state then s.backLine ln l else s).dropLine ln) s

/-- Write back and invalidate every slice whose position p selects (R134, R179, R182). -/
def State.flushSlices (s : State) (p : Nat → Bool) : State := (s.settleSlices p).flushLines fun l => p l.pos

/-- Write back every slice whose position p selects, as a flush with OP 1 does (R201, R227, R662). -/
def State.cleanSlices (s : State) (p : Nat → Bool) : State :=
  let s := s.settleSlices p
  ((s.lines.filter fun x => p x.2.pos).map (·.1)).foldl (fun s ln => s.flushLine 1 none ln) s

/-- A write of CACHE_FLUSH_CTL starts a flush; one that starts while FBUSY = 1 is ignored (R227). -/
def State.startFlush (s : State) (st : Fin 4) (v : Word) (op : Nat) : State :=
  let o := offCACHE st.val
  if !s.live || (tabGet? s.flushes st.val).isSome then s
  else
    let f : Flush := { base := s.field (o + 0x28) 47 8, len := s.field (o + 0x30) 39 0 + 1, op := op,
                       chid := if bitOf v 3 then some (BitVec.ofNat 6 (fieldOf v 9 4)) else none }
    { s with flushes := tabSet s.flushes st.val f }.setBit (o + 8) 16

/-- FLUSH_WRITE_BACK: OP 1. -/
def execFlushWriteBack (stack : Fin 4) (v : Word) (s : State) : Host.Outcome State Fault Refusal := .next (s.startFlush stack v 1)
/-- FLUSH_WRITE_BACK_INVALIDATE: OP 2. -/
def execFlushWriteBackInvalidate (stack : Fin 4) (v : Word) (s : State) : Host.Outcome State Fault Refusal :=
  .next (s.startFlush stack v 2)
/-- FLUSH_INVALIDATE: OP 3. -/
def execFlushInvalidate (stack : Fin 4) (v : Word) (s : State) : Host.Outcome State Fault Refusal :=
  .next (s.startFlush stack v 3)

/-- FLUSH_COMPLETE: every line of the range homed in the stack is handled, and FBUSY clears (R227); it waits for
reductions, fills and evictions in the range, and for the controllers (R271, R276). -/
def execFlushComplete (stack : Fin 4) (s : State) : Host.Outcome State Fault Refusal :=
  .next <|
    match tabGet? s.flushes stack.val with
    | none => s
    | some f =>
      let mine (l : Line) : Bool := decide (l.pos / 156 = stack.val)
      if !s.live || s.lineBusy f.base (f.base + f.len) || !s.flushGo f.base (f.base + f.len) f.op mine then s
      else
        let s := s.flushRange f.base (f.base + f.len) f.op f.chid mine
        { s with flushes := tabErase s.flushes stack.val }.clearBit (offCACHE stack.val + 8) 16

/-! Probes (R226). -/

/-- The result of a probe, as CACHE_PROBE shows it; free is the CLASS of a line that no write has reached
(notes/assumptions/2.md). -/
def State.probe (s : State) (st : Nat) (pa free : Nat) : Word :=
  match s.home pa with
  | none => BitVec.ofNat 64 (2 ^ 63 + 2 ^ 13)
  | some h =>
    let at_ := 2 ^ 63 + (h.pos / 156) * 2 ^ 59 + (h.pos % 156) * 2 ^ 51
    if h.pos / 156 ≠ st then BitVec.ofNat 64 at_
    else
      let at_ := at_ + h.seg * 2 ^ 47 + h.set * 2 ^ 38
      let ln := lineOf pa
      let shown : Option (Line × Nat) := match tabGet? s.lines ln with
        | some l => some (l, l.state.toNat)
        | none => match tabGet? s.evicts ln with
          | some e => if e.issued then none else some (e.line, 4)
          | none => none
      match shown with
      | none => BitVec.ofNat 64 at_
      | some (l, state) =>
        BitVec.ofNat 64 (at_ + (if state = 4 then 0 else l.way) * 2 ^ 34 + state * 2 ^ 31 + flag l.curd * 2 ^ 30 +
          flag l.skim * 2 ^ 29 + flag l.chuck.isSome * 2 ^ 28 + (l.chuck.elim 0 (·.toNat)) * 2 ^ 22 +
          flag (!l.reds.isEmpty) * 2 ^ 21 + l.pois.toNat * 2 ^ 17 + (if l.cls = unwritten then free % 8 else l.cls) * 2 ^ 14 + maskCount l.mask * 16)

/-- A probe of an address by a stack: its result in CACHE_PROBE (R226). -/
def State.runProbe (s : State) (st : Fin 4) (pa : Nat) : State :=
  let (f, s) := s.takeFree
  s.setReg (offCACHE st.val + 0x20) (s.probe st.val pa f.toNat)

/-- CACHE_PROBE: a write of CACHE_PROBE_ADDR (R226). -/
def execCacheProbe (stack : Fin 4) (v : Word) (s : State) : Host.Outcome State Fault Refusal :=
  let o := offCACHE stack.val
  .next <|
    if !s.live then s
    else
      (s.setField (o + 0x18) 47 8 (fieldOf v 47 8)).runProbe stack (256 * fieldOf v 47 8)

/-! Chucking (R198 to R202, R216, R229). -/

/-- The registers of chuck region i. -/
def offCHUCK (i : Nat) : Nat := offCACHE 0 + 0x2000 + 0x10 * i

/-- Frames of a set that hold a chucked line. -/
def State.chuckFrames (s : State) (h : Home) : Nat :=
  ((List.range 16).filter fun w => (s.frame h w).any fun x => x.2.chuck.isSome).length

/-- Lines of chuck region i. -/
def State.chuckLines (s : State) (i : BitVec 6) : Nat := (s.lines.filter fun x => decide (x.2.chuck = some i)).length

/-- What CHUCK did with a line. -/
inductive ChuckStep where
  | done (s : State)
  | skipped (s : State)
  | limit (s : State)
  | spare
  | waits

/-- Whether CHUCK of a line waits: for a split change of its stack (R134, R179), for its reductions, its fill, or its write-back. -/
def State.chuckWaits (s : State) (h : Home) (ln : Nat) : Bool :=
  s.stackMoving (h.pos / 156) || s.lineBusy ln (ln + 1) ||
    (!(s.badFlits ln).isEmpty && !s.mayRead (sliceOf h.pos) 0 (256 * ln) 256)

/-- CHUCK of one line (R192, R198, R199, R216). -/
def State.chuckLine (s : State) (ln : Nat) (id : BitVec 6) (cls : Nat) : ChuckStep :=
  match s.home (256 * ln) with
  | none => .waits
  | some h =>
    if isK12 h.pos then .spare
    else if s.chuckWaits h ln then .waits
    else
      let s := (((s.reachSet h).checkLine ln cls).finishFill ln)
      match tabGet? s.lines ln with
      | some l =>
        if l.chuck.isSome then .skipped s
        else if s.chuckFrames h ≥ 12 then .limit (s.setBit (offSLICE h.pos) 18)
        else
          match s.splitPair ln with
          | none => .waits
          | some s =>
            match tabGet? s.lines ln with
            | none => .waits
            | some l => .done ((s.putLine ln { l with chuck := some id }).touch h l.way)
      | none =>
        if s.chuckFrames h ≥ 12 then .limit (s.setBit (offSLICE h.pos) 18)
        else if !s.mayRead (sliceOf h.pos) cls (256 * ln) 256 then .waits
        else
          match s.placeLine h ln 5#3 unwritten with
          | none => .waits
          | some s =>
            match tabGet? s.lines ln with
            | none => .waits
            | some l =>
              let s := (s.fillNow ln l cls).countSlice h.pos 9 cls
              match tabGet? s.lines ln with
              | none => .waits
              | some l => .done (s.putLine ln { l with chuck := some id })

/-- What CHUCK did with a range: it ended with a status code, or it waits at a line. -/
inductive ChuckOut where
  | ends (code : Nat)
  | waits
  deriving DecidableEq, Repr

/-- CHUCK from line ln on: how it ended, lines handled, lines chucked, state (R199). -/
def State.chuckFrom (s : State) (id : BitVec 6) (cls : Nat) : Nat → Nat → Nat × Nat → ChuckOut × (Nat × Nat) × State
  | 0, _, k => (.ends 0, k, s)
  | n + 1, ln, k =>
    match s.chuckLine ln id cls with
    | .done s => s.chuckFrom id cls n (ln + 1) (k.1 + 1, k.2 + 1)
    | .skipped s => s.chuckFrom id cls n (ln + 1) (k.1 + 1, k.2)
    | .limit s => (.ends 1, k, s)
    | .spare => (.ends 4, k, s)
    | .waits => (.waits, k, s)

/-- A status of CHUCK (R200). -/
def chuckStatus (code n : Nat) : Word := BitVec.ofNat 64 (code * 2 ^ 60 + n)

/-- Whether every line of a range has a home slice (R177, R178, R200). -/
def State.chuckable (s : State) (ln n : Nat) : Bool :=
  (List.range n).all fun i => (s.home (256 * (ln + i))).isSome && decide (s.memAccess (256 * (ln + i)) false ≠ .refused)

/-- CHUCK of a range, given the lines that it has handled and chucked already: its status, or what it has handled so far where it
must wait, with what it has done so far (R199, R200). Where both code 2 and code 3 hold, it gives code 2; CHUCK of no line gives code
0 and claims no region entry (DESIGN CHOICE, notes/assumptions/82.md). -/
def State.chuckRange (s : State) (ln n : Nat) (id : BitVec 6) (prio cls : Nat) (done : Nat × Nat) : (Word ⊕ Nat × Nat) × State :=
  let o := offCHUCK id.toNat
  if s.bit (o + 8) 63 && (decide (s.field (o + 8) 58 56 ≠ prio) || decide (s.field o 47 8 ≠ ln)) then
    (.inl (chuckStatus 2 0), s)
  else if !s.chuckable ln n then (.inl (chuckStatus 3 0), s)
  else if n = 0 then (.inl (chuckStatus 0 0), s)
  else
    let s := s.setReg o (BitVec.ofNat 64 (ln * 256))
    let s := s.setReg (o + 8) (BitVec.ofNat 64 (2 ^ 63 + prio * 2 ^ 56 + (n - 1) % 2 ^ 24 * 2 ^ 32))
    match s.chuckFrom id cls (n - done.1) (ln + done.1) done with
    | (.ends code, k, s) => (.inl (chuckStatus code k.2), s)
    | (.waits, k, s) => (.inr k, s)

/-- UNCHUCK of a region (R202). -/
def State.unchuckRegion (s : State) (id : BitVec 6) : State :=
  let lines := s.lines.map fun x => if x.2.chuck = some id then (x.1, { x.2 with chuck := none }) else x
  ({ s with lines := lines }.setReg (offCHUCK id.toNat) 0#64).setReg (offCHUCK id.toNat + 8) 0#64

/-- Whether any chuck region is valid (R182). -/
def State.anyChuck (s : State) : Bool := (List.range 64).any fun i => s.bit (offCHUCK i + 8) 63

end Sys2Proof.Machine
end

