-- ==== Sys2Proof/Machine/MemAccess.lean ====
section
/-!
DEFINITION. MemAccess.lean: the memory instructions of station code, majors 0x14 to 0x17 (R412 to R417, R428, R434 to
R439).
-/
namespace Sys2Proof.Machine

/-- Operands of a load or a store under V (R412, R414); base lists its reserved bits of IMM. -/
def memUse (load : Bool) (f : Fields) (rsv : Nat) : Use :=
  let k : RegKind := if immBit f 29 then .vector else .scalar
  if load then { dst := k, a := .scalar, b := .unused, c := none, rsv := rsv }
  else { dst := .unused, a := .scalar, b := k, c := none, rsv := rsv }

/-- The size that V gives (R412). -/
def memSize (f : Fields) : Nat := if immBit f 29 then 256 else 8

/-- The class tag (R412). -/
def memCls (f : Fields) : Nat := immBits f 33 31

/-- The address aA + OFFSET (R412). -/
def memAddr (x : Context) (f : Fields) : Nat := addrOf x f (signedOf 28 (immBits f 27 0))

/-- The bytes that a store takes from SRCB. -/
def storeBytes (x : Context) (f : Fields) : List Byte :=
  if immBit f 29 then (x.getV f.srcb.toNat).bytes else leBytes 8 (x.getA f.srcb.toNat).toNat

/-- The poison of a store's data by 64-byte quarter, the context's taint included (R384, R385). -/
def storeMarks (x : Context) (f : Fields) : List Bool :=
  if immBit f 29 then (List.range 4).map fun q => x.taint || (x.getV f.srcb.toNat).pois.getLsbD q
  else [x.taint || x.poisA f.srcb.toNat]

/-- A memory instruction issues only when every earlier SRX of its context is complete and the memory queue has an
entry (R426, R429, R438). -/
def State.memStall (s : State) (n : Nat) (c : Ctx) : Bool :=
  (s.core n).streamQ.any (StreamOp.isOf c true) ||
    decide ((s.reqs.filter fun r => decide (r.who = .ctx n .d) || decide (r.who = .ctx n .p)).length ≥ 32)

/-- The result of a load whose data is read in one step. -/
def State.loadResult (s : State) (u : Issue) (f : Fields) (bytes : List Byte) (po : Bool) : State :=
  if immBit f 29 then s.putAt u ((s.at u).setV f.dst.toNat (VReg.ofBytes bytes (quad po)))
  else s.putA u f.dst (BitVec.ofNat 64 (leNat bytes)) po

/-- Write store data quarter by quarter with its poison. -/
def State.writeQuarters (s : State) (key : Nat) (bytes : List Byte) : List Bool → State
  | [] => s
  | po :: rest => (s.writeSram key (bytes.take 64) po).writeQuarters (key + 64) (bytes.drop 64) rest

/-! Field access (R127 to R131, R149). -/

/-- How the field window answers an access of a length: the position, with BWR where a store meets a record. -/
def State.fieldGo (s : State) (pa len : Nat) (store : Bool) : Access × State :=
  match targetOf pa with
  | .field n off =>
    match s.fieldAccess n off, s.fieldAccess n (off + len - 1) with
    | .ok, .ok => if store && s.backedIn n off len then (.refused, s.bwr n) else (.ok, s)
    | .refused, _ => (.refused, s.accv n)
    | _, .refused => (.refused, s.accv n)
    | _, _ => (.waits, s)
  | _ => (.refused, s)

/-- LDF (R414). -/
def execLdf (u : Issue) (f : Fields) (s : State) : Host.Outcome State Fault Refusal :=
  .next <| s.issue u f (memUse true f (ones 30 30 ||| ones 28 28)) fun s =>
    let x := s.at u
    let pa := memAddr x f
    let s := s.taintIf u (x.poisA f.srca.toNat)
    if s.memStall u.core.val u.ctx then .stall
    else if pa % memSize f ≠ 0 then .fault s fALIGN
    else
      match s.fieldGo pa (memSize f) false with
      | (.refused, s) => .fault s fACCV
      | (.waits, _) => .stall
      | (.ok, s) =>
        match targetOf pa with
        | .field n off =>
          if s.restoreWaits n off (memSize f) then .stall else
          let r := s.fieldReadVia (s.upGroups n) n off (memSize f)
          .next (r.s.loadResult u f r.bytes (r.pois.any id || x.poisA f.srca.toNat))
        | _ => .fault s fACCV

/-- STF (R149, R414). -/
def execStf (u : Issue) (f : Fields) (s : State) : Host.Outcome State Fault Refusal :=
  .next <| s.issue u f (memUse false f (ones 30 30 ||| ones 28 28)) fun s =>
    let pa := memAddr (s.at u) f
    let s := s.taintIf u ((s.at u).poisA f.srca.toNat)
    let x := s.at u
    if s.memStall u.core.val u.ctx then .stall
    else if pa % memSize f ≠ 0 then .fault s fALIGN
    else
      match s.fieldGo pa (memSize f) true with
      | (.refused, s) => .fault s fACCV
      | (.waits, _) => .stall
      | (.ok, s) => .next (s.writeQuarters pa (storeBytes x f) (storeMarks x f))

/-! Cached access (R174, R178, R236, R415, R432 to R436, R751). -/

/-- An egress buffer that a store meets while sealed: only positions of the manifest's EGRESS list write it (R751). -/
def State.egressShut (s : State) (n pa len : Nat) : Bool :=
  s.isSealed && !(s.trust.egress.any fun e => decide (e.1.val = n)) &&
    s.trust.bufs.any fun b => decide (b.1 < pa + len) && decide (pa < b.1 + b.2)

/-- Whether station code may make a cached access to [pa, pa + len) (R131, R174, R177, R236, R751). -/
def State.cachedOk (s : State) (n pa len : Nat) (store red : Bool) : Bool :=
  inDram pa && decide (s.memAccess pa false ≠ .refused) && decide (s.memAccess (pa + len - 1) false ≠ .refused) &&
    !(store && s.egressShut n pa len) && (!red || (s.home pa).isSome)

/-- Record ACCV for a cached access that names the field window (R130, R131). -/
def State.accvAt (s : State) (pa : Nat) : State :=
  match targetOf pa with
  | .field n _ => s.accv n
  | _ => s

/-- Send a cached request (R432 to R436). -/
def State.pushReq (s : State) (who : Requester) (pc : Nat) (kind : ReqKind) (pa size cls : Nat) : State :=
  { s with reqs := s.reqs ++ [{ id := s.nextReq, who := who, kind := kind, pa := pa, size := size, cls := cls,
                                stage := .sent, pc := pc, arr := 0 }],
           nextReq := s.nextReq + 1 }

/-- LDC (R414). -/
def execLdc (u : Issue) (f : Fields) (s : State) : Host.Outcome State Fault Refusal :=
  .next <| s.issue u f (memUse true f (ones 28 28)) fun s =>
    let x := s.at u
    let n := u.core.val
    let pa := memAddr x f
    let po := x.poisA f.srca.toNat
    let s := s.taintIf u po
    let x := s.at u
    if s.memStall n u.ctx then .stall
    else if pa % memSize f ≠ 0 then .fault s fALIGN
    else if !s.cachedOk n pa (memSize f) false false then .fault (s.accvAt pa) fACCV
    else
      let d := f.dst.toNat
      let s := if immBit f 29 then s.putAt u { x with pendV := x.pendV ||| BitVec.twoPow 64 d }
        else if d = 0 then s else s.putAt u { x with pendA := x.pendA ||| BitVec.twoPow 32 d }
      .next (s.pushReq (.ctx n u.ctx) x.pc.toNat (.ld (if immBit f 29 then .vreg d else .areg d) (immBit f 30) po) pa (memSize f)
        (memCls f))

/-- STC (R414). -/
def execStc (u : Issue) (f : Fields) (s : State) : Host.Outcome State Fault Refusal :=
  .next <| s.issue u f (memUse false f (ones 30 30 ||| ones 28 28)) fun s =>
    let n := u.core.val
    let pa := memAddr (s.at u) f
    let s := s.taintIf u ((s.at u).poisA f.srca.toNat)
    let x := s.at u
    if s.memStall n u.ctx then .stall
    else if pa % memSize f ≠ 0 then .fault s fALIGN
    else if !s.cachedOk n pa (memSize f) true false then .fault (s.accvAt pa) fACCV
    else
      let marks := storeMarks x f
      let po : BitVec 4 := if immBit f 29 then pois4 marks else quad (marks.any id)
      .next (s.pushReq (.ctx n u.ctx) x.pc.toNat (.st (storeBytes x f) po) pa (memSize f) (memCls f))

/-- RED (R205, R415). -/
def execRed (u : Issue) (f : Fields) (s : State) : Host.Outcome State Fault Refusal :=
  .next <| s.issue u f { dst := .unused, a := .scalar, b := .vector, c := none, rsv := 0 } fun s =>
    let n := u.core.val
    let size := 4 * 2 ^ immBits f 30 29
    let ty := immBits f 28 27
    let op := immBits f 26 25
    let pa := addrOf (s.at u) f (signedOf 25 (immBits f 24 0))
    if immBits f 30 29 = 3 ∨ ty = 3 ∨ op = 3 then .fault s fILL
    else
      let s := s.taintIf u ((s.at u).poisA f.srca.toNat)
      let x := s.at u
      if s.memStall n u.ctx then .stall
      else if pa % size ≠ 0 then .fault s fALIGN
      else if !s.cachedOk n pa size true true then .fault (s.accvAt pa) fACCV
      else
        let v := x.getV f.srcb.toNat
        let r : RedOp := { off := pa % 256, data := v.bytes.take size, ty := ty, op := op,
                           pois := x.taint || v.pois.getLsbD 0, sat := false, cls := memCls f, core := n }
        .next (s.pushReq (.ctx n u.ctx) x.pc.toNat (.red r) pa size (memCls f))

/-- CHUCK: aD is the status (R199, R200, R414). A base that is not line-aligned names its line. -/
def execChuck (u : Issue) (f : Fields) (s : State) : Host.Outcome State Fault Refusal :=
  .next <| s.issue u f { dst := .scalar, a := .scalar, b := .scalar, c := none, rsv := ones 21 0 } fun s =>
    let x := s.at u
    let po := x.poisA f.srca.toNat || x.poisA f.srcb.toNat
    let s := s.taintIf u po
    if s.memStall u.core.val u.ctx then .stall
    else
      match s.chuckRange (lineOf (x.getA f.srca.toNat).toNat) (x.getA f.srcb.toNat).toNat
          (BitVec.ofNat 6 (immBits f 33 28)) (immBits f 27 25) (immBits f 24 22) (x.chuck.getD (0, 0)) with
      | (.inr k, s) => .hold (s.putAt u { s.at u with chuck := some k })
      | (.inl v, s) => .next ((s.putAt u { s.at u with chuck := none }).putA u f.dst v po)

/-- UNCHUCK (R202, R414). -/
def execUnchuck (u : Issue) (f : Fields) (s : State) : Host.Outcome State Fault Refusal :=
  .next <| s.issue u f { noUse with rsv := ones 27 0 } fun s =>
    if s.memStall u.core.val u.ctx then .stall else .next (s.unchuckRegion (BitVec.ofNat 6 (immBits f 33 28)))

/-- CWB: OP of R227 on every line of the range, on every stack; chucked lines stay (R201, R414). -/
def execCwb (u : Issue) (f : Fields) (s : State) : Host.Outcome State Fault Refusal :=
  .next <| s.issue u f { dst := .unused, a := .scalar, b := .scalar, c := none, rsv := ones 33 2 } fun s =>
    let x := s.at u
    let s := s.taintIf u (x.poisA f.srca.toNat || x.poisA f.srcb.toNat)
    let lo := lineOf (x.getA f.srca.toNat).toNat
    let hi := lo + (x.getA f.srcb.toNat).toNat
    if s.memStall u.core.val u.ctx || s.lineBusy lo hi || !s.flushGo lo hi (immBits f 1 0) (fun _ => true) then .stall
    else .next (s.flushRange lo hi (immBits f 1 0) none fun _ => true)

/-! Core store access (R413, R414, R428). -/

/-- LDS (R414). -/
def execLds (u : Issue) (f : Fields) (s : State) : Host.Outcome State Fault Refusal :=
  .next <| s.issue u f (memUse true f (ones 30 30 ||| ones 28 20)) fun s =>
    let x := s.at u
    let po := x.poisA f.srca.toNat
    let a := addrOf x f (immBits f 19 0)
    let s := s.taintIf u po
    if s.memStall u.core.val u.ctx then .stall
    else if a % memSize f ≠ 0 then .fault s fALIGN
    else if a > 0xFFFFF then .fault s fCSTORE
    else
      let r := s.storeRead u.core.val a (memSize f)
      .next (r.s.loadResult u f r.bytes (r.pois.any id || po))

/-- STS (R414). -/
def execSts (u : Issue) (f : Fields) (s : State) : Host.Outcome State Fault Refusal :=
  .next <| s.issue u f (memUse false f (ones 30 30 ||| ones 28 20)) fun s =>
    let a := addrOf (s.at u) f (immBits f 19 0)
    let s := s.taintIf u ((s.at u).poisA f.srca.toNat)
    let x := s.at u
    if s.memStall u.core.val u.ctx then .stall
    else if a % memSize f ≠ 0 then .fault s fALIGN
    else if a > 0xFFFFF then .fault s fCSTORE
    else .next (s.writeQuarters (coreKey u.core.val a) (storeBytes x f) (storeMarks x f))

/-! Host store (R289, R416, R417, R751). -/

/-- Whether an entry range lies in an output ring that the manifest names for position n (R751). -/
def State.inEgressRing (s : State) (n a len : Nat) : Bool :=
  s.trust.egress.any fun e => decide (e.1.val = n) &&
    (let r : RingId := .out e.2
     let base := s.field (ringOff r) 63 12 * 4096
     s.ringEn r && decide (base ≤ a) && decide (a + len ≤ base + 64 * s.ringSize r))

/-- Whether HST of position n may write [a, a + len) (R289, R416, R751). -/
def State.hstOk (s : State) (n a len : Nat) : Bool :=
  (s.program n).any (fun p => p.egress.any fun e => decide (e.1 ≤ a) && decide (a + len ≤ e.1 + e.2)) &&
    (!s.isSealed || s.inEgressRing n a len)

/-- Poison at egress for the current wave of a context: every lane of the wave (R417, R649). -/
def State.egressPoison (s : State) (n : Nat) (c : Ctx) : State :=
  let num := fieldOf (s.ctx n c).waveWord 47 0
  { s with waves := s.waves.map fun w => if w.num.toNat = num then { w with poisoned := w.poisoned ||| w.mask } else w }

/-- HST: 256 bytes or a 64-byte quarter of vB to host memory; it waits while no port is up (R416, R417, R539). -/
def execHst (u : Issue) (f : Fields) (s : State) : Host.Outcome State Fault Refusal :=
  .next <| s.issue u f { dst := .unused, a := .scalar, b := .vector, c := none,
                         rsv := ones 30 30 ||| ones 26 25 ||| (if immBit f 29 then ones 28 27 else 0) } fun s =>
    let n := u.core.val
    let a := addrOf (s.at u) f (immBits f 24 0)
    let s := s.taintIf u ((s.at u).poisA f.srca.toNat)
    let x := s.at u
    let whole := immBit f 29
    let q := immBits f 28 27
    let len := if whole then 256 else 64
    let v := x.getV f.srcb.toNat
    let po := x.taint || (if whole then decide (v.pois ≠ 0#4) else v.pois.getLsbD q)
    if s.memStall n u.ctx then .stall
    else if a % len ≠ 0 then .fault s fALIGN
    else if !s.hstOk n a len then .fault s fHOST
    else if po then .next (s.egressPoison n u.ctx)
    else if !(s.portUp .a || s.portUp .b) then .stall
    else .next { s with host := memWrite s.host a (if whole then v.bytes else (v.bytes.drop (64 * q)).take 64) }

end Sys2Proof.Machine
end

