-- ==== Sys2Proof/Machine/Engine.lean ====
section
/-!
DEFINITION. Engine.lean: the bit-serial engines (R44 to R93), their instructions (R407 to R411), EDR conversion (R102
to R104, R807) and the events of their planes and tiles.
-/
namespace Sys2Proof.Machine

/-- Planes of a weight format (R47). -/
def planesOf (w : BitVec 3) : Nat :=
  match w.toNat with
  | 0 => 2
  | 1 => 4
  | _ => 8

/-- Beats of a tile image (R59, R60). -/
def beatsOf (w : BitVec 3) : Nat := if w = 3#3 then 4 else planesOf w

/-- Bytes of the scale beats (R57). -/
def scaleLen (t : Nat) : Nat := (t + 7) / 8 * 512

/-- Bytes of the table beats (R57). -/
def tableLen (w : BitVec 3) (t : Nat) : Nat := if w = 3#3 then (t + 31) / 32 * 512 else 0

/-- Bytes of a tile run (R57 to R60). -/
def runLen (w : BitVec 3) (t : Nat) : Nat := scaleLen t + tableLen w t + t * beatsOf w * 512

/-- Scale beats of a run, and with the table beats all that its scale phase reads (R57, R63). -/
def preBeats (w : BitVec 3) (t : Nat) : Nat := (scaleLen t + tableLen w t) / 512

/-- The configuration that operations of a queue leave (R84, R409). -/
def cfgFrom (cfg : EngCfg) (q : List EngOp) : EngCfg := q.foldl (fun c o => match o with | .ecf _ c' => c' | _ => c) cfg

/-- The configuration at which an operation issued now executes; back-fill work comes after what waits for a gap. -/
def Engine.cfgAfter (g : Engine) (back : Bool) : EngCfg :=
  let c := cfgFrom g.cfg g.queue
  if back then cfgFrom c g.backQ else c

/-- Bytes of an ELD source image for n rows (R408). -/
def imageLen (afmt : BitVec 2) (n : Nat) : Nat :=
  match afmt.toNat with
  | 1 => 32 + 8 * n
  | 2 => 16 * n
  | _ => 8 * n

/-! ELD (R49 to R56). -/

/-- A byte of an image. -/
def imgByte (img : Array Byte) (i : Nat) : Nat := (img.getD i 0#8).toNat

/-- The shared exponent of block q of lane s (R52). -/
def e8Exp (img : Array Byte) (s q : Nat) : Nat := imgByte img (4 * s + q)

/-- The largest shared exponent among the blocks that contain loaded rows (R53). -/
def eMax (img : Array Byte) (n s : Nat) : Nat :=
  ((List.range ((n + 31) / 32)).map (e8Exp img s)).foldl Nat.max 0

/-- A significand aligned to the lane exponent (R53, R54). -/
def e8Align (biasc : Bool) (sig d : Nat) : Nat :=
  let v := signedOf 8 sig + (if biasc && decide (1 ≤ d) then (2 : Int) ^ (d - 1) else 0)
  (BitVec.ofInt 8 (v / 2 ^ d)).toNat

/-- The byte that an ELD stores in row r, lane s (R52 to R55). -/
def eldCell (cfg : EngCfg) (hi : Bool) (img : Array Byte) (n r s : Nat) : Byte :=
  if n ≤ r then 0#8
  else
    match cfg.afmt.toNat with
    | 1 => BitVec.ofNat 8 (e8Align cfg.biasc (imgByte img (32 + 8 * r + s)) (eMax img n s - e8Exp img s (r / 32)))
    | 2 => BitVec.ofNat 8 (imgByte img (16 * r + 2 * s + flag hi))
    | _ => BitVec.ofNat 8 (imgByte img (8 * r + s))

/-- Where the bytes of row r end in an image (R52). -/
def rowEnd (afmt : BitVec 2) (r : Nat) : Nat := imageLen afmt (r + 1)

/-- The sequence lanes that byte i of an image carries (R52, R56). -/
def byteLane (afmt : BitVec 2) (i : Nat) : Nat :=
  match afmt.toNat with
  | 1 => if i < 32 then i / 4 else i % 8
  | 2 => i / 2 % 8
  | _ => i % 8

/-- The rows whose bytes have arrived are written; rows from n upward are zero (R49 to R55). The lane exponents of E8
come with row 0 (R53). -/
def Engine.writeRows (g : Engine) (n : Nat) (hi : Bool) (img : List Byte) : Engine :=
  let a := img.toArray
  { g with act := Vector.ofFn fun i : Fin 1024 =>
             if n ≤ i.val / 8 ∨ rowEnd g.cfg.afmt (i.val / 8) ≤ a.size then eldCell g.cfg hi a n (i.val / 8) (i.val % 8)
             else g.act[i],
           actBad := g.actBad.filter fun c => decide (c / 8 < n) && decide (a.size < rowEnd g.cfg.afmt (c / 8)),
           hi := hi && decide (g.cfg.afmt = 2#2),
           emax := Vector.ofFn fun s : Fin 8 =>
             if g.cfg.afmt = 1#2 then BitVec.ofNat 8 (eMax a n s.val) else 127#8 }

/-- An ELD with its whole image: cells, lane exponents, HI and lane poison (R49 to R56). -/
def Engine.load (g : Engine) (n : Nat) (hi : Bool) (img : List Byte) (lanes : BitVec 8) : Engine :=
  { g.writeRows n hi img with poisL := lanes }

/-! Hold bank and EDR (R72 to R75, R103, R104, R807). -/

/-- The hold bank cleared (R72, R74). -/
def emptyBank : Vector ColVal 256 := Vector.replicate 256 { c := 0#32, m := 0x1FF#9 }

/-- The hold bank as four vector registers (R74, R75, R103): results and flags. -/
def Engine.drain (g : Engine) (md : FpMode) (scale : VReg) : (Nat → VReg) × FpFlags :=
  let conv : Nat → Nat × FpFlags := fun col =>
    let v := g.bank.toList.getD col { c := 0#32, m := 0x1FF#9 }
    let s := col / 32
    engConvert md v.c.toInt v.m.toNat (g.bankLam.toList.getD s 127#8).toNat (scale.lane (col % 32)).toNat
      (scale.lane (32 + s)).toNat
  let po : Nat → BitVec 4 := fun j =>
    maskBy 4 fun q => decide (scale.pois ≠ 0#4) || g.bankPois.getLsbD (2 * j + q / 2)
  (fun j => VReg.ofFn (fun i => BitVec.ofNat 32 (conv (64 * j + i)).1) (po j),
    allFlags ((List.range 256).map fun col => (conv col).2))

/-- The hold bank handed over and cleared (R74). -/
def Engine.clearBank (g : Engine) : Engine := { g with bank := emptyBank, bankPois := 0#8 }

/-! The V-port (R59 to R66, R81, R82, R686). -/

/-- Planes that the slowest row group of a run has entered. -/
def Run.slowest (r : Run) : Nat := r.entered.toList.foldl Nat.min (r.t * r.planes)
/-- Planes that the fastest row group has entered. -/
def Run.fastest (r : Run) : Nat := r.entered.toList.foldl Nat.max 0

/-- Planes between the fastest and the slowest row group (R93). -/
def Engine.skew (e : Engine) : Nat := e.runs.head?.elim 0 fun r => r.fastest - r.slowest

/-- Whether a run's scale phase is complete (R63). -/
def Run.ready (r : Run) : Bool := decide (512 * preBeats r.wfmt r.t ≤ r.pre.length)

/-- The planes that one fetch of a row group brings: for T4 the indices of a tile (R66). -/
def Run.fetchStep (r : Run) : Nat := if r.wfmt = 3#3 then 8 else 1

/-- Where row group g finds its bytes of tile t, plane p: field offset and length (R59 to R61). For T4 these are the
indices of its rows by R60, bytes 64 (g mod 8) to 64 (g mod 8) + 63 of beat g / 8, although R61's bit positions put those
bytes on bond groups 4 (g mod 8) to 4 (g mod 8) + 3; a failing index byte belongs to row group g, and so by R158's words to
bond group g (DEDUCED, notes/assumptions/79.md). -/
def Run.where_ (r : Run) (g t p : Nat) : Nat × Nat :=
  if r.wfmt = 3#3 then (r.imgs + t * 2048 + 512 * (g / 8) + 64 * (g % 8), 64)
  else (r.imgs + (t * r.planes + p) * 512 + 16 * g, 16)

/-- An armed flip of the next V-port beat (R686, kind 7): mask and PAR. -/
def State.vportFlip (s : State) (n e : Nat) : Option (Word × Bool) :=
  if s.bit (offERR + 0x20) 0 && decide (s.field (offERR + 0x10) 63 60 = 7) &&
      decide (s.field (offERR + 0x10) 59 50 = n) && decide (s.field (offERR + 0x10) 0 0 = e) then
    some (s.reg (offERR + 0x18), s.bit (offERR + 0x20) 1)
  else none

/-- Whether a byte of mask flips an odd number of bits. -/
def oddByte (m : Word) (i : Nat) : Bool := decide (onesIn 8 (m.toNat >>> (8 * i)) % 2 = 1)

/-- Field bytes as the V-port of engine e delivers them, and the places of those that fail parity; an armed flip alters
the first 8 bytes of the next beat (R61, R81, R686). -/
def State.vportRead (s : State) (n e addr len : Nat) : (List Byte × List Nat) × State :=
  let key := fieldKey n addr
  let bytes := s.mem.read key len
  let bad := s.mem.badBytes key len
  match (if addr % 512 = 0 then s.vportFlip n e else none) with
  | none => ((bytes, bad), s)
  | some (mask, par) =>
    let hit := (List.range 8).filter fun i => if par then mask.getLsbD i else oddByte mask i
    let both := (List.range len).filter fun i => bad.contains i != hit.contains i
    let bytes := if par then bytes else
      bytes.zipIdx.map fun (b, i) => if i < 8 then b ^^^ BitVec.ofNat 8 (mask.toNat >>> (8 * i)) else b
    ((bytes, both), s.flipDone (posUnit 2 n e) addr)

/-- The V-port groups that carry row group g's bits: the top-mid group and, from the base half, the pass-through group of
the position's V-port (R158). -/
def vportGroups (phys cl e g : Nat) (base : Bool) : List Nat :=
  (Bond.vport false cl phys e g).index :: (if base then [(Bond.vport true cl phys e g).index] else [])

/-- The V-port groups that carried the bytes of a row group, or of a scale or table beat, that fail parity: byte i of a beat
comes over group i / 16 (R61, R158). -/
def State.vportOf (s : State) (n e addr : Nat) (gs : List Nat) : List Nat :=
  gs.flatMap fun g => vportGroups (s.physOf n) (n / 13) e g (decide (0x1400000 ≤ addr))

/-- Row group g fetches the next plane of a run into its feeder. -/
def State.fetchPlane (s : State) (n e : Nat) (r : Run) (g m : Nat) : PlaneBuf × State :=
  let a := r.where_ g (m / r.planes) (m % r.planes)
  let d := s.vportRead n e a.1 a.2
  ({ m := m, addr := a.1, bytes := d.1.1, bad := d.1.2, asRead := false }, d.2)

/-- Planes that a feeder may hold: 16, for T4 the indices of two tiles (R66, R76). -/
def feederRoom (r : Run) : Nat := 16 / r.fetchStep

/-- Fill the feeder of row group g: the first run with planes left to fetch, once its scale phase is complete; a run behind
it only when the first is fetched whole (R64, R66, R76, R84). -/
def fillGroup (n e : Nat) (g : Fin 32) : Nat → Engine × State → Engine × State
  | 0, x => x
  | k + 1, (eng, s) =>
    let wants (r : Run) : Bool := decide (r.fetched[g] < r.t * r.planes)
    match eng.runs.find? wants with
    | none => (eng, s)
    | some r =>
      let f := eng.feeders[g]
      if !r.ready || decide (feederRoom r ≤ f.buf.length) then (eng, s)
      else
        let b := s.fetchPlane n e r g.val r.fetched[g]
        let up (r : Run) : Run := { r with fetched := r.fetched.set g (r.fetched[g] + r.fetchStep) }
        fillGroup n e g k ({ eng with feeders := eng.feeders.set g { f with buf := f.buf ++ [b.1] },
                                      runs := updateFirst wants up eng.runs }, b.2)

/-- Fill every feeder of an engine. -/
def State.fillFeeders (s : State) (n e : Nat) : State :=
  let eng := (s.core n).eng e
  if eng.runs.all fun r => r.fetched.toList.all fun m => decide (r.t * r.planes ≤ m) then s
  else
    let x := (List.finRange 32).foldl (fun x g => fillGroup n e g 16 x) (eng, s)
    x.2.setCore n ((x.2.core n).setEng e x.1)

/-- The scale phase of a run goes on: a beat that fails parity is read again; one that fails twice awaits its restoration in
a backed range, and elsewhere is taken as read, its tiles poisoned (R63, R81, R82, R158). -/
def State.scalePhase (s : State) (n e : Nat) (r : Run) : Nat → Run × State
  | 0 => (r, s)
  | k + 1 =>
    if r.ready || r.wait then (r, s)
    else
      let i := r.pre.length / 512
      let a := r.addr + 512 * i
      let d := s.vportRead n e a 512
      let s := d.2
      if d.1.2.isEmpty then s.scalePhase n e { r with pre := r.pre ++ d.1.1 } k
      else
        let s := ((s.setBit (offENG n e + 8) 17).failsAgain n a).carried (s.vportOf n e a (d.1.2.map (· / 16)).eraseDups) (a / 512)
        let bad := s.mem.badBytes (fieldKey n a) 512
        let bytes := s.mem.read (fieldKey n a) 512
        if bad.isEmpty then (s.errRec 5 1 (posUnit 2 n e) a).scalePhase n e { r with pre := r.pre ++ bytes } k
        else
          let s := s.suspect (s.vportOf n e a (bad.map (· / 16)).eraseDups)
          if (s.backAt n a).isSome then ({ r with wait := true }, s)
          else (s.errRec 5 3 (posUnit 2 n e) a).scalePhase n e { r with pre := r.pre ++ bytes, bad := r.bad ++ [i] } k

/-- The scale phases of an engine's runs go on (R63, R64, R84). -/
def State.scaleRuns (s : State) (n e : Nat) : State :=
  if ((s.core n).eng e).runs.all Run.ready then s
  else
    let x := ((s.core n).eng e).runs.foldl (fun (x : List Run × State) r =>
      let y := x.2.scalePhase n e r (preBeats r.wfmt r.t); (x.1 ++ [y.1], y.2)) ([], s)
    x.2.setCore n ((x.2.core n).setEng e { (x.2.core n).eng e with runs := x.1 })

/-! The engine queue (R48, R63, R64, R84). -/

/-- HOLD tiles that are still to be combined: those of the runs, and the open ones of runs that have entered whole. -/
def Engine.holdLeft (g : Engine) : Nat :=
  (g.runs.filter (·.hold)).length + (g.tiles.filter (·.hold)).length -
    (g.runs.head?.elim 0 fun r => flag (r.hold && decide (0 < r.fastest)))

/-- Whether an operation at the front of the queue starts (R48, R84): ELD when no EWS streams, EWS behind at most one other,
EDR when none is in progress, ECF when nothing is. -/
def Engine.mayBegin (g : Engine) : EngOp → Bool
  | .eld .. => g.eld.isNone && g.runs.isEmpty
  | .eldStream .. => g.eld.isNone && g.runs.isEmpty
  | .ews .. => decide (g.runs.length < 2)
  | .edr .. => g.edr.isNone
  | .ecf .. => g.eld.isNone && g.runs.isEmpty && g.tiles.isEmpty && g.edr.isNone

/-- An operation starts. FRESH takes effect in program order: at once when no earlier HOLD tile or EDR is under way, and
otherwise when the run's own tile is combined (R72, R84; DEDUCED, notes/assumptions/79.md). -/
def Engine.begin (g : Engine) : EngOp → Engine
  | .eld _ _ rows hi img lanes => g.load rows hi img lanes
  | .eldStream c back rows hi st last =>
    { g with eld := some { c := c, back := back, n := rows, hi := hi, stream := st, last := last, img := [] }, poisL := 0#8 }
  | .ews c back fresh t addr =>
    let fresh := g.cfg.hold && fresh
    let g := if fresh && decide (g.holdLeft = 0) && g.edr.isNone then g.clearBank else g
    let r : Run :=
      { c := c, back := back, fresh := fresh, t := t, planes := planesOf g.cfg.wfmt, wfmt := g.cfg.wfmt, hold := g.cfg.hold,
        addr := addr, imgs := addr + scaleLen t + tableLen g.cfg.wfmt t, pre := [], bad := [], wait := false,
        fetched := Vector.replicate 32 0, entered := Vector.replicate 32 0 }
    { g with runs := g.runs ++ [r] }
  | .edr c vd scale => { g with edr := some { c := c, vd := vd, scale := scale, before := g.holdLeft } }
  | .ecf _ cfg => { g with cfg := cfg }

/-- An ELD from a stream takes the flits that are there: its rows are written as they arrive, a poisoned flit marks the lanes
that it carries, all eight, and with its last flit the ELD is complete (R49, R56, R408). -/
def State.eldGo (s : State) (n e : Nat) : State :=
  let g := (s.core n).eng e
  match g.eld with
  | none => s
  | some x =>
    let len := imageLen g.cfg.afmt x.n
    let k := s.takeable x.stream ((len - x.img.length + 63) / 64)
    if k = 0 then s
    else
      let r := s.receive x.stream k x.last
      let img := x.img ++ r.1.flatMap Flit.bytes
      let po : BitVec 8 := if r.1.any (·.pois) then 255#8 else 0#8
      let g := (r.2.core n).eng e
      let g := { g.writeRows x.n x.hi (img.take len) with
                 poisL := g.poisL ||| po, eld := if len ≤ img.length then none else some { x with img := img } }
      r.2.setCore n ((r.2.core n).setEng e g)

/-- An EDR hands over the hold bank once the earlier HOLD tiles are combined (R74, R75, R84, R103). -/
def State.edrGo (s : State) (n e : Nat) : State :=
  let g := (s.core n).eng e
  match g.edr with
  | none => s
  | some x =>
    if 0 < x.before then s
    else
      let d := g.drain { rnd := .near, sat := s.bit (offVMODE n) 5 } x.scale
      let s := s.setCore n ((s.core n).setEng e { g.clearBank with edr := none })
      let s := (List.range 4).foldl (fun s j => s.deliverV n x.c (x.vd + j) (d.1 j)) s
      s.raiseFlags n d.2

/-- The operations of back-fill work that R308 does not hold, EDR and ECF, follow into the queue in program order. -/
def Engine.passBack (g : Engine) : Engine :=
  match g.backQ with
  | .edr c vd sc :: rest =>
    if g.queue.length < 8 then { g with queue := g.queue ++ [.edr c vd sc], backQ := rest } else g
  | .ecf c cfg :: rest => if g.queue.length < 8 then { g with queue := g.queue ++ [.ecf c cfg], backQ := rest } else g
  | _ => g

/-- Whether back-fill work that has issued is still to enter its last row or plane (R310). -/
def Engine.backBusy (g : Engine) : Bool :=
  g.runs.any (·.back) || g.eld.any (·.back) || g.queue.any fun o => match o with
    | .eld _ b _ _ _ _ => b
    | .eldStream _ b _ _ _ _ => b
    | .ews _ b _ _ _ => b
    | _ => false

/-- Decode work that waited behind back-fill goes on: its A-cycles add to GLB_WAVE_BFD (R310, R325). -/
def State.backDelay (s : State) (n e : Nat) : State :=
  let g := (s.core n).eng e
  match g.bfSince with
  | none => s
  | some t =>
    if g.backBusy then s
    else
      let s := s.setCore n ((s.core n).setEng e { g with bfSince := none })
      let v := s.field 0x118 47 0 + (s.time - t)
      let s := s.setField 0x118 47 0 v
      if 2 ^ 48 ≤ v then s.setBit 0x118 63 else s

/-- What is in progress in an engine goes as far as it can: restored beats, the ELD, scale phases, prefill and the EDR. -/
def State.engWork (s : State) (n e : Nat) : State :=
  (((((s.freeFeeders n e).eldGo n e).scaleRuns n e).fillFeeders n e).edrGo n e).backDelay n e

/-- Run an engine as far as it goes: what is in progress, and then each operation of its queue that may start (R84). -/
def State.engLoop (s : State) (n e : Nat) : Nat → State
  | 0 => s
  | k + 1 =>
    let s := s.engWork n e
    let g := ((s.core n).eng e).passBack
    match g.queue with
    | [] => s.setCore n ((s.core n).setEng e g)
    | op :: rest =>
      if g.mayBegin op then
        let g := { g with queue := rest }
        (s.setCore n ((s.core n).setEng e (g.begin op))).engLoop n e k
      else s.setCore n ((s.core n).setEng e g)

/-- Run an engine queue as far as it goes; nothing moves while the core's clock is skipped (R85). -/
def State.engRun (s : State) (n e : Nat) : State := if s.coreLive n then s.engLoop n e 17 else s

/-- After an event of core n: its engines go on, then what waits for them. -/
def State.engAfter (s : State) (n e : Nat) : State := (s.engRun n e).settle n

/-! Issue (R382, R407 to R411, R429). -/

/-- Whether a wave of context P on this core runs as back-fill now (R306, R308). -/
def State.asBackfill (s : State) (n : Nat) (c : Ctx) : Bool :=
  match c with
  | .d => false
  | .p =>
    s.seqs.any (fun q => decide (q.2.phase = .decode)) &&
      s.waves.any fun w => decide (w.num.toNat = fieldOf (s.ctx n .p).waveWord 47 0) && w.prefill && !w.inserted

/-- Whether an operation of a context waits apart from the queue: back-fill, and what follows it in program order (R308). -/
def State.apart (s : State) (n : Nat) (c : Ctx) (e : Nat) : Bool :=
  s.asBackfill n c || (decide (c = .p) && !((s.core n).eng e).backQ.isEmpty)

/-- Put an operation in an engine queue; context D's ends an open gap, and from then on decode work waits for back-fill that
is still under way (R310, R394, R429). Back-fill work of context P waits for its gap apart (R308). -/
def State.engPush (s : State) (u : Issue) (e : Nat) (apart : Bool) (op : EngOp) : Eff :=
  let n := u.core.val
  let g := (s.core n).eng e
  if (if apart then g.backQ else g.queue).length ≥ 8 then .stall
  else
    let waits : Bool := decide (u.ctx = .d) && g.backBusy && (match op with | .edr .. => false | _ => true)
    let g := if apart then { g with backQ := g.backQ ++ [op] }
      else { g with queue := g.queue ++ [op], bfSince := if waits && g.bfSince.isNone then some s.time else g.bfSince }
    let s := s.setCore n ((s.core n).setEng e g)
    let s := if u.ctx = .d then s.endGap n else s
    .next (s.engRun n e)

/-- The stream end that handle i of a context is bound to; none for an unbound handle (R419). -/
def State.handle (s : State) (u : Issue) (i : Nat) : Option (StreamEnd × Bool) :=
  match (s.at u).h.toList.getD i none with
  | none => none
  | some hd => (s.streamOf u.core.val hd.entry.toNat).map fun e => (e, hd.last)

/-- The engine that IMM[33] selects. -/
def engOf (f : Fields) : Nat := flag (immBit f 33)

/-- The lanes that poison marks and parity failures of a source image in the core store reach (R56). -/
def State.imageLanes (s : State) (n a len : Nat) (afmt : BitVec 2) : BitVec 8 :=
  let key := coreKey n a
  let marks := (flitsOf key len).any fun f => decide (s.mem.flitState f = .poison)
  let bad := s.mem.badBytes key len
  if marks then 255#8 else maskBy 8 fun l => bad.any fun i => decide (byteLane afmt i = l)

/-- ELD (R49, R407 to R409, R428). -/
def execEld (u : Issue) (f : Fields) (s : State) : Host.Outcome State Fault Refusal :=
  .next <| s.issue u f { noUse with a := if immBit f 32 then .unused else .scalar,
                                    rsv := if immBit f 32 then ones 19 0 else ones 23 20 } fun s =>
    let n := u.core.val
    let rows := immBits f 31 25 + 1
    let hi := immBit f 24
    let back := s.apart n u.ctx (engOf f)
    let g := (s.core n).eng (engOf f)
    let fmt := (g.cfgAfter back).afmt
    let len := imageLen fmt rows
    if immBit f 32 then
      match s.handle u (immBits f 23 20) with
      | some (e, last) =>
        if e.sending then .fault s fHANDLE
        else s.engPush u (engOf f) back (.eldStream u.ctx back rows hi e.idx last)
      | none => .fault s fHANDLE
    else
      let x := s.at u
      let a := addrOf x f (immBits f 19 0)
      let s := s.taintIf u (x.poisA f.srca.toNat)
      if a % 64 ≠ 0 then .fault s fALIGN
      else if a + len > 0x100000 then .fault s fCSTORE
      else if (if back then g.backQ else g.queue).length ≥ 8 then .stall
      else
        let lanes := s.imageLanes n a len fmt
        let r := s.storeRead n a len
        r.s.engPush u (engOf f) back (.eld u.ctx back rows hi r.bytes lanes)

/-- EWS (R62, R407, R409). -/
def execEws (u : Issue) (f : Fields) (s : State) : Host.Outcome State Fault Refusal :=
  .next <| s.issue u f { noUse with a := .scalar, rsv := ones 24 16 } fun s =>
    let n := u.core.val
    let x := s.at u
    let t := immBits f 31 25 + 1
    let base := (x.getA f.srca.toNat).toNat
    let addr := base + immBits f 15 0 * 512
    let back := s.apart n u.ctx (engOf f)
    let cfg := ((s.core n).eng (engOf f)).cfgAfter back
    let s := s.taintIf u (x.poisA f.srca.toNat)
    if base % 512 ≠ 0 then .fault s fALIGN
    else if cfg.hold && decide (t ≠ 1) then .fault s fEWS
    else if addr + runLen cfg.wfmt t > s.fieldLen n then .fault s fEWS
    else s.engPush u (engOf f) back (.ews u.ctx back (immBit f 32) t addr)

/-- EDR (R74, R75, R103, R409, R410). -/
def execEdr (u : Issue) (f : Fields) (s : State) : Host.Outcome State Fault Refusal :=
  .next <| s.issue u f { dst := .vector, a := .unused, b := .vector, c := none, rsv := ones 32 0 } fun s =>
    let x := s.at u
    let vd := f.dst.toNat
    let regs := (List.range 4).map (vd + ·)
    if vd > 60 then .fault s fREG
    else if regs.any (x.awaits .vector) then .stall
    else
      let apart := !((s.core u.core.val).eng (engOf f)).backQ.isEmpty && decide (u.ctx = .p)
      let mask : BitVec 64 := 15#64 <<< vd
      let s := s.putAt u { x with pendV := x.pendV ||| mask }
      s.engPush u (engOf f) apart (.edr u.ctx vd (x.getV f.srcb.toNat))

/-- ECF (R48, R409). -/
def execEcf (u : Issue) (f : Fields) (s : State) : Host.Outcome State Fault Refusal :=
  .next <| s.issue u f { noUse with rsv := ones 25 0 } fun s =>
    let w := immBits f 32 30
    let a := immBits f 29 28
    if w ≥ 4 ∨ a = 3 then .fault s fILL
    else s.engPush u (engOf f) (!((s.core u.core.val).eng (engOf f)).backQ.isEmpty && decide (u.ctx = .p)) (.ecf u.ctx
      { wfmt := BitVec.ofNat 3 w, afmt := BitVec.ofNat 2 a, hold := immBit f 27, biasc := immBit f 26 })

/-! Planes (R66, R67, R76 to R83). -/

/-- Tiles that column group cg still holds open (R78). -/
def Engine.openIn (g : Engine) (cg : Nat) : Nat := (g.tiles.filter fun t => !t.retired.getLsbD cg).length

/-- The most open tiles in any column group (R78, R91). -/
def Engine.maxOpen (g : Engine) : Nat := ((List.range 8).map g.openIn).foldl Nat.max 0

/-- The tables that a T4 run's scale phase read (R57, R60). -/
def Run.tables (r : Run) : List Byte := r.pre.drop (scaleLen r.t)

/-- Whether a tile is formed from a scale or table beat that was taken as read (R82). -/
def Run.tileBad (r : Run) (t : Nat) : Bool :=
  r.bad.contains (t / 8) || (decide (r.wfmt = 3#3) && r.bad.contains ((r.t + 7) / 8 + t / 32))

/-- Bit p of the weight of row 4 g + i, output lane o, from the row group's bytes (R59, R60). -/
def Run.weightBit (r : Run) (bytes : Array Byte) (t p i o : Nat) : Bool :=
  if r.wfmt = 3#3 then
    let m := 32 * i + o
    let idx := (imgByte bytes (m / 2) >>> (4 * (m % 2))) % 16
    (r.tables.getD (16 * t + idx) 0#8).getLsbD p
  else
    let m := 32 * i + o
    (bytes.getD (m / 8) 0#8).getLsbD (m % 8)

/-- The activation of row r, lane s: unsigned for the low byte of A16 (R55). -/
def Engine.actVal (g : Engine) (r s : Nat) : Int :=
  let b := g.act.toList.getD (8 * r + s) 0#8
  if g.cfg.afmt = 2#2 ∧ !g.hi then b.toNat else b.toInt

/-- The weight of plane p of P (R67). -/
def planeWeight (p planes : Nat) : Int := if p + 1 = planes then -(2 ^ p) else 2 ^ p

/-- What four rows add to the block accumulator of lane s, output o in plane p (R67). -/
def Engine.partialSum (e : Engine) (r : Run) (bytes : Array Byte) (g t p s o : Nat) : Int :=
  planeWeight p r.planes * ((List.range 4).map fun i =>
    if r.weightBit bytes t p i o then e.actVal (4 * g + i) s else 0).foldl (· + ·) 0

/-- A new open tile. It takes the lane exponents that the last ELD left and the format in force: after an ECF that changes
AFMT with no new ELD, signedness and HI follow the new AFMT while the exponents stay the last ELD's, a case that the spec
leaves open (R70; DESIGN CHOICE, notes/assumptions/21.md). -/
def Engine.newTile (e : Engine) (r : Run) (t : Nat) : Tile :=
  { c := r.c, idx := t, planes := r.planes, hold := r.hold, fresh := r.fresh, hiPass := e.hi && decide (e.cfg.afmt = 2#2),
    lam := e.emax, scale := (r.pre.drop (64 * t)).take 64, entered := Vector.replicate 32 0,
    acc := Vector.replicate 512 0#32, pois := if r.tileBad t then 255#8 else 0#8, result := none, retired := 0#8 }

/-- Row group g enters plane p of its tile with the bytes read (R67, R83). -/
def Engine.enterPlane (e : Engine) (r : Run) (g : Fin 32) (t p : Nat) (bytes : Array Byte) (bad : Bool) : Engine :=
  let tiles := if e.tiles.any (fun x => decide (x.idx = t) && x.result.isNone && decide (x.entered[g] = p)) then
      e.tiles else e.tiles ++ [e.newTile r t]
  let blk := if 4 * g.val < 64 then 0 else 256
  let upd (x : Tile) : Tile :=
    { x with entered := x.entered.set g (p + 1),
             pois := x.pois ||| e.poisL ||| (if bad then 255#8 else 0#8),
             acc := Vector.ofFn fun i : Fin 512 =>
               if blk ≤ i.val ∧ i.val < blk + 256 then
                 (sat32 (x.acc[i].toInt + e.partialSum r bytes g.val t p ((i.val - blk) / 32) (i.val % 32))).1
               else x.acc[i] }
  { e with tiles := updateFirst (fun x => decide (x.idx = t) && x.result.isNone && decide (x.entered[g] = p)) upd tiles }

/-- Lanes whose stationary cells in rows of group g fail parity (R83). -/
def Engine.badLanes (e : Engine) (g : Nat) : BitVec 8 :=
  maskBy 8 fun s => e.actBad.any fun c => decide (c % 8 = s) && decide (c / 8 / 4 = g)

/-- The largest CURSKEW seen since MAXSKEW was last written (R93). -/
def State.skewSeen (s : State) (n e skew : Nat) : State :=
  if s.field (offENG n e + 0x18) 4 0 < skew then s.setField (offENG n e + 0x18) 4 0 skew else s

/-- A feeder after plane m has entered: for T4 the indices stay until the tile's last plane (R66). -/
def Feeder.used (f : Feeder) (r : Run) (m : Nat) : Feeder :=
  if (m + 1) % r.fetchStep = 0 then { f with buf := f.buf.tail } else f

/-- Row group g of engine e takes the next plane of its run from its feeder into the rows; the feeder fetches on, and after
the last plane of the last row group the run is over (R76 to R83). -/
def State.enter (s : State) (n e : Nat) (g : Fin 32) (r : Run) (b : PlaneBuf) : State :=
  let k := s.core n
  let eng := k.eng e
  let m := r.entered[g]
  let bl := eng.badLanes g.val
  let eng := { eng with poisL := eng.poisL ||| bl }
  let eng := eng.enterPlane r g (m / r.planes) (m % r.planes) b.bytes.toArray (b.asRead && !b.bad.isEmpty)
  let r : Run := { r with entered := r.entered.set g (m + 1) }
  let done : Bool := decide (r.slowest = r.t * r.planes)
  let eng : Engine := { eng with runs := (if done then [] else [r]) ++ eng.runs.tail,
                                 feeders := eng.feeders.set g (eng.feeders[g].used r m) }
  let x := fillGroup n e g 2 (eng, s)
  let s := x.2.setCore n ((x.2.core n).setEng e x.1)
  let s := if bl = 0#8 then s else (s.setBit (offENG n e + 8) 19).errRec 6 3 (posUnit 2 n e) 0
  let s := s.skewSeen n e (r.fastest - r.slowest)
  if done then s.engAfter n e else s

/-- Whether row group g may enter its next plane (R51, R63, R76 to R78, R81, R82). -/
def Engine.mayEnter (eng : Engine) (r : Run) (g : Fin 32) : Bool :=
  let m := r.entered[g]
  let fresh := decide (m % r.planes = 0) &&
    !eng.tiles.any (fun x => decide (x.idx = m / r.planes) && x.result.isNone && decide (x.entered[g] = 0))
  eng.eld.isNone && r.ready && decide (m < r.t * r.planes) && decide (m < r.slowest + 16) &&
    decide (eng.feeders[g].hold = .ready) && (!fresh || decide (eng.maxOpen < 8))

/-- Row group g takes the plane at the head of its feeder, when it may: bytes that fail parity send the feeder to read the
beat again (R76 to R81). -/
def State.tryEnter (s : State) (n e : Nat) (g : Fin 32) : State :=
  let eng := (s.core n).eng e
  match eng.runs.head?, eng.feeders[g].buf with
  | some r, b :: _ =>
    if !eng.mayEnter r g then s
    else if b.bad.isEmpty || b.asRead then s.enter n e g r b
    else
      let s := s.setCore n ((s.core n).setEng e { eng with feeders := eng.feeders.set g { eng.feeders[g] with hold := .reread } })
      ((s.setBit (offENG n e + 8) 17).failsAgain n b.addr).carried (s.vportOf n e b.addr [g.val]) (b.addr / 512)
  | _, _ => s

/-- PLANE_ENTRY: row group g enters its next plane from its feeder buffer (R76). -/
def execPlaneEntry (core : Fin 624) (e : Fin 2) (g : Fin 32) (s : State) : Host.Outcome State Fault Refusal :=
  .next (if s.coreLive core.val then s.tryEnter core.val e.val g else s)

/-- WEIGHT_REREAD: the beat that the feeder of row group g reads again arrives. A second failure asks for restoration in a
backed range, and elsewhere enters as read, its tile poisoned (R81, R82, R158). -/
def execWeightReread (core : Fin 624) (e : Fin 2) (g : Fin 32) (s : State) : Host.Outcome State Fault Refusal :=
  let n := core.val
  let eng := (s.core n).eng e.val
  .next <|
    match eng.feeders[g].buf with
    | [] => s
    | b :: rest =>
      if !s.coreLive n || decide (eng.feeders[g].hold ≠ .reread) then s
      else
        let d := s.vportRead n e.val b.addr b.bytes.length
        let feed (s : State) (h : Hold) (asRead : Bool) : State :=
          s.setCore n ((s.core n).setEng e.val
            { eng with feeders := eng.feeders.set g { hold := h, buf := { b with bytes := d.1.1, bad := d.1.2, asRead := asRead } :: rest } })
        if d.1.2.isEmpty then ((feed d.2 .ready false).errRec 5 1 (posUnit 2 n e.val) b.addr).tryEnter n e.val g
        else
          let s := d.2.suspect (s.vportOf n e.val b.addr [g.val])
          if (s.backAt n b.addr).isSome then feed s .restore false
          else ((feed s .ready true).errRec 5 3 (posUnit 2 n e.val) b.addr).tryEnter n e.val g

/-- BEAT_RESTORATION: a beat that a feeder waits for, or that a scrub found, is restored from its backing copy; what waits
for it goes on (R82, R147, R263). -/
def execBeatRestoration (core : Fin 624) (beat : Fin 65536) (s : State) : Host.Outcome State Fault Refusal :=
  let n := core.val
  let failing := (List.range 8).any fun i => decide (s.mem.flitState (fieldKey n (512 * beat.val) / 64 + i) ≠ .good)
  .next <|
    if !s.live then s
    else
      let s :=
        if (s.backAt n (512 * beat.val)).isNone || !failing || s.copyShut n (512 * beat.val) then s
        else
          let x := s.restoreBeat n beat.val
          if x.1 then x.2.errRec 5 2 (posUnit 11 n 0) (512 * beat.val) else x.2
      ((s.engRun n 0).engRun n 1).settle n

/-! Combine and retire (R68 to R73). -/

/-- A value shifted left with saturation (R68, R69). -/
def shiftSat (v : BitVec 32) (d : Nat) : BitVec 32 × Bool :=
  if v = 0#32 then (0#32, false) else if 32 ≤ d then sat32 (if v.toInt < 0 then -(2 ^ 40) else 2 ^ 40)
  else sat32 (v.toInt * 2 ^ d)

/-- Two values brought to the smaller exponent and added; how many steps saturated (R68, R69, R73). -/
def alignAdd (a : BitVec 32) (ea : Nat) (b : BitVec 32) (eb : Nat) : BitVec 32 × Nat × Nat :=
  let m := Nat.min ea eb
  let (x, s1) := shiftSat a (ea - m)
  let (y, s2) := shiftSat b (eb - m)
  let (z, s3) := sat32 (x.toInt + y.toInt)
  (z, m, flag s1 + flag s2 + flag s3)

/-- The result of column col of a tile (R68): value, exponent, saturations. -/
def Tile.column (t : Tile) (col : Nat) : BitVec 32 × Nat × Nat :=
  let o := col % 32
  let e0 := (t.scale.getD (2 * o) 0#8).toNat
  let e1 := (t.scale.getD (2 * o + 1) 0#8).toNat
  let (c, m, k) := alignAdd (t.acc.toList.getD col 0#32) e0 (t.acc.toList.getD (256 + col) 0#32) e1
  (c, m + (if t.hiPass then 8 else 0), k)

/-- Whether every row group has entered every plane of a tile (R79). -/
def Tile.complete (t : Tile) : Bool := t.result.isNone && t.entered.toList.all (· = t.planes)

/-- Add one to an error counter k times. -/
def State.countErrs (s : State) (bank idx : Nat) : Nat → State
  | 0 => s
  | k + 1 => (s.countErr bank idx).countErrs bank idx k

/-- Saturations of an engine: ACCSAT and ENG_SAT (R69). -/
def State.engSat (s : State) (n e k : Nat) : State :=
  if k = 0 then s else (s.setBit (offENG n e + 8) 16).countErrs (0x100 + n) 10 k

/-- A total of saturations. -/
def total (l : List Nat) : Nat := l.foldl (· + ·) 0

/-- A HOLD tile's results are added into the hold bank, cleared first for FRESH; the saturations (R69, R72, R73). The bank's
lane exponents become this tile's: where tiles of ELDs with different exponents are summed, the spec gives no lane exponent
for the sum, and the last tile combined gives it (R73, R102; DESIGN CHOICE, notes/assumptions/21.md). -/
def Engine.addHold (g : Engine) (t : Tile) (at_ : Nat → BitVec 32 × Nat × Nat) : Engine × Nat :=
  let g := if t.fresh then g.clearBank else g
  let sums := ((List.range 256).map fun i =>
    let b := g.bank.toList.getD i { c := 0#32, m := 0x1FF#9 }
    alignAdd b.c b.m.toNat (at_ i).1 (at_ i).2.1).toArray
  let bank := Vector.ofFn fun i : Fin 256 =>
    let v := sums.getD i.val (0#32, 0, 0)
    ({ c := v.1, m := BitVec.ofNat 9 v.2.1 } : ColVal)
  ({ g with bank := bank, bankLam := t.lam, bankPois := g.bankPois ||| t.pois,
            tiles := g.tiles.filter fun x => decide (x ≠ t),
            edr := g.edr.map fun x => { x with before := x.before - 1 } }, total (sums.toList.map fun v => v.2.2))

/-- TILE_COMBINE: the oldest complete tile is combined; in HOLD mode it is added into the hold bank, once an EDR before it
has handed over beat 3 (R68, R73, R79, R84). -/
def execTileCombine (core : Fin 624) (e : Fin 2) (s : State) : Host.Outcome State Fault Refusal :=
  let n := core.val
  let eng := (s.core n).eng e.val
  .next <|
    match eng.tiles.find? Tile.complete with
    | none => s
    | some t =>
      if !s.coreLive core.val then s
      else
        let cols := (List.range 256).map t.column
        let arr := cols.toArray
        let at_ : Nat → BitVec 32 × Nat × Nat := fun i => arr.getD i (0#32, 0, 0)
        let put (s : State) (g : Engine) : State := s.setCore n ((s.core n).setEng e.val g)
        let sat1 := total (cols.map fun c => c.2.2)
        if t.hold then
          if eng.edr.any fun x => decide (x.before = 0) then s
          else
            let y := eng.addHold t at_
            ((put s y.1).engSat n e.val (sat1 + y.2)).engAfter n e.val
        else
          let res := Vector.ofFn fun i : Fin 256 =>
            ({ c := (at_ i.val).1, m := BitVec.ofNat 9 (at_ i.val).2.1 } : ColVal)
          let s := put s { eng with tiles := updateFirst Tile.complete (fun x => { x with result := some res }) eng.tiles }
          s.engSat n e.val sat1

/-- What column group cg retires of a tile (R70). -/
def Tile.packet (t : Tile) (cg : Fin 8) : LinkPkt :=
  { c := t.c, idx := t.idx, vals := ((t.result.elim [] (·.toList)).drop (32 * cg.val)).take 32, lam := t.lam[cg],
    pois := t.pois.getLsbD cg.val }

/-- TILE_RETIRE: a column group retires its oldest combined tile when the link holds a credit (R70, R71, R78). -/
def execTileRetire (core : Fin 624) (e : Fin 2) (cg : Fin 8) (s : State) : Host.Outcome State Fault Refusal :=
  let n := core.val
  let eng := (s.core n).eng e.val
  let ready (t : Tile) : Bool := !t.retired.getLsbD cg.val
  .next <|
    match eng.tiles.find? ready with
    | none => s
    | some t =>
      if !s.coreLive core.val || t.result.isNone || decide (eng.credits[cg] = 0) then s
      else
        let upd (x : Tile) : Tile := { x with retired := x.retired ||| BitVec.twoPow 8 cg.val }
        let tiles := (updateFirst ready upd eng.tiles).filter fun x => decide (x.retired ≠ 255#8)
        let eng := { eng with tiles := tiles, credits := eng.credits.set cg (eng.credits[cg] - 1),
                              link := eng.link.set cg (eng.link[cg] ++ [t.packet cg]) }
        (s.setCore n ((s.core n).setEng e.val eng)).engAfter n e.val

end Sys2Proof.Machine
end

