-- ==== Sys2Proof/Machine/Route.lean ====
section
/-!
DEFINITION. Route.lean: the routes of flits: over the mesh of a top die with its detours, and around the ring of stacks (R17,
R28, R30, R32 to R37, R810).
-/
namespace Sys2Proof.Machine

/-! The mesh of a top die (R17, R28, R612). -/

/-- The column of a cluster. -/
def meshX (c : Nat) : Nat := c % 4
/-- The row of a cluster. -/
def meshY (c : Nat) : Nat := c / 4

/-- The east-west link between (x, y) and (x + 1, y). -/
def linkEW (x y : Nat) : Nat := 3 * y + x
/-- The north-south link between (x, y) and (x, y + 1). -/
def linkNS (x y : Nat) : Nat := 9 + 4 * y + x

/-- The numbers from a up to b, or down to it, as the steps between neighbours are named by the lower one. -/
def stepsBetween (a b : Nat) : List Nat :=
  if a ≤ b then (List.range (b - a)).map (a + ·) else (List.range (a - b)).map fun i => a - 1 - i

/-- The links from cluster a to cluster b of one stack, in order: first along the row, then along the column (R28). -/
def meshRoute (a b : Nat) : List Nat :=
  ((stepsBetween (meshX a) (meshX b)).map fun x => linkEW x (meshY a)) ++
    (stepsBetween (meshY a) (meshY b)).map fun y => linkNS (meshX b) y

/-- The links of a route where each mapped-out link is replaced by its detour (R30). -/
def detoured (out : BitVec 17) (links : List Nat) : List Nat :=
  links.flatMap fun m => if out.getLsbD m then meshDetour m else [m]

/-! The ring S0–S1–S3–S2–S0 (R33 to R37). -/

/-- The place of a stack in ring order. -/
def ringPlace (st : Nat) : Nat := [0, 1, 3, 2].getD st 0

/-- The edges of the path from stack a to stack b in ring order. -/
def ringForward (a b : Nat) : List Nat :=
  (List.range (modSub (ringPlace b) (ringPlace a) 4)).map fun i => (ringPlace a + i) % 4

/-- The edges of the path from stack a to stack b against ring order. -/
def ringBackward (a b : Nat) : List Nat :=
  (List.range (modSub (ringPlace a) (ringPlace b) 4)).map fun i => (ringPlace a + 3 - i) % 4

/-- The edges of the path of a full ring: the shared edge of adjacent stacks, ring order between diagonal ones (R34). -/
def ringPath (a b : Nat) : List Nat :=
  if (ringBackward a b).length < (ringForward a b).length then ringBackward a b else ringForward a b

/-- The edges that traffic between two stacks takes with some edges down: the path of R34, else the remaining path the other way
around, else none: the traffic is held (R35, R37). -/
def ringRoute (down : List Nat) (a b : Nat) : Option (List Nat) :=
  let works (p : List Nat) : Bool := p.all fun e => !down.contains e
  if works (ringPath a b) then some (ringPath a b)
  else if works (ringForward a b) then some (ringForward a b)
  else if works (ringBackward a b) then some (ringBackward a b)
  else none

/-! Routes of the block. -/

/-- The route of a flit from a cluster to a cluster, numbered 12 s + c: the mesh within a stack; between stacks a cluster port,
the ring and a cluster port (R28, R34), a neighbour's where a direction of the own port is lost (R161). -/
def State.flitPath (s : State) (a b : Nat) : Option (List Hop) :=
  if a / 12 = b / 12 then
    some ((detoured (s.meshOut (Fin.ofNat 4 (a / 12))) (meshRoute (a % 12) (b % 12))).map fun m => Hop.mesh (a / 12) m)
  else
    (ringRoute (s.edgesDown.map (·.val)) (a / 12) (b / 12)).map fun es =>
      let p := s.portOf a false
      let q := s.portOf b true
      let links (x y : Nat) : List Hop :=
        (detoured (s.meshOut (Fin.ofNat 4 (x / 12))) (meshRoute (x % 12) (y % 12))).map fun m => Hop.mesh (x / 12) m
      links a p ++ [Hop.port p] ++ es.map Hop.edge ++ [Hop.port q] ++ links q b

/-- The cluster of the receiver of a stream: a core's, or that of the pipeline whose input buffer receives (R291, R292). -/
def streamEnd (d : StreamDef) : Nat := d.toPipe.elim (d.cons.val / 13) fun q => q.val / 2

/-- The route of a stream. -/
def State.streamRoute (s : State) (i : Nat) : Option (List Hop) :=
  match s.streamDef i with
  | none => some []
  | some d => s.flitPath (d.prod.val / 13) (streamEnd d)

/-- The N-cycles of a route: 2 for each mesh hop, 6 for a cluster port, 40 for a ring edge, and 3 within a cluster, which a flit
that came up a cluster port takes last (R32, R33, R810). The two extra hops of a detour are its 4 N-cycles (R30). -/
def routeCycles (r : List Hop) : Nat :=
  let mesh := r.all fun h => match h with | .mesh _ _ => true | _ => false
  r.foldl (fun n h => n + match h with
    | .mesh _ _ => 2
    | .port _ => 6
    | .edge _ => 40) (if r.isEmpty || !mesh then 3 else 0)

end Sys2Proof.Machine
end

