-- ==== Sys2Proof/Machine/Stream.lean ====
section
/-!
DEFINITION. Stream.lean: streams and credits (R291 to R296, R418 to R420) and the column-reduce unit (R290, R411).
-/
namespace Sys2Proof.Machine

/-! Flits in and out of a stream. -/

/-- An armed flip of the next flit that the NI of position n sends (R686, kind 6). -/
def State.flitFlip (s : State) (n : Nat) : Option (Word × Bool) :=
  if s.bit (offERR + 0x20) 0 && decide (s.field (offERR + 0x10) 63 60 = 6) &&
      decide (s.field (offERR + 0x10) 59 50 = n) then
    some (s.reg (offERR + 0x18), s.bit (offERR + 0x20) 1)
  else none

/-- A flit as sent by the NI of position n: an armed flip alters it once; one whose parity then fails arrives
poisoned (R630, R686). -/
def State.sendFlit (s : State) (n : Nat) (f : Flit) : Flit × State :=
  match s.flitFlip n with
  | none => (f, s)
  | some (m, par) =>
    let s := s.flipDone (posUnit 1 n 0) 0
    let bad := (List.range 8).any fun i => if par then m.getLsbD i else oddByte m i
    let f : Flit := { data := if par then f.data else f.data ^^^ m.setWidth 512, pois := f.pois || bad }
    (f, if bad then s.errRec 4 3 (posUnit 1 n 0) 0 else s)

/-- Send flits of a context on stream i, one credit each (R293), on the path that the routers take (R28, R30, R34). -/
def State.sendFlits (s : State) (n : Nat) (c : Ctx) (i : Nat) : List Flit → State
  | [] => s
  | f :: rest =>
    let (f, s) := s.sendFlit n f
    let r := s.strm i
    let w := fieldOf (s.ctx n c).waveWord 47 0
    (s.setStrm i { r with credits := r.credits - 1, fly := r.fly ++ [{ c := c, wave := w, flit := f, path := s.streamRoute i }] }).sendFlits
      n c i rest

/-! The stream queue (R418 to R420, R429). -/

/-- A vector register of received flits: quarters beyond them are zero (R385, R418). -/
def flitsReg (fs : List Flit) : VReg := VReg.ofBytes (padTo 256 (fs.flatMap Flit.bytes)) (pois4 (fs.map (·.pois)))

/-- Whether a stream operation finds its flits or its credits (R420). -/
def State.streamReady (s : State) : StreamOp → Bool
  | .srx _ _ i cnt _ => decide (cnt ≤ s.takeable i cnt)
  | .stx _ i fs => decide (fs.length ≤ (s.strm i).credits)

/-- Whether a stream operation is of a context. -/
def StreamOp.of (o : StreamOp) (c : Ctx) : Bool := o.isOf c true || o.isOf c false

/-- Execute the head of a stream queue when it finds its flits or its credits; decode work that is ready goes before back-fill (R309,
R420). -/
def State.streamHead (s : State) (n : Nat) : State :=
  let k := s.core n
  match decodeFirst (fun o => o.of .p && s.asBackfill n .p) (·.of .d) s.streamReady k.streamQ with
  | [] => s
  | .srx c vd i cnt last :: rest =>
    if s.takeable i cnt < cnt then s
    else
      let s := s.setCore n { k with streamQ := rest }
      let (fs, s) := s.receive i cnt last
      s.deliverV n c vd (flitsReg fs)
  | .stx c i fs :: rest =>
    if (s.strm i).credits < fs.length then s
    else (s.setCore n { k with streamQ := rest }).sendFlits n c i fs

/-- Run a stream queue as far as it goes. -/
def State.streamRun (s : State) (n : Nat) : State := (List.range 16).foldl (fun s _ => s.streamHead n) s

/-! The column-reduce unit (R290, R411). -/

/-- Contributions that complete a tile part. -/
def Rcx.expected (r : Rcx) : Nat := onesIn 2 r.engs.toNat + r.ins.length

/-- Add a part to the sums of the unit, in order of arrival; the first contribution stands as it is. -/
def Rcx.addPart (r : Rcx) (src cg : Nat) (key : Nat) (vals : List Lane) (po : Bool) : Rcx :=
  let k := tabGetD r.got key 0
  let slot := k * 8 + cg
  let cur := tabGet? r.sums slot
  let t : TileSum := match cur with
    | none => { count := 1, vals := vals, pois := po }
    | some t =>
      { count := t.count + 1, pois := t.pois || po,
        vals := t.vals.zipWith (fun a b => BitVec.ofNat 32 (fpAdd fmt32 modeIeee (unpack fmt32 a.toNat) (unpack fmt32 b.toNat)).1) vals }
  { r with got := tabSet r.got key (tabGetD r.got key 0 + flag (decide (src < 2) || decide (cg = 7))),
           sums := tabSet r.sums slot t }

/-- A sum in BF16: nearest even, infinite on overflow (R290). -/
def toBfInf (c : Nat) : Nat :=
  match unpack fmt32 c with
  | .fin s m e => (roundTo fmtBf .near false s m e).1
  | v => (toBf v).1

/-- The flits of a tile part: two of FP32, or one of BF16 at a root (R411). -/
def Rcx.flits (r : Rcx) (t : TileSum) : List Flit :=
  if r.root then [Flit.of (t.vals.flatMap fun v => leBytes 2 (toBfInf v.toNat)) t.pois]
  else
    let bs := t.vals.flatMap fun v => leBytes 4 v.toNat
    [Flit.of (bs.take 64) t.pois, Flit.of (bs.drop 64) t.pois]

/-- Send the tile parts of the armed RCX that are complete, in order of tile and column group, as credits allow; the
RCX completes when every tile is sent (R411). -/
def State.reduceSend (s : State) (n : Nat) : Nat → State
  | 0 => s
  | fuel + 1 =>
    let k := s.core n
    match k.rcx with
    | [] => s
    | r :: rest =>
      match tabGet? r.sums r.sent with
      | none => s
      | some t =>
        let fs := r.flits t
        if t.count < r.expected || r.outs.any (fun o => decide ((s.strm o).credits < fs.length)) then s
        else
          let r' : Rcx := { r with sent := r.sent + 1, sums := tabErase r.sums r.sent }
          let k : Core := { k with rcx := if r'.sent = 8 * r.tiles then rest else r' :: rest }
          let s := r.outs.foldl (fun s o => s.sendFlits n r.c o fs) (s.setCore n k)
          s.reduceSend n fuel

/-- Run the reduce unit's output. -/
def State.reduceRun (s : State) (n : Nat) : State := s.reduceSend n 1024

/-- After an event of core n: its queues go on, then what waits for them; nothing while its clock is skipped (R85). -/
def State.coreRun (s : State) (n : Nat) : State :=
  if s.coreLive n then ((((s.streamRun n).reduceRun n).engRun n 0).engRun n 1).settle n else s

/-- A packet of a column link converted (R102, R103, R290). -/
def Rcx.convert (r : Rcx) (p : LinkPkt) (cg : Nat) : List Lane :=
  p.vals.zipIdx.map fun (v, o) => BitVec.ofNat 32
    (engConvert modeIeee v.c.toInt v.m.toNat p.lam.toNat (r.scale.lane o).toNat (r.scale.lane (32 + cg)).toNat).1

/-- The position in its own tile of the next part from a handle: parts come in column-group order. -/
def Rcx.handleParts (r : Rcx) (i : Nat) : Nat := tabGetD r.got ((2 + i) * 8 + 1) 0

/-- Whether the reduce unit could accept a part for a waiting RCX: a packet of its context on one of its links, or two flits of a handle
(R309, R411). -/
def State.rcxReady (s : State) (n : Nat) (r : Rcx) : Bool :=
  let k := s.core n
  let links (e : Nat) : Bool := r.engs.getLsbD e && (k.eng e).link.toList.any fun l => (l.head?).any fun p => decide (p.c = r.c)
  links 0 || links 1 || r.ins.any fun x => decide (2 ≤ s.takeable x.2 2)

/-- The reduce queue as the unit takes its next part: decode work that is ready is armed before back-fill that has accepted none
(R309). -/
def State.rcxTurn (s : State) (n : Nat) : List Rcx :=
  decodeFirst (fun r => decide (r.c = .p) && s.asBackfill n .p && r.got.isEmpty && decide (r.sent = 0))
    (fun r => decide (r.c = .d)) (s.rcxReady n) (s.core n).rcx

/-- REDUCE_TILE_ARRIVAL: the armed reduce unit accepts one tile part, from a column link (whose credit returns) or
from a handle (R71, R290, R411). -/
def execReduceTileArrival (core : Fin 624) (src : ReduceSrc) (s : State) : Host.Outcome State Fault Refusal :=
  let n := core.val
  let k := s.core n
  .next <|
    match s.rcxTurn n with
    | [] => s
    | r :: rest =>
      if !s.coreLive core.val then s
      else
        match src with
        | .link e =>
          let g := k.eng e.val
          let ready (cg : Fin 8) : Bool :=
            decide (tabGetD r.got (e.val * 8 + cg.val) 0 < r.tiles) && !(g.link[cg]).isEmpty
          if !r.engs.getLsbD e.val then s
          else
            match [0, 1, 2, 3, 4, 5, 6, 7].find? ready with
            | none => s
            | some cg =>
              match g.link[cg] with
              | [] => s
              | p :: ps =>
                let r := r.addPart e.val cg.val (e.val * 8 + cg.val) (r.convert p cg.val)
                  (p.pois || decide (r.scale.pois ≠ 0#4))
                let g : Engine := { g with link := g.link.set cg ps, credits := g.credits.set cg (g.credits[cg] + 1) }
                let k : Core := { k with rcx := r :: rest }
                (s.setCore n (k.setEng e.val g)).coreRun n
        | .handle i =>
          match r.ins.find? (fun x => decide (x.1 = i.val)) with
          | none => s
          | some (_, st) =>
            let cg := r.handleParts i.val % 8
            let key := (2 + i.val) * 8
            if tabGetD r.got key 0 ≥ r.tiles || s.takeable st 2 < 2 then s
            else
              let (fs, s) := s.receive st 2 false
              let bs := (fs.flatMap Flit.bytes).toArray
              let vals : List Lane := (List.range 32).map fun o => BitVec.ofNat 32
                ((List.range 4).foldl (fun acc j => acc + (bs.getD (4 * o + j) 0#8).toNat * 256 ^ j) 0)
              let r := r.addPart (2 + i.val) cg key vals (fs.any (·.pois) || decide (r.scale.pois ≠ 0#4))
              let r : Rcx := { r with got := tabSet r.got (key + 1) (r.handleParts i.val + 1) }
              (s.setCore n { s.core n with rcx := r :: rest }).coreRun n

/-- RCX: arms the column-reduce unit for one wave (R290, R411, R419). -/
def execRcx (u : Issue) (f : Fields) (s : State) : Host.Outcome State Fault Refusal :=
  .next <| s.issue u f { dst := .unused, a := .unused, b := .vector, c := none, rsv := 1 } fun s =>
    let n := u.core.val
    let x := s.at u
    let root := immBit f 33
    let engs := BitVec.ofNat 2 (immBits f 32 31)
    let hs := (List.range 16).filter fun i => immBit f (15 + i)
    let out0 := immBits f 14 11
    let nout := immBits f 10 8 + 1
    let outs := (List.range nout).map (out0 + ·)
    if (hs.isEmpty && decide (engs = 0#2)) || (!root && decide (nout ≠ 1)) then .fault s fILL
    else if out0 + nout > 16 then .fault s fREG
    else
      let inS := hs.map fun i => (i, s.handle u i)
      let outS := outs.map fun i => s.handle u i
      if inS.any (fun h => !h.2.any fun e => !e.1.sending) || outS.any (fun h => !h.any fun e => e.1.sending) then
        .fault s fHANDLE
      else if (s.core n).rcx.length ≥ 4 then .stall
      else
        let scale := x.getV f.srcb.toNat
        let r : Rcx :=
          { c := u.ctx, root := root, engs := engs,
            ins := inS.filterMap (fun h => h.2.map fun e => (h.1, e.1.idx)),
            outs := outS.filterMap (fun h => h.map fun e => e.1.idx), tiles := immBits f 7 1 + 1,
            scale := if x.taint then { scale with pois := 15#4 } else scale, got := [], sums := [], sent := 0 }
        let k := s.core n
        .next (s.setCore n { k with rcx := k.rcx ++ [r] })

/-! Stream instructions (R418 to R420). -/

/-- The handle of a stream instruction. -/
def hnd (f : Fields) : Nat := immBits f 33 30

/-- SRX. -/
def execSrx (u : Issue) (f : Fields) (s : State) : Host.Outcome State Fault Refusal :=
  .next <| s.issue u f { noUse with dst := .vector, rsv := ones 27 0 } fun s =>
    let n := u.core.val
    let cnt := immBits f 29 28 + 1
    match s.handle u (hnd f) with
    | none => .fault s fHANDLE
    | some (e, last) =>
      if e.sending || decide (e.sd.cap < cnt) then .fault s fHANDLE
      else if (s.core n).streamQ.length ≥ 16 then .stall
      else
        let x := s.at u
        let s := s.putAt u { x with pendV := x.pendV ||| BitVec.twoPow 64 f.dst.toNat }
        let k := s.core n
        .next ((s.setCore n { k with streamQ := k.streamQ ++ [.srx u.ctx f.dst.toNat e.idx cnt last] }).streamRun n)

/-- STX. -/
def execStx (u : Issue) (f : Fields) (s : State) : Host.Outcome State Fault Refusal :=
  .next <| s.issue u f { noUse with a := .vector, rsv := ones 27 0 } fun s =>
    let n := u.core.val
    let cnt := immBits f 29 28 + 1
    match s.handle u (hnd f) with
    | none => .fault s fHANDLE
    | some (e, _) =>
      if !e.sending || decide (e.sd.cap < cnt) then .fault s fHANDLE
      else if (s.core n).streamQ.length ≥ 16 then .stall
      else
        let x := s.at u
        let v := x.getV f.srca.toNat
        let fs := (List.range cnt).map fun q => Flit.of ((v.bytes.drop (64 * q)).take 64) (x.taint || v.pois.getLsbD q)
        let k := s.core n
        .next ((s.setCore n { k with streamQ := k.streamQ ++ [.stx u.ctx e.idx fs] }).streamRun n)

/-- SWT: waits for flits to receive or credits to send (R418, R419, R427). -/
def execSwt (u : Issue) (f : Fields) (s : State) : Host.Outcome State Fault Refusal :=
  .next <| s.issue u f { noUse with rsv := ones 29 14 } fun s =>
    let cnt := immBits f 13 0
    match s.handle u (hnd f) with
    | none => .fault s fHANDLE
    | some (e, _) =>
      if cnt = 0 ∨ e.sd.cap < cnt then .fault s fHANDLE
      else .next (s.waitFor u (.swt e.idx (!e.sending) cnt))

/-- HSET: binds a handle to an entry of the core's stream table (R418, R419). -/
def execHset (u : Issue) (f : Fields) (s : State) : Host.Outcome State Fault Refusal :=
  .next <| s.issue u f { noUse with rsv := ones 28 16 } fun s =>
    let x := s.at u
    let b : Handle := { entry := BitVec.ofNat 16 (immBits f 15 0), last := immBit f 29 }
    let h : Vector (Option Handle) 16 := Vector.ofFn fun i => if i.val = hnd f then some b else x.h[i]
    .next (s.putAt u { x with h := h })

/-! Arrivals (R291, R293, R295, R641). -/

/-- Keep a flit that a wave sent on a stream that leaves its layer, for the checkpoints (R641). -/
def State.keepFlit (s : State) (wave i : Nat) (d : StreamDef) (f : Flit) : State :=
  if d.prodLayer < d.consLayer then
    { s with waves := s.waves.map fun w => if w.num.toNat = wave then { w with sent := w.sent ++ [(i, f)] } else w }
  else s

/-- A flit enters the receive buffer of stream i: in the consumer's core store or the input buffer of a pipeline, or in its spill
buffer through the cache (R292, R295). -/
def State.bufferFlit (s : State) (i : Nat) (d : StreamDef) (f : Flit) : State :=
  let r := s.strm i
  match d.spill with
  | none =>
    if d.toPipe.isSome then s.setStrm i { r with buf := r.buf ++ [f] }
    else (s.setStrm i { r with wr := r.wr + 1 }).storeWrite d.cons.val (d.bufAt + 64 * (r.wr % d.cap)) f.bytes f.pois
  | some base =>
    let s := s.setStrm i { r with wr := r.wr + 1 }
    s.cohStore (niOf d.cons.val) 3 (spillAt base d.cap r.wr) f.bytes f.pois true

/-- Whether a flit may enter the receive buffer of stream i now: a spilled one is a cached store (R295). -/
def State.mayBuffer (s : State) (i : Nat) (d : StreamDef) : Bool :=
  d.spill.all fun base => s.cachedGo (niOf d.cons.val) 3 (spillAt base d.cap (s.strm i).wr) 64 true true

end Sys2Proof.Machine
end

