-- ==== Sys2Proof/Machine/Pages.lean ====
section
/-!
DEFINITION. Pages.lean: key-value pages: the pool, page records, page maps, reserves and reference counts (R342 to R360,
R373 to R378).
-/
namespace Sys2Proof.Machine

/-- Status register of pipeline q (R378). -/
def offAP (q : Nat) : Nat := offATT + 0x8000 + 0x40 * q

/-- Registers of sequence i (R377): MAP, then LEN and CFG. -/
def offSeq (i : Nat) : Nat := offATT + 0x1000 + 0x20 * i

/-- Pipeline q at run time. -/
def State.pipe (s : State) (q : Nat) : Pipe := tabGetD s.pipes q Pipe.zero

/-- Set pipeline q. -/
def State.setPipe (s : State) (q : Nat) (p : Pipe) : State := { s with pipes := tabSet s.pipes q p }

/-- Whether pipeline q is mapped out (R161). -/
def State.pipeOut (s : State) (q : Nat) : Bool := s.grain.pipes.getLsbD q

/-! Page records (R347). -/

/-- A page record. -/
structure PageRec where
  ref   : Nat
  bf    : Bool
  loc   : Nat
  pois  : Bool
  idx   : Bool
  pos   : Nat
  slot  : Nat
  haddr : Nat
  deriving DecidableEq, Repr

/-- The 16 bytes of a record. -/
def PageRec.bytes (r : PageRec) : List Byte :=
  leBytes 16 (r.ref + flag r.bf * 2 ^ 23 + r.loc * 2 ^ 24 + flag r.pois * 2 ^ 26 + flag r.idx * 2 ^ 27 + r.pos * 2 ^ 32 +
    r.slot * 2 ^ 42 + (r.haddr / 2 ^ 14) * 2 ^ 64)

/-- A record from its bytes. -/
def PageRec.of (bs : List Byte) : PageRec :=
  let v := leNat bs
  { ref := bitsOf v 15 0, bf := v.testBit 23, loc := bitsOf v 25 24, pois := v.testBit 26, idx := v.testBit 27,
    pos := bitsOf v 41 32, slot := bitsOf v 52 42, haddr := bitsOf v 97 64 * 2 ^ 14 }

/-- The address of a page record (R346, R375). -/
def State.recAt (s : State) (id : Nat) : Nat := s.field (offATT + 0x10) 47 16 * 2 ^ 16 + 16 * id

/-- Read a page record, class 1 (R349). -/
def State.readRec (s : State) (id : Nat) : PageRec × State :=
  let (bs, _, s) := s.cohLoad (mgmtOf 0) 1 (s.recAt id) 16 true false
  (PageRec.of bs, s)

/-- Write a page record (R348). -/
def State.writeRec (s : State) (id : Nat) (r : PageRec) : State := s.cohStore (mgmtOf 0) 1 (s.recAt id) r.bytes false true

/-- Mark a page poisoned and due for regeneration (R370, R651). -/
def State.poisonPage (s : State) (id : Nat) : State :=
  let (r, s) := s.readRec id
  { s.writeRec id { r with pois := true } with regen := natInsert s.regen id }

/-! Page maps (R349). -/

/-- Entries of a map, index slots included. -/
def mapEntries : Nat := 16544

/-- The address of entry k of the map of layer l and group g. -/
def State.mapAt (s : State) (i l g k : Nat) : Nat :=
  s.field (offSeq i) 47 8 * 256 + (l * s.image.elim 0 (·.groups) + g) * 0x10300 + 4 * k

/-- The controllers of a range of memory that may reach past the next HBM stack. -/
def areaCtls (pa n : Nat) : List Nat :=
  match rangeCtls pa n with
  | [a, b] => if a < b then (List.range (b + 1 - a)).map (· + a) else [a, b]
  | l => l

/-- Whether the memory of the page records, of the HBM page area and of the page maps may be used in one step: each of its controllers
would take MC0's request of class 1 next (R271, R275, R276, notes/assumptions/81.md). -/
def State.pagesGo (s : State) : Bool :=
  let maps := s.image.elim 0 (fun m => m.layers * m.groups) * 0x10300
  let cs := areaCtls (s.recAt 0) (16 * s.field (offATT + 0x18) 23 0) ++
    areaCtls (s.field (offATT + 0x20) 47 14 * 2 ^ 14) (16384 * s.field (offATT + 0x28) 23 0) ++
    s.seqs.flatMap fun x => areaCtls (s.mapAt x.1 0 0 0) maps
  cs.eraseDups.all (s.turn (mgmtOf 0) 1)

/-- Read a map entry: the page ID where VALID is 1. -/
def State.readMap (s : State) (i l g k : Nat) : Option Nat × State :=
  let (bs, _, s) := s.cohLoad (mgmtOf 0) 1 (s.mapAt i l g k) 4 true false
  let v := leNat bs
  (if v.testBit 31 then some (bitsOf v 23 0) else none, s)

/-- Write a map entry. -/
def State.writeMap (s : State) (i l g k : Nat) (id : Option Nat) : State :=
  s.cohStore (mgmtOf 0) 1 (s.mapAt i l g k) (leBytes 4 (match id with | some v => 2 ^ 31 + v | none => 0)) false true

/-- The tokens of sequence i (R377). -/
def State.seqLen (s : State) (i : Nat) : Nat := s.field (offSeq i + 8) 20 0

/-! Slots and identifiers (R351, R352). -/

/-- Insert a slot into the free slots, in ascending order. -/
def slotInsert : List (Nat × Nat) → Nat × Nat → List (Nat × Nat)
  | [], x => [x]
  | y :: t, x => if x = y then y :: t else if x.1 < y.1 ∨ (x.1 = y.1 ∧ x.2 < y.2) then x :: y :: t else y :: slotInsert t x

/-- The free slots of a cluster. -/
def State.freeSlots (s : State) (g : Nat) : List (Nat × Nat) := s.slots.filter fun x => decide (x.1 / 13 = g)

/-- The slots that a page occupies (R342). -/
def PageRec.slotsOf (r : PageRec) : List (Nat × Nat) :=
  if r.bf && !r.idx then [(r.pos, r.slot), (r.pos, r.slot + 1)] else [(r.pos, r.slot)]

/-- Refill a reserve to 16 pairs from the free IDs and the free slots of its cluster (R352). -/
def State.refill (s : State) (q : Nat) : Nat → State
  | 0 => s
  | fuel + 1 =>
    let p := s.pipe q
    if p.reserve.length ≥ 16 then s
    else
      match s.pageIds, s.freeSlots (q / 2) with
      | id :: ids, x :: _ =>
        let s := { s with pageIds := ids, slots := s.slots.filter (· ≠ x) }
        State.refill (s.setPipe q { p with reserve := p.reserve ++ [(id, x.1, x.2)] }) q fuel
      | _, _ => s

/-- RESERVE_TOP_UP: MC0 refills a reserve that has fallen below 8; a pipeline whose partner serves for it has none (R352, R368). -/
def execReserveTopUp (q : Fin 96) (s : State) : Host.Outcome State Fault Refusal :=
  .next (if s.live && s.hasImage && decide (s.reserveOf q.val = q.val) && decide ((s.pipe q.val).reserve.length < 8) then
    s.refill q.val 16 else s)

/-- The pairs of a pipeline's reserve are free again. -/
def State.dropReserve (s : State) (q : Nat) : State :=
  let r := (s.pipe q).reserve
  { s.setPipe q { s.pipe q with reserve := [] } with
    pageIds := (r.map (·.1)).foldl natInsert s.pageIds, slots := (r.map (·.2)).foldl slotInsert s.slots }

/-- Take a pair from a reserve; a BF16 page takes the next slot with it, from the free slots or from another pair,
whose ID then is free again (R342, R352). -/
def State.takePair (s : State) (q : Nat) (two : Bool) : Option (Nat × Nat × Nat × State) :=
  let p := s.pipe q
  let fits (x : Nat × Nat × Nat) : Bool :=
    !two || s.slots.contains (x.2.1, x.2.2 + 1) || p.reserve.any fun y => decide (y.2 = (x.2.1, x.2.2 + 1))
  match p.reserve.find? fits with
  | none => none
  | some x =>
    let r := p.reserve.filter (· ≠ x)
    if !two then some (x.1, x.2.1, x.2.2, s.setPipe q { p with reserve := r })
    else
      let nxt := (x.2.1, x.2.2 + 1)
      if s.slots.contains nxt then
        some (x.1, x.2.1, x.2.2, { s.setPipe q { p with reserve := r } with slots := s.slots.filter (· ≠ nxt) })
      else
        let back := (r.filter fun y => decide (y.2 = nxt)).map (·.1)
        some (x.1, x.2.1, x.2.2, { s.setPipe q { p with reserve := r.filter fun y => decide (y.2 ≠ nxt) } with
          pageIds := back.foldl natInsert s.pageIds })

/-- Free an ID with its slots and its HBM copy (R357). -/
def State.freePage (s : State) (id : Nat) : State :=
  let (r, s) := s.readRec id
  let s := s.writeRec id { r with loc := 0, ref := 0, pois := false }
  let sl := if r.loc = 1 ∨ r.loc = 3 then r.slotsOf else []
  { s with pageIds := natInsert s.pageIds id, slots := sl.foldl slotInsert s.slots, hpages := tabErase (tabErase s.hpages (2 * id)) (2 * id + 1),
           regen := s.regen.filter (· ≠ id) }

/-- MC0 subtracts 1 from a REF; at 0 the page is freed at the next wave boundary; a stuck REF stays (R353, R356,
R357). -/
def State.unref (s : State) (id : Nat) : State :=
  let (r, s) := s.readRec id
  if r.ref = 65535 ∨ r.ref = 0 then s
  else
    let s := s.writeRec id { r with ref := r.ref - 1 }
    if r.ref = 1 then { s with freeNext := natInsert s.freeNext id } else s

/-! Page data. -/

/-- Bytes of one row of a page: 128 elements (R342). -/
def rowLen (bf : Bool) : Nat := if bf then 256 else 128

/-- The offset of the key row of token t in a page. -/
def keyOff (bf : Bool) (t : Nat) : Nat := rowLen bf * t

/-- The offset of the value row of token t in a page. -/
def valOff (bf : Bool) (t : Nat) : Nat := 64 * rowLen bf + rowLen bf * t

/-- Where the bytes of a page are read: in a field, over the ports that via names, or in HBM (a staged copy equals it, R363). -/
def State.pageRead (s : State) (r : PageRec) (via : Nat → List Nat) (off n : Nat) : ReadOut :=
  if r.loc = 2 then s.memReadFor (mgmtOf 0) 1 (r.haddr + off) n else s.fieldReadVia via r.pos (r.slot * 16384 + off) n

/-- Copy whole flits of a page, poison marks included. -/
def State.pageCopy (s : State) (src : PageRec) (pos slot off n : Nat) : State :=
  let o := s.pageRead src (s.downGroups src.pos) off n
  let fs := o.pois.zipIdx.map fun (p, i) => ({ bytes := (o.bytes.drop (64 * i)).take 64, pois := p } : Delivered)
  o.s.writeFlits (fieldKey pos (slot * 16384 + off)) fs

/-- The elements of a stored row. -/
def rowNums (bf : Bool) (d : Nat) (bs : List Byte) : List Num :=
  let a := bs.toArray
  (List.range d).map fun i =>
    if bf then unpack fmtBf ((a.getD (2 * i) 0#8).toNat + 256 * (a.getD (2 * i + 1) 0#8).toNat)
    else unpackF8 (a.getD i 0#8).toNat

/-- Take a new page for a map entry: record, map entry, its ID (R348, R352). -/
def State.newPage (s : State) (q i l g k : Nat) (bf idx : Bool) : Option (Nat × PageRec × State) :=
  match s.takePair (s.reserveOf q) (bf && !idx) with
  | none => none
  | some (id, pos, slot, s) =>
    let r : PageRec :=
      { ref := 1, bf := bf, loc := 1, pois := false, idx := idx, pos := pos, slot := slot, haddr := 0 }
    some (id, r, (s.writeRec id r).writeMap i l g k (some id))

/-- The page of a map entry, ready to be written: a new one where there is none, a copy of the first n bytes of keys and
of values where it is shared (R352, R355). None while the reserve is empty (R367). -/
def State.ownPage (s : State) (q i l g k n : Nat) (bf idx : Bool) : Option (PageRec × State) :=
  match s.readMap i l g k with
  | (none, s) => (s.newPage q i l g k bf idx).map fun x => (x.2.1, x.2.2)
  | (some id, s) =>
    let (r, s) := s.readRec id
    if r.ref ≤ 1 then some (r, s)
    else
      match s.newPage q i l g k bf idx with
      | none => none
      | some (_, r', s) =>
        let s := if idx then s.pageCopy r r'.pos r'.slot 0 16384
          else (s.pageCopy r r'.pos r'.slot 0 n).pageCopy r r'.pos r'.slot (valOff bf 0) n
        some (r', s.unref id)

end Sys2Proof.Machine
end

