-- ==== Sys2Proof/Machine/Attn.lean ====
section
/-!
DEFINITION. Attn.lean: the attention pipelines (R326 to R341, R343 to R346, R358 to R372), their instructions (R421,
R422), and the arrival of flits and credits, after which cores and pipelines go on.
-/
namespace Sys2Proof.Machine

/-! The configuration record (R332, R335). -/

/-- A word of a record. -/
def cfgWord (c : List Word) (i : Nat) : Word := c.getD i 0#64

/-- Head dimension. -/
def cfgD (c : List Word) : Nat := fieldOf (cfgWord c 0) 7 0
/-- Query heads. -/
def cfgHq (c : List Word) : Nat := fieldOf (cfgWord c 0) 11 8
/-- Whether keys and values are BF16. -/
def cfgBf (c : List Word) : Bool := bitOf (cfgWord c 0) 12
/-- Layer. -/
def cfgLayer (c : List Word) : Nat := fieldOf (cfgWord c 0) 23 16
/-- Group. -/
def cfgGrp (c : List Word) : Nat := fieldOf (cfgWord c 0) 31 24
/-- The 32 bits of LISTs. -/
def cfgList (c : List Word) (s : Nat) : Nat := fieldOf (cfgWord c (4 + s / 2)) (32 * (s % 2) + 31) (32 * (s % 2))
/-- M of a serving list. -/
def listM (l : Nat) : Nat := bitsOf l 29 28 + 1
/-- Member j of a serving list. -/
def listMember (l j : Nat) : Nat := bitsOf l (7 * j + 6) (7 * j)

/-- Whether a record lies within R332, its reserved bits zero and its pipelines existing. -/
def cfgOk (c : List Word) : Bool :=
  decide (16 ≤ cfgD c) && decide (cfgD c ≤ 128) && decide (cfgD c % 16 = 0) && decide (1 ≤ cfgHq c) &&
    decide (cfgHq c ≤ 8) && decide (fieldOf (cfgWord c 0) 15 13 = 0) && decide (fieldOf (cfgWord c 0) 63 32 = 0) &&
    decide (cfgWord c 3 = 0#64) &&
    (List.range 8).all fun s => decide (bitsOf (cfgList c s) 31 30 = 0) &&
      (List.range (listM (cfgList c s))).all fun j => decide (listMember (cfgList c s) j < 96)

/-! Shares (R336 to R338). -/

/-- The wave of an operation. -/
def State.waveOf (s : State) (num : Nat) : Option Wave := s.waves.find? fun w => decide (w.num.toNat = num)

/-- A share to run: lane, member number, sequence, position. -/
structure Share where
  lane   : Nat
  member : Nat
  seqn   : Nat
  pos    : Nat
  deriving DecidableEq, Repr

/-- The serving list that a sequence's home lane has under a configuration. -/
def State.servingList (s : State) (cfg : List Word) (seqn : Nat) : Nat :=
  cfgList cfg (s.field (offSeq seqn + 0x10) 26 24)

/-- The shares of pipeline q in an operation, in the order of R338: those with another root first. -/
def State.shares (s : State) (q : Nat) (cfg : List Word) (op : AttOp) : List Share :=
  match s.waveOf op.wave with
  | none => []
  | some w =>
    let all := (List.range 8).flatMap fun lane =>
      match (w.lanes.find? fun x => decide (x.1 = lane) && op.mask.getLsbD lane) with
      | none => []
      | some (_, i, pos) =>
        let l := s.servingList cfg i
        ((List.range (listM l)).filter fun j => decide (listMember l j = q)).map fun j =>
          ({ lane := lane, member := j, seqn := i, pos := pos } : Share)
    all.filter (fun x => decide (x.member ≠ 0)) ++ all.filter (fun x => decide (x.member = 0))

/-- The first page of the window of a query (R360). -/
def State.windowFrom (s : State) (seqn pos : Nat) : Nat := pos / 64 + 1 - s.field (offSeq seqn + 0x10) 10 0

/-- Lanes of a list of shares, ascending, once each. -/
def lanesOf (l : List Share) : List Nat := (List.range 8).filter fun lane => l.any fun x => decide (x.lane = lane)

/-- Flits of the queries of one lane. -/
def queryFlits (c : List Word) : Nat := (cfgHq c * cfgD c * 2 + 63) / 64

/-- The queries of a lane from its flits: heads in ascending order, D elements each. -/
def queriesOf (c : List Word) (fs : List Flit) : List (List (BitVec 16)) :=
  let a := (fs.flatMap Flit.bytes).toArray
  (List.range (cfgHq c)).map fun h => (List.range (cfgD c)).map fun i =>
    let k := 2 * (h * cfgD c + i)
    BitVec.ofNat 16 ((a.getD k 0#8).toNat + 256 * (a.getD (k + 1) 0#8).toNat)

/-- The values of a query head. -/
def headNums (q : List (BitVec 16)) : List Num := q.map fun x => unpack fmtBf x.toNat

/-- Take the queries of the lanes whose shares have none yet from the input stream; none while flits are missing. The
score phase keeps its queries for the attend phase (notes/assumptions/17.md). -/
def State.takeQueries (s : State) (p : Pipe) (op : AttOp) (shares : List Share) : Option (List AttUnit × State) :=
  let kept (x : Share) : Option AttUnit := p.units.find? fun u => decide (u.lane = x.lane ∧ u.member = x.member)
  let lanes := (lanesOf shares).filter fun l => shares.any fun x => decide (x.lane = l) && (kept x).isNone
  let per := queryFlits p.cfg
  match op.inS with
  | none => none
  | some (i, last) =>
    if s.takeable i (per * lanes.length) < per * lanes.length then none
    else
      let (got, s) := lanes.foldl (fun (acc : List (Nat × List Flit) × State) l =>
        let (fs, s) := acc.2.receive i per last
        (acc.1 ++ [(l, fs)], s)) (([] : List (Nat × List Flit)), s)
      let units := shares.map fun x =>
        match kept x with
        | some u => u
        | none =>
          let fs := tabGetD got x.lane []
          ({ lane := x.lane, member := x.member, seqn := x.seqn, pos := x.pos, q := queriesOf p.cfg fs, sel := [],
             heads := List.replicate (cfgHq p.cfg) (HeadState.init (cfgD p.cfg)),
             pois := fs.any (·.pois) || p.cfgBad || op.bad, staged := [], merged := 0, done := false } : AttUnit)
      some (units, s)

/-! Attending a page (R326 to R330, R336, R342, R370). -/

/-- The result of reading rows of a page. -/
structure Rows where
  keys : List (List Num)
  vals : List (List Num)
  pois : Bool
  s    : State

/-- Read the keys and values of tokens 0 to n − 1 of a page. -/
def State.readRows (s : State) (qn : Nat) (r : PageRec) (d n : Nat) : Rows :=
  let via := s.attGroups qn r.pos
  let k := s.pageRead r via 0 (n * rowLen r.bf)
  let v := k.s.pageRead r via (valOff r.bf 0) (n * rowLen r.bf)
  let cut (bs : List Byte) : List (List Num) :=
    (List.range n).map fun t => rowNums r.bf d ((bs.drop (rowLen r.bf * t)).take (rowLen r.bf))
  { keys := cut k.bytes, vals := cut v.bytes, pois := (k.pois ++ v.pois).any id, s := v.s }

/-- A head attends the n unmasked tokens of a page, block by block; a block has 32 keys, or 16 in BF16 (R326, R328). -/
def HeadState.page (h : HeadState) (q : List Num) (scale : Nat) (bf : Bool) (keys vals : List (List Num)) : HeadState :=
  let b := if bf then 16 else 32
  (List.range (64 / b)).foldl (fun h i =>
    let row (l : List (List Num)) (j : Nat) : List Num := l.getD (b * i + j) []
    let scores := (List.range b).map fun j =>
      if b * i + j < keys.length then some (mulC (dot q (row keys j)) scale) else none
    h.block scores ((List.range b).map (row vals))) h

/-- A unit attends page p: keys up to the query's position; a poisoned read marks the unit and the page (R330, R370). -/
def State.attendPage (s : State) (qn : Nat) (cfg : List Word) (u : AttUnit) (p id : Nat) (r : PageRec) : AttUnit × State :=
  let n := Nat.min 64 (u.pos + 1 - 64 * p)
  let rows := s.readRows qn r (cfgD cfg) n
  let scale := fieldOf (cfgWord cfg 1) 31 0
  let heads := u.heads.zipWith (fun h q => h.page (headNums q) scale r.bf rows.keys rows.vals) u.q
  let s := rows.s.count (0x400 + s.servedBy qn) 2 (if r.bf then 4 else 2)
  let bad := rows.pois || r.pois
  ({ u with heads := heads, pois := u.pois || bad }, if bad then s.poisonPage id else s)

/-- A unit meets a page of its share: attended in place, or left to be staged when it is in HBM (R363). -/
def State.meetPage (s : State) (qn : Nat) (cfg : List Word) (u : AttUnit) (p : Nat) : AttUnit × State :=
  match s.readMap u.seqn (cfgLayer cfg) (cfgGrp cfg) p with
  | (none, s) => (u, s)
  | (some id, s) =>
    let (r, s) := s.readRec id
    if r.loc = 2 then ({ u with staged := u.staged ++ [(p, id)] }, s) else s.attendPage qn cfg u p id r

/-- Start a share: its window pages in ascending order, then its selected pages (R336, R338, R360). -/
def State.startShare (s : State) (qn : Nat) (cfg : List Word) (u : AttUnit) : AttUnit × State :=
  let m := listM (s.servingList cfg u.seqn)
  let w := s.windowFrom u.seqn u.pos
  let own := ((List.range (u.pos / 64 + 1)).filter fun p => decide (w ≤ p) && decide (p % m = u.member))
  (own ++ u.sel).foldl (fun (acc : AttUnit × State) p => acc.2.meetPage qn cfg acc.1 p) (u, s)

/-! Scoring (R358, R361 to R364, R422). -/

/-- A page with its score, if its summary could be read. -/
abbrev Scored := Nat × Nat

/-- The score of full page p of a share, none when its summary is missing or fails parity (R361, R364). -/
def State.scorePage (s : State) (qn : Nat) (cfg : List Word) (u : AttUnit) (m p : Nat) : Option Scored × State :=
  let k := p / m
  match s.readMap u.seqn (cfgLayer cfg) (cfgGrp cfg) (16384 + k / 120 * m + u.member) with
  | (none, s) => (none, s)
  | (some id, s) =>
    let (r, s) := s.readRec id
    let e := k % 120
    let via := s.attGroups qn r.pos
    let key := s.pageRead { r with bf := false } via (128 * e) 128
    let nu := key.s.pageRead { r with bf := false } via (15360 + 2 * e) 2
    if (key.pois ++ nu.pois).contains true then (none, nu.s.setBit (offAP (s.servedBy qn)) 10)
    else
      let mean := rowNums false (cfgD cfg) key.bytes
      let beta := s.field (offATT + 8) 31 0
      let scale := fieldOf (cfgWord cfg 1) 31 0
      let scores := u.q.map fun q => pageScore scale beta (headNums q) mean (unpack fmtBf (leNat nu.bytes))
      (some (p, (scores.drop 1).foldl maxC (scores.headD negInf)), nu.s)

/-- Whether one scored page is kept before another: a higher score, on a tie the higher number; NaN last (R362). -/
def scoreBefore (a b : Scored) : Bool :=
  let x := num32 a.2
  let y := num32 b.2
  if x.isNan || y.isNan then !x.isNan || (y.isNan && decide (b.1 < a.1))
  else
    match numCmp x y with
    | .gt => true
    | .lt => false
    | .eq => decide (b.1 < a.1)

/-- Insert into a list kept best first. -/
def scoreInsert (l : List Scored) (x : Scored) : List Scored :=
  match l with
  | [] => [x]
  | y :: t => if scoreBefore x y then x :: y :: t else y :: scoreInsert t x

/-- The selection of a share: the kept pages in ascending order (R361, R362). -/
def State.selectPages (s : State) (qn : Nat) (cfg : List Word) (u : AttUnit) : List Nat × State :=
  let m := listM (s.servingList cfg u.seqn)
  let w := s.windowFrom u.seqn u.pos
  let keep := (s.field (offSeq u.seqn + 0x10) 23 16 + m - 1) / m
  let (best, s) := ((List.range w).filter fun p => decide (p % m = u.member)).foldl
    (fun (acc : List Scored × State) p =>
      match acc.2.scorePage qn cfg u m p with
      | (some x, s) => (scoreInsert acc.1 x, s)
      | (none, s) => (acc.1, s)) ([], s)
  let sel := (best.take keep).map (·.1)
  (sel.foldl natInsert [], s.count (0x400 + s.servedBy qn) 3 sel.length)

/-- Write a selection to the core store: 4-byte entries VALID [31], LOC [25:24], page [13:0], 512 bytes to a lane
(R362, R422, notes/assumptions/17.md). -/
def State.writeSelection (s : State) (op : AttOp) (cfg : List Word) (u : AttUnit) : State :=
  ((List.range 128).foldl (fun (acc : State) k =>
    let a := op.addr + 512 * u.lane + 4 * k
    if a + 4 > 2 ^ 20 then acc
    else
      match u.sel[k]? with
      | none => acc.storeWrite op.core a (leBytes 4 0) op.bad
      | some p =>
        match acc.readMap u.seqn (cfgLayer cfg) (cfgGrp cfg) p with
        | (none, s) => s.storeWrite op.core a (leBytes 4 0) op.bad
        | (some id, s) =>
          let (r, s) := s.readRec id
          s.storeWrite op.core a (leBytes 4 (p + r.loc * 2 ^ 24 + 2 ^ 31)) op.bad) s)

/-! Results (R339, R340). -/

/-- The output flits of a finished root share: heads in ascending order (R340). -/
def AttUnit.output (u : AttUnit) (cfg : List Word) : List Flit :=
  let vals := u.heads.flatMap fun h => h.output (fieldOf (cfgWord cfg 1) 63 32)
  let bytes := padTo (64 * queryFlits cfg) (vals.flatMap fun v => leBytes 2 v.toNat)
  (List.range (queryFlits cfg)).map fun i => Flit.of ((bytes.drop (64 * i)).take 64) u.pois

/-- Send what a finished share has: a partial result to its root's inbox, or the root's output (R339, R340). -/
def State.finishShare (s : State) (qn : Nat) (op : AttOp) (k : Nat) : State :=
  let p := s.pipe qn
  match p.units[k]? with
  | none => s
  | some u =>
    let l := s.servingList p.cfg u.seqn
    let set (p : Pipe) : Pipe := { p with units := p.units.set k { u with done := true } }
    if u.done || !u.staged.isEmpty then s
    else if u.member ≠ 0 then
      let s := s.setPipe qn (set p)
      let root := s.pipe (listMember l 0)
      let x : AttPartial := { wave := op.wave, layer := cfgLayer p.cfg, grp := cfgGrp p.cfg, lane := u.lane,
                              heads := u.heads, pois := u.pois }
      s.setPipe (listMember l 0) { root with inbox := root.inbox ++ [x] }
    else if u.merged + 1 < listM l then s
    else s.setPipe qn { set p with output := p.output ++ u.output p.cfg }

/-- Send output flits of a pipeline while its output stream has credits (R293). -/
def State.pipeSend (s : State) (qn : Nat) (op : AttOp) : Nat → State
  | 0 => s
  | fuel + 1 =>
    let p := s.pipe qn
    match p.output, op.outS with
    | f :: rest, some o =>
      let r := s.strm o
      if r.credits = 0 then s
      else
        let (f, s) := (s.setPipe qn { p with output := rest }).sendFlit op.core f
        let path := (s.streamDef o).elim (some []) fun d => s.flitPath (qn / 2) (streamEnd d)
        let fly := r.fly ++ [{ c := op.c, wave := op.wave, flit := f, path := path }]
        (s.setStrm o { r with credits := r.credits - 1, fly := fly }).pipeSend qn op fuel
    | _, _ => s

/-- Whether a share's page is one that its wave may append to: a regeneration wave appends only to its page (R652). -/
def State.mayAppend (s : State) (cfg : List Word) (op : AttOp) (x : Share) : Bool :=
  match (s.waveOf op.wave).bind (·.regen) with
  | none => true
  | some id => decide ((s.readMap x.seqn (cfgLayer cfg) (cfgGrp cfg) (x.pos / 64)).1 = some id)

/-- The lanes whose token pipeline q appends in an operation (R336, R652). -/
def State.appendLanes (s : State) (q : Nat) (cfg : List Word) (op : AttOp) : BitVec 8 :=
  let l := s.shares q cfg op
  maskBy 8 fun lane => l.any fun x => decide (x.lane = lane) &&
    decide (x.pos / 64 % listM (s.servingList cfg x.seqn) = x.member) && s.mayAppend cfg op x

/-- A pipeline with the configuration and the units of a context: each context has its own (notes/assumptions/84.md). -/
def Pipe.forCtx (p : Pipe) (c : Ctx) : Pipe :=
  if p.side = c then p
  else { p with side := c, cfg := p.kept.1, cfgBad := p.kept.2.1, units := p.kept.2.2, kept := (p.cfg, p.cfgBad, p.units) }

/-- Whether an operation of a pipeline's queue could begin (R309). -/
def State.attReady (s : State) (qn : Nat) (op : AttOp) : Bool :=
  let p := (s.pipe qn).forCtx op.c
  match op.phase with
  | 0 => s.pagesGo
  | 1 => s.pagesGo && (s.takeQueries { p with units := [] } op (s.shares qn p.cfg op)).isSome
  | 2 => s.pagesGo && (s.takeQueries p op (s.shares qn p.cfg op)).isSome
  | _ => true

/-- A pipeline as it takes up its next operation: decode work that is ready goes before back-fill that has not begun, and the
operation finds its context's configuration (R309). -/
def State.pipeTurn (s : State) (qn : Nat) : Pipe :=
  let p := s.pipe qn
  let l := decodeFirst (fun o => !o.begun && s.asBackfill o.core o.c) (fun o => decide (o.c = .d)) (s.attReady qn) p.queue
  { match l with
    | op :: _ => p.forCtx op.c
    | [] => p with queue := l }

/-- Run the operation at the head of a pipeline's queue as far as it goes. One that begins waits for the memory of the pages (R271,
R276). -/
def State.pipeHead (s : State) (qn : Nat) : State :=
  let p := s.pipeTurn qn
  let s := s.setPipe qn p
  match p.queue with
  | [] => s
  | op :: rest =>
    if decide (op.phase < 3) && !op.begun && !s.pagesGo then s
    else match op.phase with
    | 0 =>
      if op.begun then (if p.appends = 0#8 then s.setPipe qn { p with queue := rest } else s)
      else
        let m := s.appendLanes qn p.cfg op
        if m = 0#8 then s.setPipe qn { p with queue := rest }
        else s.setPipe qn { p with queue := { op with begun := true } :: rest, appends := m }
    | 1 =>
      match s.takeQueries { p with units := [] } op (s.shares qn p.cfg op) with
      | none => s
      | some (units, s) =>
        let (units, s) := units.foldl (fun (acc : List AttUnit × State) u =>
          let (sel, s) := acc.2.selectPages qn p.cfg u
          let u : AttUnit := { u with sel := sel }
          (acc.1 ++ [u], s.writeSelection op p.cfg u)) ([], s)
        s.setPipe qn { s.pipe qn with queue := rest, units := units }
    | 2 =>
      if op.begun then
        let s := (List.range p.units.length).foldl (fun s k => s.finishShare qn op k) s
        let s := s.pipeSend qn op 4096
        let p := s.pipe qn
        if p.output.isEmpty && p.units.all (·.done) then s.setPipe qn { p with queue := rest, units := [] } else s
      else
        match s.takeQueries p op (s.shares qn p.cfg op) with
        | none => s
        | some (units, s) =>
          let (units, s) := units.foldl (fun (acc : List AttUnit × State) u =>
            let (u, s) := acc.2.startShare qn p.cfg u
            (acc.1 ++ [u], s)) ([], s)
          s.setPipe qn { s.pipe qn with queue := { op with begun := true } :: rest, units := units }
    | _ => s.setPipe qn { p with queue := rest, cfg := op.cfg, cfgBad := op.bad, units := [] }

/-- Run a pipeline's queue as far as it goes, then what waits for it. -/
def State.pipeRun (s : State) (qn : Nat) : State :=
  let core := ((s.pipe qn).queue.head?).map (·.core)
  let s := (List.range 10).foldl (fun s _ => s.pipeHead qn) s
  match core with
  | some n => s.settle n
  | none => s

/-- After an event of core n: its queues, and the pipelines that work for it. -/
def State.afterCore (s : State) (n : Nat) : State :=
  let s := s.coreRun n
  (s.pipes.map (·.1)).foldl (fun s q =>
    if ((s.pipe q).queue.head?).any (fun o => decide (o.core = n)) then s.pipeRun q else s) s

/-! The instructions (R421, R422, R428, R429). -/

/-- The pipeline that an attention instruction selects. -/
def attPipe (u : Issue) (f : Fields) : Nat := 2 * (u.core.val / 13) + immBits f 33 33

/-- Put an operation in the queue of a pipeline. -/
def State.pushAtt (s : State) (q : Nat) (op : AttOp) : State :=
  let p := s.pipe q
  (s.setPipe q { p with queue := p.queue ++ [op] }).pipeRun q

/-- The number of the current wave of a context. -/
def State.waveNum (s : State) (u : Issue) : Nat := fieldOf (s.at u).waveWord 47 0

/-- The eight words of a record. -/
def wordsOf (bs : List Byte) : List Word := (List.range 8).map fun i => BitVec.ofNat 64 (leNat ((bs.drop (8 * i)).take 8))

/-- ACFG: loads the configuration record at aA + IMM[19:0] (R332, R335, R421). -/
def execAcfg (u : Issue) (f : Fields) (s : State) : Host.Outcome State Fault Refusal :=
  .next <| s.issue u f { noUse with a := .scalar, rsv := ones 32 20 } fun s =>
    let x := s.at u
    let q := attPipe u f
    let a := addrOf x f (immBits f 19 0)
    let s := s.taintIf u (x.poisA f.srca.toNat)
    if (s.pipe q).queue.length ≥ 4 then .stall
    else if a % 64 ≠ 0 then .fault s fALIGN
    else if a > 0xFFFFF then .fault s fCSTORE
    else
      let r := s.storeRead u.core.val a 64
      let ws := wordsOf r.bytes
      if !cfgOk ws then .fault r.s fACFG
      else
        .next (r.s.pushAtt q
          { core := u.core.val, c := u.ctx, phase := 4, wave := s.waveNum u, mask := 0#8, inS := none, outS := none,
            addr := a, cfg := ws, bad := r.pois.any id || x.poisA f.srca.toNat, begun := false })

/-- ASTART: starts the append, score or attend phase for the lanes of its mask (R421, R422). -/
def execAstart (u : Issue) (f : Fields) (s : State) : Host.Outcome State Fault Refusal :=
  .next <| s.issue u f { noUse with a := .scalar, rsv := ones 14 0 } fun s =>
    let x := s.at u
    let q := attPipe u f
    let phase := immBits f 32 31
    let a := (x.getA f.srca.toNat).toNat
    let inH := s.handle u (immBits f 22 19)
    let outH := s.handle u (immBits f 18 15)
    if phase = 3 then .fault s fILL
    else
      let s := s.taintIf u (x.poisA f.srca.toNat)
      if (s.pipe q).queue.length ≥ 4 then .stall
      else if phase ≠ 0 ∧ a > 0xFFFFF then .fault s fCSTORE
      else if (phase ≠ 0 && !inH.any fun e => !e.1.sending) || (phase = 2 && !outH.any fun e => e.1.sending) then
        .fault s fHANDLE
      else
        .next (s.pushAtt q
          { core := u.core.val, c := u.ctx, phase := phase, wave := s.waveNum u,
            mask := BitVec.ofNat 8 (immBits f 30 23),
            inS := if phase = 0 then none else inH.map fun e => (e.1.idx, e.2),
            outS := if phase = 2 then outH.map fun e => e.1.idx else none,
            addr := a, cfg := [], bad := x.poisA f.srca.toNat, begun := false })

/-! Appends (R343 to R346, R355, R358, R367). -/

/-- A stored row and its flags: F8(x × m), or the BF16 values, padded to 128 elements (R342, R343). -/
def storedRow (bf : Bool) (mult : Nat) (xs : List (BitVec 16)) : List Byte × FpFlags :=
  if bf then (padTo 256 (xs.flatMap fun x => leBytes 2 x.toNat), 0#5)
  else
    let cs := xs.map fun x =>
      let a := unpack fmtBf x.toNat
      if a.isNan then toF8 a else toF8 ((mulNum a (num32 mult)).getD (.nan false true 0))
    (padTo 128 (cs.map fun c => BitVec.ofNat 8 c.1), cs.foldl (fun fl c => fl ||| c.2) 0#5)

/-- The summary of a full page (R346): mean key in F8, largest key norm in BF16. -/
def summaryOf (d : Nat) (keys : List (List Num)) : List Byte × Nat :=
  let mean := (List.range d).map fun i =>
    let sum := treeSum (keys.map fun k => mulN (k.getD i (.fin false 0 0)) (.fin false 1 0))
    BitVec.ofNat 8 (toF8 (num32 (mulC sum 0x3C800000))).1
  let norms := keys.map norm
  (padTo 128 mean, (toBf (num32 ((norms.drop 1).foldl maxC (norms.headD 0)))).1)

/-- Write the summary of full page p into its member's index (R346, R358); none while an index slot needs a pair that
the reserve lacks. -/
def State.writeSummary (s : State) (q : Nat) (cfg : List Word) (seqn m member p : Nat) (r : PageRec) : Option State :=
  let rows := s.readRows q r (cfgD cfg) 64
  let (mean, nu) := summaryOf (cfgD cfg) rows.keys
  let k := p / m
  let e := k % 120
  match rows.s.ownPage q seqn (cfgLayer cfg) (cfgGrp cfg) (16384 + k / 120 * m + member) 0 false true with
  | none => none
  | some (ix, s) =>
    let base := ix.slot * 16384
    let s := s.fieldWrite ix.pos (base + 128 * e) mean rows.pois
    let s := s.fieldWrite ix.pos (base + 15360 + 2 * e) (leBytes 2 nu) false
    let first := member + k / 120 * 120 * m
    some (s.fieldWrite ix.pos (base + 15872) (leBytes 8 (first + (e + 1) * 2 ^ 24 + member * 2 ^ 32)) false)

/-- The page that an append writes: a regeneration writes the page itself, in place (R652, R653). -/
def State.appendPage (s : State) (q : Nat) (cfg : List Word) (x : Share) (regen : Option Nat) : Option (PageRec × State) :=
  match regen with
  | some id => some (s.readRec id)
  | none =>
    s.ownPage q x.seqn (cfgLayer cfg) (cfgGrp cfg) (x.pos / 64) (x.pos % 64 * rowLen (cfgBf cfg)) (cfgBf cfg) false

/-- Write bytes of a page where they lie. -/
def State.pageWrite (s : State) (r : PageRec) (off : Nat) (bs : List Byte) : State :=
  if r.loc = 2 then s.memWriteFor (mgmtOf 0) 1 (r.haddr + off) bs false else s.fieldWrite r.pos (r.slot * 16384 + off) bs false

/-- The regeneration of a page is complete when its last position has been written: POIS clears (R652). -/
def State.regenDone (s : State) (x : Share) (id : Nat) : State :=
  if x.pos + 1 = Nat.min (64 * (x.pos / 64) + 64) (s.seqLen x.seqn) then
    let (r, s) := s.readRec id
    { s.writeRec id { r with pois := false } with
      regen := s.regen.filter (· ≠ id), regenPos := tabErase s.regenPos id, regenBad := tabErase s.regenBad id }
  else s

/-- The append of one token to its page (R343 to R346, R355, R652); none while the reserve is empty. -/
def State.appendToken (s : State) (q : Nat) (cfg : List Word) (x : Share) (key val : List (BitVec 16))
    (regen : Option Nat) : Option State :=
  let bf := cfgBf cfg
  let m := listM (s.servingList cfg x.seqn)
  let t := x.pos % 64
  match s.appendPage q cfg x regen with
  | none => none
  | some (r, s) =>
    let (kb, kf) := storedRow bf (fieldOf (cfgWord cfg 2) 31 0) key
    let (vb, vf) := storedRow bf (fieldOf (cfgWord cfg 2) 63 32) val
    let fl := kf ||| vf
    let s := (s.pageWrite r (keyOff bf t) kb).pageWrite r (valOff bf t) vb
    let s := if fl &&& flOfl ≠ 0#5 then s.setBit (offAP (s.servedBy q)) 8 else s
    let s := if fl &&& flInv ≠ 0#5 then s.setBit (offAP (s.servedBy q)) 9 else s
    let s := match regen with
      | some id => s.regenDone x id
      | none => s
    if t = 63 then s.writeSummary q cfg x.seqn m x.member (x.pos / 64) r else some s

/-- KV_APPEND: the append unit of pipeline q writes a token's key and value into its page. Tokens of one sequence append
in lane order; while the reserve is empty the append waits (R344, R367). -/
def execKvAppend (q : Fin 96) (lane : Fin 8) (key val : List (BitVec 16)) (s : State) : Host.Outcome State Fault Refusal :=
  let p := s.pipe q.val
  .next <|
    match p.queue with
    | [] => s
    | op :: _ =>
      let sh := s.shares q.val p.cfg op
      let d := cfgD p.cfg
      match sh.find? (fun x => decide (x.lane = lane.val) &&
          decide (x.pos / 64 % listM (s.servingList p.cfg x.seqn) = x.member)) with
      | none => s
      | some x =>
        let earlier := sh.any fun y => decide (y.seqn = x.seqn) && decide (y.lane < x.lane) && p.appends.getLsbD y.lane
        if !s.live || decide (op.phase ≠ 0) || !op.begun || !s.pagesGo || !p.appends.getLsbD lane.val || earlier ||
            decide (key.length ≠ d) || decide (val.length ≠ d) then s
        else
          match s.appendToken q.val p.cfg x key val ((s.waveOf op.wave).bind (·.regen)) with
          | none => s
          | some s =>
            let p := s.pipe q.val
            (s.setPipe q.val { p with appends := p.appends &&& ~~~ BitVec.twoPow 8 lane.val }).pipeRun q.val

/-- STAGED_PAGE_ATTEND: the ready flag of a staged page is set and the pipeline attends the staged copy; a fetch with a nonzero
status poisons the page and the unit (R363, R371). -/
def execStagedPageAttend (q : Fin 96) (x : StagedPage) (s : State) : Host.Outcome State Fault Refusal :=
  let p := s.pipe q.val
  let waiting := p.units.zipIdx.flatMap fun (u, k) => u.staged.map fun x => (k, x)
  .next <|
    match waiting[x.idx]? with
    | none => s
    | some (k, (page, id)) =>
      match p.units[k]? with
      | none => s
      | some u =>
        if !s.live || !s.pagesGo || !(p.queue.head?).any (fun o => decide (o.phase = 2) && o.begun) then s
        else
          let (r, s) := s.readRec id
          let bad := r.pois || decide (x.status ≠ 0#8)
          let (u, s) := s.attendPage q.val p.cfg { u with staged := u.staged.filter (· ≠ (page, id)) } page id { r with pois := bad }
          let s := s.count (0x400 + s.servedBy q.val) 4 1
          let p := s.pipe q.val
          (s.setPipe q.val { p with units := p.units.set k u }).pipeRun q.val

/-- PARTIAL_MERGE: the root merges the first partial result that has arrived for its running operation (R339, R340). -/
def execPartialMerge (q : Fin 96) (s : State) : Host.Outcome State Fault Refusal :=
  let p := s.pipe q.val
  .next <|
    match p.queue with
    | [] => s
    | op :: _ =>
      let fits (x : AttPartial) : Bool := decide (x.wave = op.wave) && decide (x.layer = cfgLayer p.cfg) &&
        decide (x.grp = cfgGrp p.cfg)
      match p.inbox.find? fits with
      | none => s
      | some x =>
        match p.units.findIdx? (fun u => decide (u.lane = x.lane) && decide (u.member = 0)) with
        | none => s
        | some k =>
          match p.units[k]? with
          | none => s
          | some u =>
            if !s.live || decide (op.phase ≠ 2) || !op.begun then s
            else
              let u : AttUnit := { u with heads := u.heads.zipWith HeadState.merge x.heads, pois := u.pois || x.pois,
                                          merged := u.merged + 1 }
              (s.setPipe q.val { p with units := p.units.set k u, inbox := p.inbox.erase x }).pipeRun q.val

/-! Demotion (R365 to R367). -/

/-- The full pages of open sequences and of saved prefixes: page number, ID, whether it lies in that sequence's
window. -/
def State.mappedPages (s : State) : List (Nat × Nat × Bool) × State :=
  let layers := s.image.elim 0 (·.layers)
  let groups := s.image.elim 0 (·.groups)
  let saved := s.prefixes.flatMap fun x =>
    (x.2.maps.filter fun m => decide (m.1 % mapEntries < x.2.tokens.length / 64)).map fun m => (m.1 % mapEntries, m.2, false)
  (s.seqs.map (·.1)).foldl (fun (acc : List (Nat × Nat × Bool) × State) i =>
    let len := acc.2.seqLen i
    let w := acc.2.windowFrom i (len - 1)
    (List.range (layers * groups)).foldl (fun acc lg =>
      (List.range (len / 64)).foldl (fun acc p =>
        match acc.2.readMap i (lg / groups) (lg % groups) p with
        | (some id, s) => (acc.1 ++ [(p, id, decide (w ≤ p))], s)
        | (none, s) => (acc.1, s)) acc) acc) (saved, s)

/-- Whether an append in a cluster waits for a page: its pipeline's reserve is empty (R367). -/
def State.appendWaits (s : State) (g : Nat) : Bool :=
  [2 * g, 2 * g + 1].any fun q =>
    let p := s.pipe q
    decide (p.appends ≠ 0#8) && (s.pipe (s.reserveOf q)).reserve.isEmpty

/-- The lowest n consecutive free pages of the HBM page area (R365, R375). -/
def State.freeHbm (s : State) (n : Nat) : Option Nat :=
  (List.range (s.field (offATT + 0x28) 23 0 + 1 - n)).find? fun k =>
    (List.range n).all fun i => s.hpages.all fun x => decide (x.2 ≠ k + i)

/-- The HBM pages that a page takes, under keys 2 id and 2 id + 1. -/
def hbmTake (l : List (Nat × Nat)) (id k n : Nat) : List (Nat × Nat) :=
  (List.range n).foldl (fun l i => tabSet l (2 * id + i) (k + i)) l

/-- The page that leaves a cluster first: the full page of lowest number outside every sharer's window that lies there and
is no index page, as page number, ID and record (R365). -/
def State.demotionPick (s : State) (g : Nat) : Option (Nat × Nat × PageRec) × State :=
  let (all, s) := s.mappedPages
  let old := all.filter fun x => !x.2.2 && all.all fun y => decide (y.2.1 ≠ x.2.1) || !y.2.2
  old.foldl (fun (acc : Option (Nat × Nat × PageRec) × State) x =>
    let (r, s) := acc.2.readRec x.2.1
    let better := acc.1.elim true fun b => decide (x.1 < b.1)
    (if decide (r.loc = 1) && !r.idx && decide (r.pos / 13 = g) && better then some (x.1, x.2.1, r) else acc.1, s))
    (none, s)

/-- PAGE_DEMOTION: MC0 starts to copy the full page of lowest number outside every sharer's window from a cluster whose
free slots are below LOWAT, or where an append waits; with neither a slot nor HBM page space for that append, NOSPACE
is set and a KVFULL event is sent (R365, R367). -/
def execPageDemotion (cluster : Fin 48) (s : State) : Host.Outcome State Fault Refusal :=
  let g := cluster.val
  let free := (s.freeSlots g).length
  let waits := s.appendWaits g
  .next <|
    if !s.live || !s.hasImage || !s.pagesGo || !(decide (free < s.field offATT 47 32) || waits) then s
    else
      let (best, s) := s.demotionPick g
      match best, best.bind (fun x => s.freeHbm x.2.2.slotsOf.length) with
      | some (_, id, r), some k =>
        let ha := s.field (offATT + 0x20) 47 14 * 2 ^ 14 + k * 16384
        { s.writeRec id { r with loc := 3, haddr := ha } with hpages := hbmTake s.hpages id k r.slotsOf.length }
      | _, _ =>
        if waits && decide (free = 0) then
          (s.setBit (offATT + 0x30) 57).event 4 0 (clusterUnit g) (BitVec.ofNat 64 free) 0#64
        else s

/-- DEMOTION_COMPLETE: the copy of a page to HBM is complete: LOC becomes 2, and its slot is free at the next wave
boundary (R365, R366). -/
def execDemotionComplete (page : BitVec 24) (s : State) : Host.Outcome State Fault Refusal :=
  let id := page.toNat
  .next <|
    if !s.live || !s.pagesGo || (tabGet? s.hpages (2 * id)).isNone then s
    else
      let (r, s) := s.readRec id
      if r.loc ≠ 3 then s
      else
        let n := if r.bf then 32768 else 16384
        let o := s.fieldReadVia (s.downGroups r.pos) r.pos (r.slot * 16384) n
        let fs := o.pois.zipIdx.map fun (p, i) => ({ bytes := (o.bytes.drop (64 * i)).take 64, pois := p } : Delivered)
        let s := o.s.memFlitsFor (mgmtOf 0) 1 r.haddr fs
        { s.writeRec id { r with loc := 2 } with slotNext := s.slotNext ++ r.slotsOf }

/-! Arrivals (R291, R293, R295, R641). -/

/-- FLIT_ARRIVAL: the oldest flit in flight of a stream enters its receive buffer; one that has no path is held (R28, R37, R291,
R436). -/
def execFlitArrival (stream : Nat) (s : State) : Host.Outcome State Fault Refusal :=
  .next <|
    match s.streamDef stream, (s.strm stream).fly with
    | some d, x :: rest =>
      if !s.live || x.path.isNone || !s.mayBuffer stream d then s
      else
        let s := s.setStrm stream { s.strm stream with fly := rest }
        let s := (s.bufferFlit stream d x.flit).keepFlit x.wave stream d x.flit
        (s.afterCore d.cons.val).afterCore d.prod.val
    | _, _ => s

/-- CREDIT_RETURN: a credit reaches the producer of a stream; a boundary flit of a replay that waited for it takes it at
once (R293, R647). -/
def execCreditReturn (stream : Nat) (s : State) : Host.Outcome State Fault Refusal :=
  .next <|
    let r := s.strm stream
    match s.streamDef stream with
    | some d =>
      if !s.live || decide (r.credFly = 0) || (!r.redo.isEmpty && !s.mayBuffer stream d) then s
      else
        match r.redo with
        | f :: rest =>
          ((s.setStrm stream { r with credFly := r.credFly - 1, redo := rest }).bufferFlit stream d f).afterCore d.cons.val
        | [] => (s.setStrm stream { r with credFly := r.credFly - 1, credits := r.credits + 1 }).afterCore d.prod.val
    | none => s

end Sys2Proof.Machine
end

