-- ==== Sys2Proof/Machine/Reset.lean ====
section
/-!
DEFINITION. Reset.lean: the scopes of a device reset and of whole-device recovery, and the start of bring-up (R14, R166,
R167, R589, R590, R596 to R598, R667, R668, R673, R703, R755, R787, R790).
-/
namespace Sys2Proof.Machine

/-- The RWS fields of stored registers: they survive every scope but power-on (R12, R668). -/
def keepRws (regs : List (Nat × Word)) : List (Nat × Word) :=
  regs.foldl (fun acc x =>
    match regRow? x.1 with
    | some r =>
      if r.rws = 0 then acc
      else
        let m := BitVec.ofNat 64 r.rws
        regSet acc x.1 ((x.2 &&& m) ||| (regReset x.1 &&& ~~~ m))
    | none => acc) []

/-- Whether a register keeps its value through whole-device recovery: the rings, the lease, the error records, the seal, the dump,
the clocks, the caps, the sequences and the page pool, the splits, the memory status and the wave report (R14, R167, R550, R631,
R668, R674, R703, R755, R771); RWS fields are kept apart. -/
def keptInRecovery (off : Nat) : Bool :=
  let blk (b : Nat) : Bool := decide (b ≤ off) && decide (off < b + 0x10000)
  (blk offERR && decide (off ≠ offERR + 0x10) && decide (off ≠ offERR + 0x18)) || blk offHQ || blk offSEAL ||
    (blk offCNT && decide (off ≠ offCNT) && decide (off ≠ offCNT + 8)) || blk offTIME || decide (off = offPWR + 8) ||
    decide (off = 0x108) || decide (off = 0x110) || (decide (offATT + 0x10 ≤ off) && decide (off < offATT + 0x8000)) ||
    (decide (0x400000 ≤ off) && decide (off < 0x400000 + 0x270000) && decide (off % 0x1000 = 0x880)) || blk offHBM ||
    (decide (offDDR ≤ off) && decide (off < offDDR + 0x1000))

/-- The lowest of host cap, BMC cap and internal limit; 0 counts as 1,950 W (R701). -/
def effCap (host bmc int : Nat) : Nat :=
  Nat.min int (Nat.min (if host = 0 then 1950 else host) (if bmc = 0 then 1950 else bmc))

/-- Registers after a whole-device recovery begins: of the caps the host's and the BMC's stay (R703); FLHOLD stays, since it reports
a supply (R718); a degraded condition has ended (R318). -/
def recoveryRegs (regs : List (Nat × Word)) : List (Nat × Word) :=
  let kept := keepRws regs
  let regs' := (regs.filter fun x => keptInRecovery x.1).foldl (fun acc x => regSet acc x.1 x.2) kept
  let put (r : List (Nat × Word)) (off hi lo v : Nat) : List (Nat × Word) := regSet r off (putField (regGet r off) hi lo v)
  let cap := regGet regs (offPWR + 8)
  let r := put (regSet regs' (offERR + 0x20) 0#64) (offERR + 8) 2 0 2
  let r := put (put r (offPWR + 8) 47 32 1950) (offPWR + 8) 63 48 (effCap (fieldOf cap 15 0) (fieldOf cap 31 16) 1950)
  put (put r (offPWR + 0x10) 23 23 (fieldOf (regGet regs (offPWR + 0x10)) 23 23)) 0x108 49 49 0

/-- Power control after a whole-device recovery begins: what it regulates by starts anew; the cap in use (R701), orders held (R545),
records held for flash (R610), energy below one count, and the thermal cycle in progress (R779) stay. -/
def Power.recovered (p : Power) : Power :=
  { State.reset.power with
    hold := p.hold, energy := p.energy, flashOk := p.flashOk, flashQ := p.flashQ, warm := p.warm, capUsed := p.capUsed }

/-- Stage 0 begins once RESET_L and PWRGD_IN are high and REFCLK is present (R589); the rails are then on. -/
def State.tryStage0 (s : State) : State :=
  if s.boot.running.isNone && decide (s.field offBOOT 3 0 = 0) && !s.bit offBOOT 4 && s.pins.resetL && s.pins.pwrgd &&
      s.pins.refclk && !s.pins.faultL && !s.pins.thermL then
    { s with boot := { s.boot with running := some 0, rails := true } }
  else s

/-- The reset cause in BOOT_STAT (R620). -/
def State.putCause (s : State) (cause : Nat) : State :=
  { s with boot := { s.boot with cause := cause } }.setField offBOOT 10 8 cause

/-- The BMC cap survives RESET_L, and is the effective cap then (R701, R703). -/
def State.keepBmcCap (s : State) (w : Nat) : State :=
  let s := (s.setField (offPWR + 8) 31 16 w).setField (offPWR + 8) 63 48 (effCap 0 w 1950)
  { s with power := { s.power with capUsed := effCap 0 w 1950 } }

/-- The state after a device reset with cause 0 (power-on) or 1 (RESET_L), before stage 0: what is kept is the queue, the
world outside, the flash, retention SRAM on VAUX, the pins as driven from outside, and for cause 1 the RWS fields and the BMC
cap (R668, R703, R787, R794). -/
def State.deviceReset (s : State) (cause : Nat) : State :=
  let regs := if cause = 1 then keepRws s.regs else []
  let pins := { State.reset.pins with
    resetL := s.pins.resetL, pwrgd := s.pins.pwrgd, refclk := s.pins.refclk, perstA := s.pins.perstA,
    perstB := s.pins.perstB, vaux := s.pins.vaux }
  let n : State := { State.reset with
    pending := s.pending, regs := regs, host := s.host, flash := s.flash, grain := s.flash.grain.getD GrainMap.identity,
    pins := pins, freeCtr := s.freeCtr, cnt := { State.reset.cnt with life := s.flash.life }, outbox := { s.outbox with msixDue := [] },
    boot := { State.reset.boot with running := none, trip := s.boot.trip, rails := s.boot.rails } }
  let n := if cause = 1 then n.keepBmcCap (s.field (offPWR + 8) 31 16) else n
  let n := if cause = 0 then n.setReg (offLANE + 0x10) (s.flash.laneNext.getD 0x11111111#64) else n
  let n := (n.setReg (offTIME + 0x10) s.flash.anchHost).setReg (offTIME + 0x18) s.flash.anchDev
  n.putCause cause

/-- A descriptor of a log that recovery replays: it starts again unless it has taken effect (R262). -/
def Desc.again (d : Desc) : Desc := if d.copied then d else { d with started := false, phase := 0, frames := 0, ptag := 0, status := 0 }

/-- A tier mover restarted over its logs. -/
def Mover.again (m : Mover) : Mover := { m with q := m.q.map fun l => l.map Desc.again }

/-- The positions of a sequence that a lost prefill wave carried are to be prefilled again. -/
def Wave.giveBack (w : Wave) (i : Nat) (q : Sequence) : Sequence :=
  if !w.prefill || w.regen.isSome then q
  else { q with filled := (w.lanes.filter fun x => decide (x.2.1 = i)).foldl (fun m x => Nat.min m x.2.2) q.filled }

/-- A split change in progress is cut short: FPROP keeps the value written, which is in force from then on since the fields are
zeroed and the slices empty, and PEND clears; the spec says nothing of such a change (R134, R167; DESIGN CHOICE,
notes/assumptions/80.md). Whole-device recovery begins: every unit is reset, bring-up runs again from stage 0, and what R668 keeps is kept. -/
def State.startRecovery (s : State) : State :=
  if s.boot.recovering then { s with boot := { s.boot with running := some 0, locks := 0#12, trained := [], ddrKey := [] } }
  else
    let n : State := { s with
      regs := recoveryRegs s.regs, cmem := Store.empty, cores := [], streams := [], reqs := [], lines := [], evicts := [],
      fills := [], plru := [], setAcc := [], thrash := [], flushes := [], ctls := [], steps := [], restored := [], badAgain := [], splits := [],
      movers := s.movers.map fun (x : Nat × Mover) => (x.1, x.2.again),
      pipes := s.pipes.map fun (x : Nat × Pipe) => (x.1, { Pipe.zero with reserve := x.2.reserve }),
      waves := [], measure := [], degCl := [], peerRx := [], quads := [], power := s.power.recovered, failover := [], failed := [], resume := [], regenPos := [],
      seqs := s.seqs.map fun (x : Nat × Sequence) => (x.1, s.waves.foldl (fun q w => w.giveBack x.1 q) x.2),
      log := s.log.map fun e => if e.isOpen then { e with replayed := true } else e,
      boot := { s.boot with running := some 0, recovering := true, sysLost := [], memLost := [], locks := 0#12, trained := [],
                            ddrKey := [] } }
    n.putCause 2

/-! Rails and pins (R693, R715, R790, R791). -/

/-- The rails that the 6 V bus feeds turn off: every state they hold is lost (R790). -/
def State.railsOff (s : State) : State :=
  let n := s.deviceReset 0
  { n with boot := { n.boot with rails := false } }

end Sys2Proof.Machine
end

