-- ==== Sys2Proof/Machine/Flash.lean ====
section
/-!
DEFINITION. Flash.lean: records in the board flash: settings, grain map, life record and event log (R585, R608 to R610, R614,
R683, R716, R718, R779, R780).
-/
namespace Sys2Proof.Machine

/-- PWR_STAT. -/
def offPSTAT : Nat := offPWR + 0x10

/-- Whether flash writes are held off (R718). -/
def State.flashHeld (s : State) : Bool := s.bit offPSTAT 23

/-! Life counters (R761, R779). -/

/-- A life counter. -/
def State.lifeOf (s : State) (i : Nat) : Nat := (tabGetD s.cnt.life i 0#64).toNat

/-- Set a life counter. -/
def State.setLife (s : State) (i n : Nat) : State := { s with cnt := { s.cnt with life := tabSet s.cnt.life i (BitVec.ofNat 64 n) } }

/-- Add to a life counter, which stays at its largest value. -/
def State.addLife (s : State) (i n : Nat) : State := s.setLife i (Nat.min (2 ^ 64 - 1) (s.lifeOf i + n))

/-- A millisecond of a counter of seconds. -/
def State.addMs (s : State) (i : Nat) : State :=
  let m := tabGetD s.cnt.lifeMs i 0 + 1
  let s := { s with cnt := { s.cnt with lifeMs := tabSet s.cnt.lifeMs i (m % 1000) } }
  if m < 1000 then s else s.addLife i 1

/-! Records with two copies (R609, R610). -/

/-- The generations after a write: the copy with the older one is written. -/
def nextGen (g : Nat × Nat) : Nat × Nat := if g.2 < g.1 then (g.1, g.1 + 1) else (g.2 + 1, g.2)

/-- Write a record: 0 the grain map, 1 the settings with LANE_NEXT and the new setting of each interface fully trained (R605), 2 the
life record; each erases the sectors of a copy. -/
def State.putRecord (s : State) (k : Nat) : State :=
  let s := { s with power := { s.power with flashQ := s.power.flashQ.filter (· ≠ k) } }
  match k with
  | 0 => State.addLife { s with flash := { s.flash with grain := some s.grain, genG := nextGen s.flash.genG } } 15 16
  | 1 =>
    State.addLife { s with
      flash := { s.flash with settings := true, laneNext := some (s.reg (offLANE + 0x10)), genS := nextGen s.flash.genS,
                              saved := s.boot.trained.foldl (fun t x => tabSet t x.1 x.2) s.flash.saved },
      boot := { s.boot with trained := [] } } 15 32
  | _ =>
    let s := s.addLife 15 8
    { s with flash := { s.flash with life := s.cnt.life, anchHost := s.reg (offTIME + 0x10), anchDev := s.reg (offTIME + 0x18) } }

/-- MC0 writes a record, or keeps it in the system area while flash writes are held off (R610, R718). -/
def State.writeRecord (s : State) (k : Nat) : State :=
  if s.flashHeld then { s with power := { s.power with flashQ := natInsert s.power.flashQ k } } else s.putRecord k

/-- FLASH_RECORD_WRITE: the settings or the grain map (R609, R614). -/
def execFlashRecordWrite (settings : Bool) (s : State) : Host.Outcome State Fault Refusal :=
  .next (if s.boot.rails then s.writeRecord (flag settings) else s)

/-- LIFE_RECORD_WRITE (R779). -/
def execLifeRecordWrite (s : State) : Host.Outcome State Fault Refusal :=
  .next (if s.boot.rails then s.writeRecord 2 else s)

/-- FLASH_WRITE_RESUME: the supplies have been good for 10 ms: FLHOLD clears and the records held are written (R718). -/
def execFlashWriteResume (s : State) : Host.Outcome State Fault Refusal :=
  .next <|
    if !s.flashHeld || decide (s.power.flashOk < 1000) then s
    else s.power.flashQ.foldl State.putRecord (s.clearBit offPSTAT 23)

/-! The event log (R683, R780). -/

/-- CRC-32C of a byte string (R577). -/
def crc32cOf (bs : List Byte) : Nat := crcOf crc32c bs

/-- The 64 bytes of a flash entry. -/
def logBytes (n ty : Nat) (ws : List Word) : List Byte :=
  let body := leBytes 6 n ++ leBytes 1 ty ++ [0#8] ++ padTo 52 (padTo 40 (ws.flatMap fun w => leBytes 8 w.toNat))
  body ++ leBytes 4 (crc32cOf body)

/-- Entries of the flash event log, and of one sector. -/
def logEntries : Nat := 404480
/-- Entries of a 64 KiB sector. -/
def sectorEntries : Nat := 1024

/-- Append one entry; a full log loses its oldest sector. -/
def State.logEntry (s : State) (x : Nat × List Word) : State :=
  let full := decide (logEntries ≤ s.flash.events.length)
  let old := if full then s.flash.events.drop sectorEntries else s.flash.events
  let n := s.flash.nextEvent
  let s := { s with flash := { s.flash with events := old ++ [(n, logBytes n x.1 x.2)], nextEvent := n + 1 } }
  if full then s.addLife 15 1 else s

/-- Copy the new entries of the event log buffer to flash, unless writes are held off (R678, R683). -/
def State.copyLog (s : State) : State :=
  if s.flashHeld then s else s.evLog.foldl State.logEntry { s with evLog := [] }

end Sys2Proof.Machine
end

