-- ==== Sys2Proof/Machine/Power.lean ====
section
/-!
DEFINITION. Power.lean: caps, bubbles, slowing, hints, chatter, phases, modules, the trip and flash hold-off (R545, R690 to
R734).
-/
namespace Sys2Proof.Machine

/-! Set-points (R691, R696, R708, R726). -/

/-- The set-point of VCOR_T of a stack in mV: 0.70 V raised by chatter and hint, at most 0.78 V. -/
def State.setPoint (s : State) (st : Fin 4) : Nat := Nat.min 780 (700 + s.power.setRaise[st] + s.power.hintRaise)

/-- Nominal rail voltages in mV, by rail code. -/
def railNominal : List Nat := [700, 750, 750, 750, 1050, 900, 3300, 1800]

/-- PWR_RAIL of a stack and rail. -/
def offRail (st r : Nat) : Nat := offPWR + 0x100 + 0x40 * st + 8 * r
/-- PWR_PH of a stack. -/
def offPhase (st : Nat) : Nat := offPWR + 0x200 + 8 * st

/-! Caps (R700 to R703, R719, R721). -/

/-- PWR_CAP. -/
def offCAP : Nat := offPWR + 8

/-- The effective cap in W. -/
def State.cap (s : State) : Nat := s.field offCAP 63 48

/-- Form the effective cap anew; a change sends CAPCHG (R701, R734). -/
def State.updateCap (s : State) : State :=
  let old := s.cap
  let new := effCap (s.field offCAP 15 0) (s.field offCAP 31 16) (s.field offCAP 47 32)
  if new = old then s
  else (s.setField offCAP 63 48 new).event 6 1 0#64 (BitVec.ofNat 64 new) (BitVec.ofNat 64 old)

/-- Whether a value is a cap (R700). -/
def capOk (w : Nat) : Bool := w = 0 || (decide (900 ≤ w) && decide (w ≤ 1950))

/-- Take a cap from the host (false) or the BMC (true): recorded in PWR_CAP and in the event log with master and time. -/
def State.takeCap (s : State) (bmc : Bool) (w : Nat) : State :=
  let s := if bmc then s.setField offCAP 31 16 w else s.setField offCAP 15 0 w
  State.updateCap { s with evLog := s.evLog ++ [(1, [0x0106#64, s.now, BitVec.ofNat 64 (1 + flag bmc), BitVec.ofNat 64 w, 0#64])] }

/-- The internal limit: 20 W less for each shed phase, 170 W for each module lost beyond the first of a stack, at least
900 W (R702). -/
def State.internalLimit (s : State) : Nat :=
  let shed := (List.range 4).foldl (fun acc st => acc + onesIn 32 (s.field (offPhase st) 31 0)) 0
  let lost := (List.range 4).foldl (fun acc st => acc + (onesIn 4 (s.field (offPhase st) 39 36) - 1)) 0
  Nat.max 900 (1950 - 20 * shed - 170 * lost)

/-- Form the internal limit and the effective cap anew. -/
def State.updateLimit (s : State) : State := (s.setField offCAP 47 32 s.internalLimit).updateCap

/-! Safety actions and the orders that they hold (R545, R714, R719). -/

/-- Whether a safety action holds (R693, R707, R713, R714). -/
def State.safety (s : State) : Bool := s.power.uv || s.power.exc || decide (0 < s.power.thermSkip)

/-- A host hint is taken (R709): idle acts at once, the others at the next wave start. -/
def State.takeHint (s : State) (kind : Nat) (tokens : BitVec 32) : State :=
  if kind = 2 then { s with power := { s.power with idleShed := true, duty := 0, hostHint := none } }
  else { s with power := { s.power with hostHint := some (kind, tokens) } }

/-- Apply an order that a safety action held: 0 host cap, 1 BMC cap, 2 hint. -/
def State.applyOrder (s : State) (o : Nat × Nat) : State :=
  match o.1 with
  | 0 => s.takeCap false o.2
  | 1 => s.takeCap true o.2
  | _ => s.takeHint (o.2 % 4) (BitVec.ofNat 32 (o.2 / 4))

/-- Orders held take effect when the safety action ends. -/
def State.releaseOrders (s : State) : State :=
  if s.safety then s else s.power.hold.foldl State.applyOrder { s with power := { s.power with hold := [] } }

/-- Record an order under a safety action, with an error record of kind 13 (R545). -/
def State.holdOrder (s : State) (kind v : Nat) : State :=
  { s with power := { s.power with hold := s.power.hold ++ [(kind, v)] } }.errRec 13 0 0#64 0

/-- A cap order: one that would raise the effective cap under a safety action is held. -/
def State.orderCap (s : State) (bmc : Bool) (w : Nat) : State :=
  let host := if bmc then s.field offCAP 15 0 else w
  let b := if bmc then w else s.field offCAP 31 16
  if s.safety && decide (s.cap < effCap host b (s.field offCAP 47 32)) then s.holdOrder (flag bmc) w
  else s.takeCap bmc w

/-- A host hint order; under a safety action it is held. -/
def State.orderHint (s : State) (kind : Nat) (tokens : BitVec 32) : State :=
  if s.safety then s.holdOrder 2 (tokens.toNat * 4 + kind) else s.takeHint kind tokens

/-! Slowing (R705, R706, R713). -/

/-- Skip steps in force (R713). -/
def State.skipSteps (s : State) : Nat := Nat.min 8 (s.power.capSkip + s.power.thermSkip)

/-- Whether ACLK is slowed by the cap controller. -/
def Power.slowed (p : Power) : Bool := p.divided || decide (0 < p.capSkip)

/-- Change the power state; entering or leaving a slowed state sends SLOW (R706). -/
def State.withSlow (s : State) (p : Power) : State :=
  let was := s.power.slowed
  let s := { s with power := p }
  let v : Nat := if p.divided then 0x100 else p.capSkip
  if p.slowed = was then s else s.event 6 2 0#64 (BitVec.ofNat 64 v) (BitVec.ofNat 64 (flag was))

/-! Hints at a wave start (R709). -/

/-- What a wave start does to hints: idle phases return, and a host hint presets the duty. -/
def State.hintAtWave (s : State) (prefill : Bool) : State :=
  let s := { s with power := { s.power with idleShed := false } }
  match s.power.hostHint with
  | some (0, _) =>
    if prefill then
      { s with power := { s.power with hostHint := none, duty := s.field (offPWR + 0x28) 5 0,
                                       hintRaise := s.field (offPWR + 0x28) 23 16, hintRise := some (s.time + 8000) } }
    else s
  | some (1, _) =>
    if prefill then s else { s with power := { s.power with hostHint := none, duty := s.field (offPWR + 0x28) 13 8 } }
  | _ => s

/-- HINT: only those of context D of S0.C0.K0 act; a reserved KIND is illegal (R391, R708). -/
def execHint (u : Issue) (f : Fields) (s : State) : Host.Outcome State Fault Refusal :=
  .next <| s.issue u f { noUse with rsv := ones 33 32 } fun s =>
    let kind := immBits f 31 28
    let lead := immBits f 27 0
    if 2 < kind then .fault s fILL
    else if u.core.val ≠ 0 ∨ u.ctx ≠ .d then .next s
    else
      let p := s.power
      match kind with
      | 0 => .next { s with power := { p with idleShed := false, hintRaise := s.field (offPWR + 0x28) 23 16,
                                              hintRise := some (s.time + 2 * lead + 8000) } }
      | 1 => .next { s with power := { p with hintFall := some (s.time + lead) } }
      | _ => .next { s with power := { p with hintRaise := 0, hintRise := none, hintFall := none } }

/-- HINT_LEAD_EXPIRY: the pending fall or the end of a rise that is due first: the set-point returns to its value without
the hint (R708). -/
def execHintLeadExpiry (s : State) : Host.Outcome State Fault Refusal :=
  let p := s.power
  .next <|
    match p.hintFall, p.hintRise with
    | none, none => s
    | some a, some b =>
      { s with power := if a ≤ b then { p with hintFall := none, hintRaise := 0 } else { p with hintRise := none, hintRaise := 0 } }
    | _, _ => { s with power := { p with hintFall := none, hintRise := none, hintRaise := 0 } }

/-! Chatter (R695). -/

/-- CHATTER: ACLK of a top die skips 64 A-cycles, and its count rises (R695, R728). -/
def execChatter (stack : Fin 4) (s : State) : Host.Outcome State Fault Refusal :=
  let lo := 8 * stack.val
  .next <|
    if !s.boot.rails then s
    else
      let n := s.field (offPWR + 0x300) (lo + 7) lo
      let s := s.setField (offPWR + 0x300) (lo + 7) lo (Nat.min 255 (n + 1))
      { s with power := { s.power with chatter := s.power.chatter ||| BitVec.twoPow 4 stack.val } }

/-! A window (R693, R697 to R711, R718). -/

/-- Record the measurements of a window (R699, R723, R724, R726, R762). -/
def State.recordWindow (s : State) (m : PowerSample) : State :=
  let s := s.setField (offPWR + 0x18) 23 0 m.p
  let s := s.setField (offPWR + 0x18) 47 24 (Nat.max (s.field (offPWR + 0x18) 47 24) (m.p % 2 ^ 24))
  let s := s.setReg (offPWR + 0x20) (BitVec.ofNat 64 (m.vaux % 65536 * 65536 + m.vin % 65536))
  m.rails.foldl (fun s x =>
    let (st, r, v, i) := x
    if 4 < r.val ∧ st.val ≠ 0 then s
    else
      let key := 8 * st.val + r.val
      let e := tabGetD s.power.energy key 0 + v * i
      let s := (s.setField (offRail st.val r.val) 15 0 v).setField (offRail st.val r.val) 31 16 i
      { s with power := { s.power with energy := tabSet s.power.energy key (e % 800000) } }.count (0x800 + st.val) (r.val + 1)
        (e / 800000)) s

/-- VIN below 40 V: a safety action, released after 1 ms at 41 V (R693); above 58 V an event. -/
def State.watchVin (s : State) (vin before : Nat) : State :=
  let s :=
    if vin < 40000 then
      let fresh := !s.power.uv
      let p := s.power
      let s := s.withSlow { p with uv := true, uvOk := 0, duty := 48, capSkip := 8 }
      if fresh then (s.setBit (offPWR + 0x10) 21).event 6 6 0#64 (BitVec.ofNat 64 vin) 0#64 else s
    else if !s.power.uv then s
    else if vin < 41000 then { s with power := { s.power with uvOk := 0 } }
    else if s.power.uvOk + 1 < 100 then { s with power := { s.power with uvOk := s.power.uvOk + 1 } }
    else { s with power := { s.power with uv := false, uvOk := 0 } }.event 6 6 0#64 (BitVec.ofNat 64 vin) 1#64
  if 58000 < vin ∧ before ≤ 58000 then (s.setBit (offPWR + 0x10) 22).event 6 7 0#64 (BitVec.ofNat 64 vin) 0#64 else s

/-- The bubble duty after a window (R704, R706): p in 0.125 W, the cap in W. -/
def nextDuty (d p cap g h : Nat) (mayFall : Bool) : Nat :=
  let c := 8 * cap
  if c < p then Nat.min 48 (d + (64 * (if g = 0 then 1 else g) * (p - c) + c - 1) / c)
  else if p * 1000 < c * (1000 - h) ∧ 0 < d ∧ mayFall then d - 1
  else d

/-- The controller at the end of a window, with the effective cap that the window began with (R701): duty, skip or divide, release, excursion (R704 to R707). -/
def State.control (s : State) (p : Nat) : State :=
  let q := s.power
  let cap := q.capUsed
  let h := s.field offPWR 15 8
  let above8 := decide (8 * cap < p)
  let low := decide (p * 1000 < 8 * cap * (1000 - h))
  let full := if q.duty = 48 then q.full + 1 else 0
  let below := if low then q.below + 1 else 0
  let above := if above8 then q.above + 1 else 0
  let duty := if q.uv then 48 else nextDuty q.duty p cap (s.field offPWR 3 0) h (!q.slowed)
  let q' := { q with duty := duty, full := full, below := below, above := above }
  let q' := if above8 && decide (10 ≤ full) then
      (if s.bit offPWR 24 then { q' with divided := true } else { q' with capSkip := Nat.min 8 (q.capSkip + 1) })
    else if decide (10 ≤ below) && !q.uv then { q' with divided := false, capSkip := q.capSkip - 1 }
    else q'
  let q' := { q' with exc := q'.exc && decide (0 < q'.capSkip) }
  if decide (18400 < p) || decide (1000 ≤ above) then
    let s := s.withSlow { q' with duty := 48, capSkip := 8, exc := true, above := 0 }
    (s.setBit (offPWR + 0x10) 18).event 6 8 0#64 (BitVec.ofNat 64 p) (BitVec.ofNat 64 (above * 8000))
  else s.withSlow q'

/-- A phase of a stack suspected of a crack is shed (R697, R698). -/
def State.shedPhase (s : State) (st i : Nat) : State :=
  let s := (s.setBit (offPhase st) i).setBit (offPWR + 0x10) 19
  (s.event 6 4 (BitVec.ofNat 64 (8 * st)) (BitVec.ofNat 64 i) (BitVec.ofNat 64 st)).updateLimit

/-- Compare the phases of a stack: below half the mean of the others in three samples in a row, at a load of at least a
quarter of the stack's share at TDP, 350 A (R697). -/
def State.watchPhases (s : State) (st : Fin 4) (cur : List Nat) : State :=
  let load := cur.foldl (· + ·) 0
  let shed (s : State) (i : Nat) : Bool := s.bit (offPhase st.val) i
  let others := (List.range 32).filter fun i => !shed s i
  let below (i : Nat) : Bool :=
    let rest := (others.filter (· ≠ i)).map fun j => cur.getD j 0
    decide (700 ≤ load) && others.contains i && decide (2 * cur.getD i 0 * rest.length < rest.foldl (· + ·) 0)
  let n := (List.range 32).map fun i => if below i then s.power.low[st].getD i 0 + 1 else 0
  let s := { s with power := { s.power with low := s.power.low.set st (n.map fun k => k % 3) } }
  (n.zipIdx.filter fun x => decide (x.1 = 3)).foldl (fun s x => s.shedPhase st.val x.2) s

/-- Learned duties: a period of prefill-only or decode-only waves that ends leaves its steady duty (R710). -/
def State.learn (s : State) : State :=
  let kind : Option Bool :=
    if s.waves.isEmpty then none
    else if s.waves.all (·.prefill) then some true
    else if s.waves.all (fun w => !w.prefill) then some false
    else none
  let q := s.power
  if kind = q.lastKind then
    let n := if q.steady.1 = q.duty then q.steady.2 + 1 else 1
    { s with power := { q with steady := (q.duty, n), heldDuty := if 10 ≤ n then some q.duty else q.heldDuty } }
  else
    let s := match q.lastKind, q.heldDuty with
      | some true, some d => s.setField (offPWR + 0x28) 5 0 d
      | some false, some d => s.setField (offPWR + 0x28) 13 8 d
      | _, _ => s
    { s with power := { s.power with lastKind := kind, steady := (q.duty, 1), heldDuty := none } }

/-- Flash writes are held off below 42 V of VIN or 3.1 V of VAUX; the time since recovery is counted in windows (R718). -/
def State.watchFlash (s : State) (vin vaux : Nat) : State :=
  if vin < 42000 ∨ vaux < 3100 then { s with power := { s.power with flashOk := 0 } }.setBit (offPWR + 0x10) 23
  else if vin < 43000 ∨ vaux < 3150 then { s with power := { s.power with flashOk := 0 } }
  else { s with power := { s.power with flashOk := s.power.flashOk + 1 } }

/-- VIN below 38 V for 50 µs or below 36 V: the rails turn off and FAULT_L is asserted (R693, R791). -/
def State.vinLost (s : State) : State :=
  let s := s.railsOff
  { s with pins := { s.pins with faultL := true } }

/-- The next window begins: the effective cap of now is the one that the controller applies at its end (R701). -/
def State.nextWindow (s : State) : State := { s with power := { s.power with capUsed := s.cap } }

/-- POWER_WINDOW: the end of a 10 µs window (R693, R697 to R707, R710, R718). -/
def execPowerWindow (m : PowerSample) (s : State) : Host.Outcome State Fault Refusal :=
  .next <|
    if !s.boot.rails then s
    else
      let before := s.field (offPWR + 0x20) 15 0
      let s := s.recordWindow m
      let lowN := if m.vin < 38000 then s.power.vinLow + 1 else 0
      let s := { s with power := { s.power with vinLow := lowN } }
      if m.vin < 36000 ∨ 5 ≤ lowN then s.vinLost
      else
        let s := (s.watchVin m.vin before).control m.p
        let s := if s.power.idleShed then s
          else (List.range 4).foldl (fun s i => s.watchPhases (Fin.ofNat 4 i) (m.phases.getD i [])) s
        ((s.learn.watchFlash m.vin m.vaux).releaseOrders).nextWindow

/-- MODULE_LOSS: a converter module turns off (R702, R711). -/
def execModuleLoss (mdl : Fin 16) (s : State) : Host.Outcome State Fault Refusal :=
  let st := mdl.val / 4
  .next <|
    if !s.boot.rails || s.bit (offPhase st) (36 + mdl.val % 4) then s
    else
      let s := (s.setBit (offPhase st) (36 + mdl.val % 4)).setBit (offPWR + 0x10) 20
      if s.field (offPhase st) 39 36 = 15 then s.vinLost
      else
        let s := s.setField offCAP 47 32 s.internalLimit
        (s.event 6 5 0#64 (BitVec.ofNat 64 mdl.val) (BitVec.ofNat 64 (s.field offCAP 47 32))).updateCap

/-! The trip (R715, R716). -/

/-- THERMAL_TRIP: two samples of a diode at or above 118 °C (944 in 0.125 °C): THERMTRIP_L, the trip record in retention
SRAM, and the rails off (R715). -/
def execThermalTrip (die : Fin 12) (temp : BitVec 16) (s : State) : Host.Outcome State Fault Refusal :=
  .next <|
    if !s.boot.rails || decide (temp.toInt < 944) then s
    else
      let stage := match s.boot.running with
        | some k => k
        | none => s.field offBOOT 3 0
      let r : TripRec := { die := die.val, temp := temp, time := s.now, stage := stage }
      let s := s.railsOff
      { s with pins := { s.pins with thermL := true },
               boot := { s.boot with trip := if s.pins.vaux then some r else none } }

/-- BMC_CAP: the BMC's cap over MCTP; any other value is refused with an MCTP error (R700, R701). -/
def execBmcCap (watts : BitVec 16) (s : State) : Host.Outcome State Fault Refusal :=
  .next <|
    if capOk watts.toNat then s.orderCap true watts.toNat
    else { s with outbox := { s.outbox with mctp := s.outbox.mctp ++ [[0xFF#64, watts.setWidth 64]] } }

end Sys2Proof.Machine
end

