-- ==== Sys2Proof/Machine/Link.lean ====
section
/-!
DEFINITION. Link.lean: the Ubon link: frames, credits, sequence numbers, routes and forwarding (R556 to R572, R583 to
R587).
-/
namespace Sys2Proof.Machine

/-! Frames (R563). -/

/-- CRC-64 of frames. -/
def crcFrame : CrcCfg :=
  { width := 64, poly := 0x42F0E1EBA9EA3693, init := 0, refIn := false, refOut := false, xorOut := 0 }

/-- The first 280 bytes of a frame. -/
def Frame.body (f : Frame) : List Byte :=
  leBytes 1 f.ty ++ leBytes 1 (f.vc + f.set * 4) ++ leBytes 1 f.dst ++ leBytes 1 f.src ++ leBytes 2 f.seq ++
    leBytes 2 (f.lack + flag f.nak * 2 ^ 15) ++ leBytes 2 f.cred ++ leBytes 1 f.pois.toNat ++
    leBytes 1 f.flags.toNat ++ leBytes 4 f.tag ++ leBytes 8 f.addr ++ padTo 256 f.payload

/-- The 288 bytes of a frame. -/
def Frame.bytes (f : Frame) : List Byte := f.body ++ leBytes 8 (crcOf crcFrame f.body)

/-- The frame that 288 bytes spell; none when the CRC does not match. -/
def Frame.of (bs : List Byte) : Option Frame :=
  let at_ (i n : Nat) : Nat := leNat ((bs.drop i).take n)
  if crcOf crcFrame (bs.take 280) ≠ at_ 280 8 then none
  else
    some { ty := at_ 0 1, vc := at_ 1 1 % 4, set := at_ 1 1 / 4 % 2, dst := at_ 2 1 % 64, src := at_ 3 1 % 64,
           seq := at_ 4 2 % 4096, lack := at_ 6 2 % 4096, nak := decide (32768 ≤ at_ 6 2), cred := at_ 8 2,
           pois := BitVec.ofNat 4 (at_ 10 1), flags := BitVec.ofNat 3 (at_ 11 1), tag := at_ 12 4,
           addr := at_ 16 8 % 2 ^ 48, payload := (bs.drop 24).take 256, first := false }

/-- A frame with everything zero. -/
def Frame.zero : Frame :=
  { ty := 0, vc := 0, set := 0, dst := 0, src := 0, seq := 0, lack := 0, nak := false, cred := 0, pois := 0#4,
    flags := 0#3, tag := 0, addr := 0, payload := [], first := false }

/-! Quads (R556 to R567, R586). -/

/-- Status register of quad q (R586). -/
def offQuad (q : Nat) : Nat := offLANE + 0x100 + 0x10 * q

/-- Route entry of device d (R587). -/
def offRoute (d : Nat) : Nat := offLANE + 0x400 + 8 * d

/-- Quad q at run time. -/
def State.quad (s : State) (q : Nat) : Quad := tabGetD s.quads q Quad.zero

/-- Set quad q. -/
def State.setQuad (s : State) (q : Nat) (x : Quad) : State := { s with quads := tabSet s.quads q x }

/-- Whether a quad is up. -/
def State.quadUp (s : State) (q : Nat) : Bool := decide (s.field (offQuad q) 1 0 = 2)

/-- This device's ID (R583). -/
def State.deviceId (s : State) : Nat := s.field offLANE 5 0

/-- The key of a virtual channel and set. -/
def Frame.channel (f : Frame) : Nat := 2 * f.vc + f.set

/-- Frames leave a quad to the outside. -/
def State.emit (s : State) (q : Nat) (bytes : List Byte) : State :=
  { s with outbox := { s.outbox with frames := s.outbox.frames ++ [(q, bytes)] } }

/-- Stamp a frame of this device in the trace ring: kinds 1 and 2 sent, 3 and 4 received (R778). -/
def State.stamp (s : State) (f : Frame) (q first : Nat) : State :=
  if f.ty ≠ 1 then s
  else
    let s := if f.first then s.trace first f.tag f.dst f.src q else s
    if f.flags.getLsbD 0 then s.trace (first + 1) f.tag f.dst f.src q else s

/-- Send a sequenced frame on quad q: sequence number, LACK, replay buffer, credit (R564, R565). -/
def State.transmit (s : State) (q : Nat) (f : Frame) : State :=
  let x := s.quad q
  let f := { f with seq := x.txSeq.toNat, lack := x.rxSeq.toNat }
  let x := { x with txSeq := x.txSeq + 1#12, replay := x.replay ++ [(f, 0)],
                    credits := tabSet x.credits f.channel (tabGetD x.credits f.channel 0 + 1) }
  let s := (s.setQuad q x).emit q f.bytes
  if f.src = s.deviceId then s.stamp f q 1 else s

/-- Whether quad q may send a frame now: a credit of its channel and replay space. -/
def Quad.maySend (x : Quad) (f : Frame) : Bool :=
  decide (tabGetD x.credits f.channel 0 < 32) && decide (x.replay.length < 64)

/-- Send the frames that wait on a quad, in order, while they may go. -/
def State.pumpQuad (s : State) (q : Nat) : Nat → State
  | 0 => s
  | fuel + 1 =>
    let x := s.quad q
    match x.queue with
    | [] => s
    | f :: rest =>
      if s.quadUp q && x.maySend f then ((s.setQuad q { x with queue := rest }).transmit q f).pumpQuad q fuel else s

/-- Put a frame on quad q. -/
def State.putFrame (s : State) (q : Nat) (f : Frame) : State :=
  let x := s.quad q
  (s.setQuad q { x with queue := x.queue ++ [f] }).pumpQuad q 64

/-- The up quads toward device d (R569). -/
def State.routeQuads (s : State) (d : Nat) : List Nat :=
  (List.range 8).filter fun q => s.bit (offRoute d) q && s.quadUp q

/-- Send a frame toward its destination: the next up quad of the entry in rotation, VC set 1 where DL is set (R569,
R570). The flag says that the destination has an up quad. -/
def State.route (s : State) (f : Frame) : Bool × State :=
  match s.routeQuads f.dst with
  | [] => (false, s)
  | qs =>
    let f := if s.bit (offRoute f.dst) 8 then { f with set := 1 } else f
    let q := qs.getD (s.rotor % qs.length) 0
    (true, { s with rotor := s.rotor + 1 }.putFrame q f)

/-- Send a CTRL frame: link acknowledgement, NAK, and a credit of a channel and set (R563 to R565). -/
def State.sendCtrl (s : State) (q : Nat) (nak : Bool) (credit : Option Frame) : State :=
  let x := s.quad q
  let f := { Frame.zero with
    ty := 3, src := s.deviceId, seq := x.txSeq.toNat, lack := x.rxSeq.toNat, nak := nak,
    set := credit.elim 0 (·.set), cred := credit.elim 0 fun c => 2 ^ (4 * c.vc) }
  s.emit q f.bytes

/-- The transfer is refused while sealed: the peer is not in the manifest (R751). -/
def State.peerShut (s : State) (d : Nat) : Bool := s.isSealed && !(s.trust.peers.any fun p => decide (p.val = d))

end Sys2Proof.Machine
end

