-- ==== Sys2Proof/Machine/Tier.lean ====
section
/-!
DEFINITION. Tier.lean: the tier movers (R253 to R264), TMV (R423, R439), peer writes as descriptors (R568, R572, R579,
R580) and the fill of DDR5 chunks (R249, R267, R269).
-/
namespace Sys2Proof.Machine

/-! Descriptors (R254, R568). -/

/-- KIND. -/
def Desc.kind (d : Desc) : Nat := fieldOf d.w.w0 7 0
/-- CLASS. -/
def Desc.cls (d : Desc) : Nat := fieldOf d.w.w0 10 8
/-- BACK. -/
def Desc.back (d : Desc) : Bool := bitOf d.w.w0 11
/-- UPD. -/
def Desc.upd (d : Desc) : Bool := bitOf d.w.w0 12
/-- ORD. -/
def Desc.ord (d : Desc) : Bool := bitOf d.w.w0 13
/-- ALT, where ALTV is set. -/
def Desc.alt (d : Desc) : Option Nat := if bitOf d.w.w0 14 then some (fieldOf d.w.w3 47 0) else none
/-- TAG. -/
def Desc.tag (d : Desc) : Nat := fieldOf d.w.w0 31 16
/-- The length in bytes. -/
def Desc.len (d : Desc) : Nat := (fieldOf d.w.w0 55 32 + 1) * 256
/-- SRC. -/
def Desc.srcA (d : Desc) : Nat := fieldOf d.w.w1 47 0
/-- DST. -/
def Desc.dstA (d : Desc) : Nat := fieldOf d.w.w2 47 0
/-- UADDR. -/
def Desc.uaddr (d : Desc) : Nat := fieldOf d.w.w4 47 0
/-- PEER. -/
def Desc.peer (d : Desc) : Nat := fieldOf d.w.w6 5 0
/-- CHKU. -/
def Desc.chku (d : Desc) : Nat := fieldOf d.w.w6 11 8
/-- CHKEN. -/
def Desc.chken (d : Desc) : Bool := bitOf d.w.w6 12
/-- CONT of a transfer with CHKEN. -/
def Desc.cont (d : Desc) : Bool := bitOf d.w.w6 13 && bitOf d.w.w6 12

/-- A descriptor just posted. -/
def Desc.post (w : DescWords) (host : Option (Nat × Nat)) : Desc :=
  { w := w, started := false, copied := false, status := 0, host := host, phase := 0, ptag := 0, frames := 0 }

/-- Whether every reserved field of a descriptor is zero and its KIND exists; BACK belongs to COPY. -/
def Desc.formed (d : Desc) : Bool :=
  let high := decide (fieldOf d.w.w1 63 48 = 0) && decide (fieldOf d.w.w2 63 48 = 0) && decide (fieldOf d.w.w3 63 48 = 0) &&
    decide (fieldOf d.w.w4 63 48 = 0) && decide (d.w.w7 = 0#64) && !bitOf d.w.w0 15 && decide (fieldOf d.w.w0 63 56 = 0)
  match d.kind with
  | 1 => high && decide (d.w.w6 = 0#64)
  | 2 => high && decide (d.w.w6 = 0#64) && !d.back
  | 3 => high && decide (d.w.w6 = 0#64) && !d.back
  | 4 => high && !d.back && decide (fieldOf d.w.w6 7 6 = 0) && decide (fieldOf d.w.w6 63 14 = 0)
  | _ => false

/-! Ranges (R255, R260, R267). -/

/-- Whether a range lies in HBM, or in DDR5, or in one field window. -/
def oneTarget (pa len : Nat) : Bool :=
  match targetOf pa, targetOf (pa + len - 1) with
  | .hbm _, .hbm _ => true
  | .ddr _ _, .ddr _ _ => true
  | .field a _, .field b _ => decide (a = b)
  | _, _ => false

/-- Whether a range meets a chunk that is being filled for lending (R260, R267). -/
def State.lendMeets (s : State) (pa len : Nat) : Bool :=
  s.fillQ.any fun x => decide (x.2.1 = 1) && decide (0x010000000000 + x.1 * 2 ^ 38 < pa + len) &&
    decide (pa < 0x010000000000 + (x.1 + 1) * 2 ^ 38)

/-- How a mover's access to a range is answered. -/
def State.moverAccess (s : State) (pa len : Nat) : Access :=
  if !oneTarget pa len || s.lendMeets pa len then .refused else rangeAccess s.anyAccess pa len

/-- The field and offset of an address. -/
def fieldAt (pa : Nat) : Option (Nat × Nat) :=
  match targetOf pa with
  | .field n off => some (n, off)
  | _ => none

/-- The records of position n that a range meets. -/
def State.recordsIn (s : State) (n off len : Nat) : List (Nat × BackRec) :=
  s.backs.filter fun x => decide (x.1 = n) && decide (512 * x.2.foff < off + len) &&
    decide (off < 512 * (x.2.foff + x.2.flen))

/-- Whether R150 takes a BACK fill: no record in its range, with room for one, or exactly one whole record. -/
def State.backTakes (s : State) (n off len : Nat) : Bool :=
  match s.recordsIn n off len with
  | [] => decide ((s.backs.filter fun x => decide (x.1 = n)).length < 4096)
  | [x] => decide (512 * x.2.foff = off) && decide (512 * x.2.flen = len)
  | _ => false

/-- The status with which a descriptor is refused before it does anything, 0 where it is not (R255, R260, R568). -/
def State.descStatus (s : State) (d : Desc) : Nat :=
  let bad (pa len : Nat) : Bool := decide (s.moverAccess pa len = .refused)
  let updBad := d.upd && d.kind ≠ 4 && (decide (d.uaddr % 8 ≠ 0) || bad d.uaddr 8 ||
    (fieldAt d.uaddr).any fun x => s.backedIn x.1 x.2 8)
  if !d.formed || updBad then 2
  else
    match d.kind with
    | 1 =>
      if d.srcA % 256 ≠ 0 ∨ d.dstA % 256 ≠ 0 ∨ bad d.srcA d.len ∨ bad d.dstA d.len then 2
      else if d.back then
        let altBad := d.alt.any fun a => decide (a % 512 ≠ 0) || bad a d.len || !inDram a
        if d.dstA % 512 ≠ 0 ∨ d.len % 512 ≠ 0 ∨ d.srcA % 512 ≠ 0 ∨ !inDram d.srcA ∨ altBad then 2
        else
          match fieldAt d.dstA with
          | none => 2
          | some (n, off) => if s.backTakes n off d.len then 0 else 3
      else if (fieldAt d.dstA).any fun x => s.backedIn x.1 x.2 d.len then 2
      else 0
    | 2 => if (fieldAt d.dstA).isNone ∨ bad d.dstA d.len then 2 else 0
    | 4 =>
      if d.srcA % 256 ≠ 0 ∨ d.dstA % 256 ≠ 0 ∨ bad d.srcA d.len ∨ s.peerShut d.peer ∨ (d.upd ∧ d.uaddr % 8 ≠ 0) then 2
      else 0
    | _ => 0

/-- What a refusal records at the positions that it meets, the one of UADDR among them (R130, R149, R257). -/
def State.refusedAt (s : State) (d : Desc) : State :=
  let mark (s : State) (pa len : Nat) (write : Bool) : State :=
    match fieldAt pa with
    | none => s
    | some (n, off) =>
      if s.moverAccess pa len = .refused then s.accv n
      else if write && s.backedIn n off len && !d.back then s.bwr n else s
  let upd (s : State) : State :=
    match fieldAt d.uaddr with
    | some (n, off) =>
      if !d.upd || decide (d.kind = 4) then s
      else if s.moverAccess d.uaddr 8 = .refused then s.accv n
      else if s.backedIn n off 8 then s.bwr n else s
    | none => s
  match d.kind with
  | 1 => upd (mark (mark s d.srcA d.len false) d.dstA d.len true)
  | 4 => mark s d.srcA d.len false
  | _ => upd s

/-! Queues (R253, R258, R262). -/

/-- Mover m. -/
def State.mover (s : State) (m : Nat) : Mover := tabGetD s.movers m Mover.zero

/-- Set mover m. -/
def State.setMover (s : State) (m : Nat) (x : Mover) : State := { s with movers := tabSet s.movers m x }

/-- Post queue q of mover m. -/
def State.postQ (s : State) (m : Fin 16) (q : Fin 4) : List Desc := (s.mover m.val).q[q]

/-- The 64 bytes of a descriptor (R254). -/
def descBytes (w : DescWords) : List Byte := [w.w0, w.w1, w.w2, w.w3, w.w4, w.w5, w.w6, w.w7].flatMap fun x => leBytes 8 x.toNat

/-- The descriptor log of a post queue: 4 KiB for each queue of the stack's movers, the descriptors that have started in queue order
(R262, R639; the order and the spacing are a DESIGN CHOICE, notes/assumptions/83.md). -/
def logKey (m : Fin 16) (q : Fin 4) : Nat := sysKey (m.val / 4) (0x4500000 + 4096 * (4 * (m.val % 4) + q.val))

/-- What the log of a post queue holds. -/
def descLogBytes (l : List Desc) : List Byte := (l.filter (·.started)).flatMap fun d => descBytes d.w

/-- Set post queue q of mover m, and its log in the system area (R262). -/
def State.setPostQ (s : State) (m : Fin 16) (q : Fin 4) (l : List Desc) : State :=
  let x := s.mover m.val
  let s' := s.setMover m.val { x with q := x.q.set q l }
  if descLogBytes l = descLogBytes x.q[q] then s'
  else ({ s' with mem := s'.mem.erase (logKey m q) (logKey m q + 4096) }).writeSram (logKey m q) (descLogBytes l) false

/-- Replace descriptor idx of a post queue. -/
def State.putDesc (s : State) (m : Fin 16) (q : Fin 4) (idx : Nat) (d : Desc) : State :=
  s.setPostQ m q ((s.postQ m q).set idx d)

/-- Registers of post queue q of mover m: STAT, then ERR (R280, R281). -/
def offPost (m : Fin 16) (q : Fin 4) : Nat := offTIER (m.val / 4) + 0x100 + 0x40 * (m.val % 4) + 0x10 * q.val

/-- Take the TMV that wait in a core's tier queue, in order, while their post queues have room; decode work goes before back-fill (R253,
R309). -/
def State.drainTier (s : State) (n : Nat) : Nat → State
  | 0 => s
  | fuel + 1 =>
    let k := s.core n
    let room (x : Ctx × Fin 16 × Fin 4 × DescWords) : Bool := decide ((s.postQ x.2.1 x.2.2.1).length < 64)
    match decodeFirst (fun x => decide (x.1 = .p) && s.asBackfill n .p) (fun x => decide (x.1 = .d)) room k.tierQ with
    | [] => s
    | (_, m, q, w) :: rest =>
      let l := s.postQ m q
      if l.length ≥ 64 then s
      else ((s.setCore n { k with tierQ := rest }).setPostQ m q (l ++ [Desc.post w none])).drainTier n fuel

/-- The eight words of a stored descriptor. -/
def descOf (bs : List Byte) : DescWords :=
  let w (i : Nat) : Word := BitVec.ofNat 64 (leNat ((bs.drop (8 * i)).take 8))
  { w0 := w 0, w1 := w 1, w2 := w 2, w3 := w 3, w4 := w 4, w5 := w 5, w6 := w 6, w7 := w 7 }

/-- TMV: posts the descriptor at aA + IMM[19:0] to queue 2 or 3 of a mover; one to a full queue waits in the tier queue
(R253, R423, R429, R439). -/
def execTmv (u : Issue) (f : Fields) (s : State) : Host.Outcome State Fault Refusal :=
  .next <| s.issue u f { noUse with a := .scalar, rsv := ones 28 20 } fun s =>
    let n := u.core.val
    let x := s.at u
    let a := addrOf x f (immBits f 19 0)
    let s := s.taintIf u (x.poisA f.srca.toNat)
    if s.storesOpen n u.ctx || decide ((s.core n).tierQ.length ≥ 4) then .stall
    else if a % 64 ≠ 0 then .fault s fALIGN
    else if a > 0xFFFFF then .fault s fCSTORE
    else
      let r := s.storeRead n a 64
      let s := if r.pois.any id then r.s.taintIf u true else r.s
      let q : Fin 4 := if immBit f 29 then 3 else 2
      let k := s.core n
      .next ((s.setCore n { k with tierQ := k.tierQ ++ [(u.ctx, Fin.ofNat 16 (immBits f 33 30), q, descOf r.bytes)] }).drainTier n 4)

/-- DESCRIPTOR_START: the first descriptor of a queue that has not started is logged and starts; one with ORD waits for
every earlier one; a refused one ends at once (R258, R260, R262). -/
def execDescriptorStart (m : Fin 16) (q : Fin 4) (s : State) : Host.Outcome State Fault Refusal :=
  let l := s.postQ m q
  .next <|
    match l.findIdx? (fun d => !d.started) with
    | none => s
    | some i =>
      match l[i]? with
      | none => s
      | some d =>
        if !s.live || (d.ord && decide (i ≠ 0)) then s
        else
          let st := s.descStatus d
          if st = 0 then s.putDesc m q i { d with started := true }
          else (s.refusedAt d).putDesc m q i { d with started := true, copied := true, status := st }

/-! COPY (R142, R150, R255 to R259). -/

/-- Mover m reads a range of memory, with the class of its descriptor, or of a field. -/
def State.moverRead (s : State) (m cls pa len : Nat) : ReadOut :=
  match fieldAt pa with
  | some (n, off) => s.fieldReadVia (s.downGroups n) n off len
  | none => s.memReadFor (moverOf m) cls pa len

/-- Whole flits with their marks. -/
def flitsWith (bytes : List Byte) (po : List Bool) : List Delivered :=
  po.zipIdx.map fun (p, i) => ({ bytes := (bytes.drop (64 * i)).take 64, pois := p } : Delivered)

/-- A COPY without BACK: the source is read whole, then written (R259); its status. -/
def State.plainCopy (s : State) (m : Nat) (d : Desc) : Nat × State :=
  let o := s.moverRead m d.cls d.srcA d.len
  (flag (o.pois.any id), o.s.memFlitsFor (moverOf m) d.cls d.dstA (flitsWith o.bytes o.pois))

/-- A requester reads the beat of a source of a BACK fill; none when it is uncorrectable. -/
def State.sourceBeat (s : State) (src cls pa : Nat) : Option (List Byte) × State :=
  let (b, s) := (s.drainRange pa 512).readCopy pa
  (b, s.performed src cls pa 512 false)

/-- Read the beats of a BACK fill from SRC, else ALT (R256); none when a beat fails at both. -/
def State.backBeats (s : State) (who cls src : Nat) (alt : Option Nat) : Nat → Option (List Byte) × State
  | 0 => (some [], s)
  | k + 1 =>
    let (b, s) := s.sourceBeat who cls src
    let (b, s) := match b, alt with
      | none, some a => s.sourceBeat who cls a
      | _, _ => (b, s)
    match b with
    | none => (none, s)
    | some bs =>
      let (rest, s) := s.backBeats who cls (src + 512) (alt.map (· + 512)) k
      (rest.map (bs ++ ·), s)

/-! Backing records in the system area (R148, R151, R639). -/

/-- A backing record in its 16 bytes (R151). -/
def BackRec.bytes (b : BackRec) : List Byte :=
  leBytes 2 b.foff ++ leBytes 2 (b.flen - 1) ++
    leBytes 12 (1 + flag b.alt.isSome * 2 + b.baddr / 512 * 2 ^ 8 + (b.alt.getD 0) / 512 * 2 ^ 48)

/-- The records of position n: at 64 KiB for each position of the stack from 0x460_0000 on, in the order in which they were set
(R639; the order and the spacing are a DESIGN CHOICE, notes/assumptions/80.md). -/
def backsKey (n : Nat) : Nat := sysKey (n / 156) (0x4600000 + 65536 * (n % 156))

/-- The records of position n become l, and its part of the system area holds them (R148). -/
def State.setBacks (s : State) (n : Nat) (l : List BackRec) : State :=
  let s : State := { s with mem := s.mem.erase (backsKey n) (backsKey n + 65536),
                            backs := s.backs.filter (fun x => decide (x.1 ≠ n)) ++ l.map fun b => (n, b) }
  s.writeSram (backsKey n) (l.flatMap BackRec.bytes) false

/-- The records of position n. -/
def State.backsOf (s : State) (n : Nat) : List BackRec := (s.backs.filter fun x => decide (x.1 = n)).map (·.2)

/-- A COPY with BACK: data, then the record (R150); with a beat lost at both sources the range is zeroed (R260). -/
def State.backCopy (s : State) (m : Nat) (d : Desc) (n off : Nat) : Nat × State :=
  let (bs, s) := s.backBeats (moverOf m) d.cls d.srcA d.alt (d.len / 512)
  match bs with
  | none => (4, s.fieldWrite n off (List.replicate d.len 0#8) false)
  | some bs =>
    let s := s.fieldWrite n off bs false
    let r : BackRec := { foff := off / 512, flen := d.len / 512, baddr := d.srcA, alt := d.alt }
    (0, s.setBacks n ((s.backsOf n).filter (fun x => decide (x.foff ≠ r.foff)) ++ [r]))

/-- Whether the transactions of a COPY may issue now and are what their controllers serve next (R271, R275, R276). -/
def State.copyGo (s : State) (m : Nat) (d : Desc) : Bool :=
  let rd (pa : Nat) : Bool := s.mayRead (moverOf m) d.cls pa d.len
  rd d.srcA && d.alt.all rd && s.mayWrite (moverOf m) d.cls d.dstA d.len

/-- DESCRIPTOR_COPY: a started COPY moves its data; it waits for a chunk or a field range that is not yet there, for restorations in
its source, and for the controllers (R134, R251, R255, R263, R271). -/
def execDescriptorCopy (m : Fin 16) (q : Fin 4) (idx : Nat) (s : State) : Host.Outcome State Fault Refusal :=
  .next <|
    match (s.postQ m q)[idx]? with
    | none => s
    | some d =>
      let waits (pa : Nat) : Bool := decide (s.moverAccess pa d.len = .waits)
      if !s.live || !d.started || d.copied || decide (d.kind ≠ 1) || waits d.srcA || waits d.dstA || d.alt.any waits ||
          (fieldAt d.srcA).any (fun x => s.restoreWaits x.1 x.2 d.len) then s
      else
        let st := s.descStatus d
        if st ≠ 0 then (s.refusedAt d).putDesc m q idx { d with copied := true, status := st }
        else if !s.copyGo m.val d then s
        else
          let (st, s) := match d.back, fieldAt d.dstA with
            | true, some (n, off) => s.backCopy m.val d n off
            | _, _ => s.plainCopy m.val d
          s.putDesc m q idx { d with copied := true, status := st }

/-! RELEASE and FENCE (R255, R264). -/

/-- Whether a restoration is in progress in a field range (R264). -/
def State.restoring (s : State) (n off len : Nat) : Bool :=
  let inside (a : Nat) : Bool := decide (off ≤ a) && decide (a < off + len)
  [0, 1].any fun e =>
    let g := (s.core n).eng e
    g.feeders.toList.any (fun f => decide (f.hold = .restore) && f.buf.head?.any fun b => inside b.addr) ||
      g.runs.any fun r => r.wait && inside (r.addr + r.pre.length)

/-- DESCRIPTOR_RELEASE: the record that is exactly the range goes away, once restorations in it are complete (R264). -/
def execDescriptorRelease (m : Fin 16) (q : Fin 4) (idx : Nat) (s : State) : Host.Outcome State Fault Refusal :=
  .next <|
    match (s.postQ m q)[idx]? with
    | none => s
    | some d =>
      match fieldAt d.dstA with
      | none => s
      | some (n, off) =>
        if !s.live || !d.started || d.copied || decide (d.kind ≠ 2) || s.restoring n off d.len then s
        else
          let hit (x : BackRec) : Bool := decide (512 * x.foff = off) && decide (512 * x.flen = d.len)
          if (s.backsOf n).any hit then
            (s.setBacks n ((s.backsOf n).filter fun x => !hit x)).putDesc m q idx { d with copied := true }
          else s.putDesc m q idx { d with copied := true, status := 5 }

/-- DESCRIPTOR_FENCE: a FENCE is done when every earlier descriptor of its queue has completed (R255). -/
def execDescriptorFence (m : Fin 16) (q : Fin 4) (idx : Nat) (s : State) : Host.Outcome State Fault Refusal :=
  .next <|
    match (s.postQ m q)[idx]? with
    | none => s
    | some d =>
      if !s.live || !d.started || d.copied || decide (d.kind ≠ 3) || decide (idx ≠ 0) then s
      else s.putDesc m q idx { d with copied := true }

/-! Completion (R257, R260, R527). -/

/-- The UPD write of a requester (R257): an 8-byte cached store at the home of a cached address, or a write to a field. -/
def State.updWrite (s : State) (src cls pa : Nat) (v : Word) : State :=
  match fieldAt pa with
  | some (n, off) => s.fieldWrite n off (leBytes 8 v.toNat) false
  | none => s.cohStore src cls pa (leBytes 8 v.toNat) false true

/-- Whether the UPD write of a requester waits (R251, R271, R276). -/
def State.updWaits (s : State) (src cls pa : Nat) : Bool :=
  decide (s.moverAccess pa 8 = .waits) ||
    (inDram pa && decide (s.moverAccess pa 8 = .ok) && !s.cachedGo src cls pa 8 true true)

/-- A host TIER command ends when no descriptor of it is left (R516, R527). -/
def State.tierEnded (s : State) (m : Nat) (host : Option (Nat × Nat)) : State :=
  match host with
  | none => s
  | some (sq, cid) =>
    let x := s.mover m
    let has (l : List Desc) : Bool := l.any fun d => decide (d.host = some (sq, cid))
    if x.q.toList.any has || has x.waiting then s
    else
      let key := sq * 65536 + cid
      (s.setMover m { x with fails := tabErase x.fails key }).complete sq cid 0 (BitVec.ofNat 64 (tabGetD x.fails key 0))

/-- Post what waits for room in queue 0 of a mover (R527). -/
def State.drainWaiting (s : State) (m : Fin 16) : State :=
  let x := s.mover m.val
  let room := 64 - (x.q[(0 : Fin 4)]).length
  s.setMover m.val { x with q := x.q.set 0 (x.q[(0 : Fin 4)] ++ x.waiting.take room), waiting := x.waiting.drop room }

/-- DESCRIPTOR_COMPLETE: UPD where data was written, DONE, and the error of a nonzero status; the entry frees (R257,
R260). An update address that has been lent meanwhile is refused (R236). -/
def execDescriptorComplete (m : Fin 16) (q : Fin 4) (idx : Nat) (s : State) : Host.Outcome State Fault Refusal :=
  .next <|
    match (s.postQ m q)[idx]? with
    | none => s
    | some d =>
      let upd := d.upd && decide (d.kind ≠ 4) && decide (d.status ≤ 1)
      if !s.live || !d.copied || (upd && s.updWaits (moverOf m.val) d.cls d.uaddr) then s
      else
        let gone := upd && decide (s.moverAccess d.uaddr 8 = .refused)
        let d := if gone then { d with status := 2 } else d
        let s := if gone then s.refusedAt d else if upd then s.updWrite (moverOf m.val) d.cls d.uaddr d.w.w5 else s
        let o := offPost m q
        let s := s.setField o 63 32 (s.field o 63 32 + 1)
        let s := if d.status = 0 then s
          else (s.setBit o 0).setReg (o + 8) (BitVec.ofNat 64 (d.tag * 256 + d.status))
        let s := s.setPostQ m q ((s.postQ m q).eraseIdx idx)
        let s := match d.host with
          | some (sq, cid) =>
            let x := s.mover m.val
            let key := sq * 65536 + cid
            if d.status = 0 then s
            else s.setMover m.val { x with fails := tabSet x.fails key (tabGetD x.fails key 0 + 1) }
          | none => s
        let s := (s.drainWaiting m).tierEnded m.val d.host
        (s.cores.map (·.1)).foldl (fun s n => (s.drainTier n 4).settle n) s

/-! Peer writes (R568 to R572, R579, R580). The sender keeps the check value, and then the update, until the frames
before are acknowledged (notes/assumptions/18.md). -/

/-- The frames of a transfer's data: 256 bytes each; the last carries LAST unless a check value follows. -/
def dataFrames (d : Desc) (src tag : Nat) (bytes : List Byte) (po : List Bool) : List Frame :=
  let n := d.len / 256
  (List.range n).map fun i =>
    let last := decide (i + 1 = n) && !d.chken
    { Frame.zero with
      ty := 1, dst := d.peer, src := src, pois := pois4 ((po.drop (4 * i)).take 4),
      flags := BitVec.ofNat 3 (flag last + 2 * flag (last && d.upd)), tag := tag, addr := d.dstA + 256 * i,
      payload := (bytes.drop (256 * i)).take 256, first := decide (i = 0) }

/-- Send the frames of a transfer; false as soon as no quad leads to the peer. -/
def State.routeAll (s : State) : List Frame → Bool × State
  | [] => (true, s)
  | f :: rest =>
    let (ok, s) := s.route f
    if ok then s.routeAll rest else (false, s)

/-- PEERW: a started peer write sends its data, and computes its check value; a CONT transfer waits for its unit (R568,
R572, R579, R580). -/
def execPeerw (m : Fin 16) (q : Fin 4) (idx : Nat) (s : State) : Host.Outcome State Fault Refusal :=
  .next <|
    match (s.postQ m q)[idx]? with
    | none => s
    | some d =>
      let u := offUnit d.chku
      if !s.live || !d.started || d.copied || decide (d.kind ≠ 4) || decide (d.ptag ≠ 0) ||
          decide (s.moverAccess d.srcA d.len = .waits) || (fieldAt d.srcA).any (fun x => s.restoreWaits x.1 x.2 d.len) ||
          (d.cont && s.bit u 16) then s
      else if s.moverAccess d.srcA d.len = .refused then s.putDesc m q idx { d with copied := true, status := 2 }
      else if !s.mayRead (moverOf m.val) d.cls d.srcA d.len then s
      else
        let s := if d.cont then s.setBit u 16 else s
        let o := s.moverRead m.val d.cls d.srcA d.len
        let s := o.s
        let tag := s.nextTag + 1
        let (ok, s) := State.routeAll { s with nextTag := tag } (dataFrames d s.deviceId tag o.bytes o.pois)
        let d := { d with ptag := tag, frames := d.len / 256 }
        if ok then s.putDesc m q idx d
        else (if d.cont then s.clearBit u 16 else s).putDesc m q idx { d with copied := true, status := 7, phase := 3 }

/-- The frame that carries a check value: at the end of the data, with the unit's number and CONT in the last two bytes
(R579, notes/assumptions/18.md). -/
def checkFrame (d : Desc) (src : Nat) (trailer : List Byte) : Frame :=
  { Frame.zero with
    ty := 1, dst := d.peer, src := src, flags := BitVec.ofNat 3 (5 + 2 * flag d.upd), tag := d.ptag, addr := d.dstA + d.len,
    payload := padTo 254 trailer ++ leBytes 1 d.chku ++ leBytes 1 (flag d.cont) }

/-- The frame that carries an update (R571). -/
def updFrame (d : Desc) (src : Nat) : Frame :=
  { Frame.zero with
    ty := 1, dst := d.peer, src := src, flags := 2#3, tag := d.ptag, addr := d.uaddr, payload := leBytes 8 d.w.w5.toNat }

/-- The check value of a transfer and its unit after it (R579, R580): the data is read again from the source. -/
def State.transferCheck (s : State) (m : Nat) (d : Desc) : List Byte × State :=
  let c := s.crcUnit d.chku
  let u := offUnit d.chku
  let o := s.moverRead m d.cls d.srcA d.len
  let start := if d.cont then (s.reg (u + 0x20)).toNat else c.init
  let r := crcRun c start o.bytes
  let s := if d.cont then o.s.setReg (u + 0x20) (BitVec.ofNat 64 r) else o.s
  (crcTrailer c (crcFinish c r), s)

/-- A peer write goes on when its frames are acknowledged: check value, update, end (R571, R572, R579). -/
def State.peerNext (s : State) (m : Fin 16) (q : Fin 4) (idx : Nat) (d : Desc) : State :=
  let fail (s : State) (d : Desc) (st : Nat) : State :=
    (if d.cont then s.clearBit (offUnit d.chku) 16 else s).putDesc m q idx { d with copied := true, status := st, phase := 3 }
  let send (s : State) (d : Desc) (f : Frame) : State :=
    let (ok, s) := s.route f
    if ok then s.putDesc m q idx { d with frames := 1 } else fail s d 7
  if d.frames ≠ 0 then s.putDesc m q idx d
  else if d.status ≠ 0 then fail s d d.status
  else if d.phase = 0 ∧ d.chken then
    let (tr, s) := s.transferCheck m.val d
    send s { d with phase := 1 } (checkFrame d s.deviceId tr)
  else if d.phase < 2 ∧ d.upd then send s { d with phase := 2 } (updFrame d s.deviceId)
  else fail s d 0

/-- WACK_TIMEOUT: a peer write whose WACK stays out for 100 µs ends with status 7 (R572). -/
def execWackTimeout (m : Fin 16) (q : Fin 4) (idx : Nat) (s : State) : Host.Outcome State Fault Refusal :=
  .next <|
    match (s.postQ m q)[idx]? with
    | none => s
    | some d =>
      if !s.live || decide (d.kind ≠ 4) || d.copied || decide (d.frames = 0) then s
      else
        (if d.cont then s.clearBit (offUnit d.chku) 16 else s).putDesc m q idx
          { d with copied := true, status := 7, phase := 3, frames := 0 }

/-! DDR5 fills (R249, R267, R269, R283). -/

/-- The lines of a range of memory that has become zero, as far as they are still in their slices, hold zeros and are CLEAN. -/
def State.zeroLines (s : State) (lo n : Nat) : State :=
  let inside (ln : Nat) : Bool := decide (lo ≤ 256 * ln) && decide (256 * ln < lo + n)
  { s with cmem := s.cmem.erase lo (lo + n),
           lines := s.lines.map fun x =>
             if inside x.1 then (x.1, { x.2 with state := 1#3, mask := 0#256, pois := 0#4 }) else x }

/-- A channel begins the fill of its next chunk (R249, R282). -/
def State.fillStarts (s : State) (d : Nat) : State := { s with fillAt := tabSet s.fillAt d s.time }

/-- CHUNK_FILL_COMPLETE: the zero fill of a chunk ends: the chunk is online, or lent where the fill was for LEND, and
the command that asked for it completes; each channel fills one chunk at a time (R249, R267, R269). -/
def execChunkFillComplete (chunk : Fin 32) (s : State) : Host.Outcome State Fault Refusal :=
  let k := chunk.val
  let d := k / 2
  .next <|
    match s.fillQ.find? (fun x => decide (x.1 / 2 = d)) with
    | none => s
    | some x =>
      if x.1 ≠ k ∨ !s.pins.refclk then s
      else
        let lo := 0x010000000000 + k * 2 ^ 38
        let s := { s with mem := s.mem.erase lo (lo + 2 ^ 38), fillQ := s.fillQ.erase x }
        let o := offDDR + 0x800
        let s := if x.2.1 = 1 then (s.clearBit o k).setBit o (32 + k) else (s.setBit o k).clearBit o (32 + k)
        let s := s.zeroLines lo (2 ^ 38)
        let more := s.fillQ.any fun y => decide (y.1 / 2 = d)
        let s := if more then s.fillStarts d else s
        let s := (s.setField (offCh d) 10 8 (if more then 2 else 3)).setField (offCh d) 7 0 (if more then 0 else 100)
        match x.2.2 with
        | some (sq, cid) => s.complete sq cid 0 0#64
        | none => s

end Sys2Proof.Machine
end

