-- ==== Sys2Proof/Machine/Peer.lean ====
section
/-!
DEFINITION. Peer.lean: frames that arrive on a peer quad, link replay and retraining (R563 to R572, R579, R778).
-/
namespace Sys2Proof.Machine

/-! Link acknowledgement, credits, replay (R564 to R567). -/

/-- Frames that a LACK covers leave the replay buffer. -/
def coverUpTo (lack : Nat) (l : List (Frame × Nat)) : List (Frame × Nat) :=
  match l.findIdx? (fun x => decide (x.1.seq = lack)) with
  | some i => l.drop (i + 1)
  | none => l

/-- LACK and returned credits of a frame take effect. -/
def State.acknowledge (s : State) (q : Nat) (f : Frame) : State :=
  let x := s.quad q
  let give (c : List (Nat × Nat)) (vc : Nat) : List (Nat × Nat) :=
    let k := 2 * vc + f.set
    tabSet c k (tabGetD c k 0 - f.cred / 16 ^ vc % 16)
  s.setQuad q { x with replay := coverUpTo f.lack x.replay, credits := [0, 1, 2, 3].foldl give x.credits }

/-- The quad retrains (R566, R586). -/
def State.retrain (s : State) (q : Nat) : State :=
  let o := offQuad q
  let n := s.field o 23 16
  (s.setField o 1 0 1).setField o 23 16 (if n < 255 then n + 1 else 255)

/-- Resend every frame of the replay buffer, in order; a frame resent eight times makes the quad retrain (R565,
R566). -/
def State.resend (s : State) (q : Nat) : State :=
  let x := s.quad q
  let l := x.replay.map fun r => (r.1, r.2 + 1)
  let s := x.replay.foldl (fun s r => s.emit q r.1.bytes) s
  let s := s.setQuad q { x with replay := l }
  if l.any fun r => decide (8 ≤ r.2) then s.retrain q else s

/-- LACK_TIMEOUT: no LACK advanced for 10 µs while frames are unacknowledged (R566). -/
def execLackTimeout (quad : Fin 8) (s : State) : Host.Outcome State Fault Refusal :=
  .next <|
    if s.live && s.quadUp quad.val && !(s.quad quad.val).replay.isEmpty then s.retrain quad.val else s

/-- A failed retrain takes the quad down: its frames go out on another up quad of the same route entry, and a FAULT
event says so (R567). -/
def State.linkDown (s : State) (q : Nat) : State :=
  let o := offQuad q
  let x := s.quad q
  let s := ((((s.setBit o 8).setField o 1 0 3).setField o 7 6 0).setField o 5 4 0).setQuad q Quad.zero
  let s := (x.replay.map (·.1) ++ x.queue).foldl (fun s f => (s.route { f with first := false }).2) s
  s.event 9 0x40 0#64 (BitVec.ofNat 64 q) (BitVec.ofNat 64 (s.field o 23 16))

/-- RETRAIN_COMPLETE: the quad is up again and sends its replay buffer, or it is down (R560, R566, R567). -/
def execRetrainComplete (quad : Fin 8) (ok : Bool) (rate width : BitVec 2) (s : State) : Host.Outcome State Fault Refusal :=
  let q := quad.val
  let o := offQuad q
  .next <|
    if !s.ready || decide (s.field o 1 0 ≠ 1) then s
    else if !ok then s.linkDown q
    else if rate = 0#2 ∨ rate = 3#2 ∨ width = 0#2 ∨ width = 3#2 then s
    else
      let s := ((s.setField o 1 0 2).setField o 7 6 rate.toNat).setField o 5 4 width.toNat
      let x := s.quad q
      let s := x.replay.foldl (fun s r => s.emit q r.1.bytes) s
      (s.setQuad q { x with replay := x.replay.map fun r => (r.1, 0) }).pumpQuad q 64

/-! Frames for this device (R571, R572, R579). -/

/-- Whether the write of a DATA frame may issue now, class 0 (R271, R276, R571). -/
def State.peerGo (s : State) (f : Frame) : Bool :=
  if f.flags = 2#3 then !s.updWaits peerOf 0 f.addr else s.mayWrite peerOf 0 f.addr 256

/-- The status that a DATA frame for an address range gets, none while the access waits. -/
def State.frameStatus (s : State) (f : Frame) (len : Nat) : Option Nat :=
  if s.peerShut f.src then some 2
  else
    match rangeAccess s.anyAccess f.addr len with
    | .waits => none
    | .refused => some 2
    | .ok =>
      if (fieldAt f.addr).any fun x => s.backedIn x.1 x.2 len then some 2
      else if s.peerGo f then some 0 else none

/-- Record a refused frame at the position that it meets (R130, R149). -/
def State.frameRefused (s : State) (f : Frame) (len : Nat) : State :=
  match fieldAt f.addr with
  | none => s
  | some (n, off) =>
    if s.peerShut f.src then s else if rangeAccess s.anyAccess f.addr len = .refused then s.accv n
    else if s.backedIn n off len then s.bwr n else s

/-- The record of a transfer being received. -/
def State.peerRec (s : State) (f : Frame) : Option PeerRx :=
  s.peerRx.find? fun x => decide (x.src = f.src) && decide (x.tag = f.tag)

/-- Forget a transfer being received. -/
def State.dropPeer (s : State) (f : Frame) : State :=
  { s with peerRx := s.peerRx.filter fun x => !(decide (x.src = f.src) && decide (x.tag = f.tag)) }

/-- The check value of a transfer as this device computes it matches (R579, R580). -/
def State.checkFrame (s : State) (f : Frame) : Nat × State :=
  let data := ((s.peerRec f).elim [] (·.data)).flatMap (·.2)
  let unit := (f.payload.getD 254 0#8).toNat % 16
  let cont := decide ((f.payload.getD 255 0#8).toNat = 1)
  let c := s.crcUnit unit
  let u := offUnit unit
  let r := crcRun c (if cont then (s.reg (u + 0x20)).toNat else c.init) data
  let s := if cont then s.setReg (u + 0x20) (BitVec.ofNat 64 r) else s
  let tr := crcTrailer c (crcFinish c r)
  (if f.payload.take tr.length = tr then 0 else 6, s.dropPeer f)

/-- A DATA frame for this device: its status and the state, none while its access waits (R571, R579). -/
def State.frameData (s : State) (f : Frame) : Option (Nat × State) :=
  if f.flags.getLsbD 2 then
    if s.peerShut f.src then some (2, s) else some (s.checkFrame f)
  else if f.flags = 2#3 then
    if f.addr % 8 ≠ 0 then some (2, s)
    else
      match s.frameStatus f 8 with
      | none => none
      | some 0 => some (0, s.updWrite peerOf 0 f.addr (BitVec.ofNat 64 (leNat (f.payload.take 8))))
      | some st => some (st, s.frameRefused f 8)
  else
    match s.frameStatus f 256 with
    | none => none
    | some 0 =>
      let s := s.memFlitsFor peerOf 0 f.addr (flitsWith f.payload ((List.range 4).map fun i => f.pois.getLsbD i))
      let s := s.stamp { f with first := (s.peerRec f).isNone } 0 3
      let old := (s.peerRec f).elim [] (·.data)
      let s := s.dropPeer f
      if f.flags.getLsbD 0 then some (0, s)
      else some (0, { s with peerRx := s.peerRx ++ [{ src := f.src, tag := f.tag, data := tabSet old f.addr f.payload }] })
    | some st => some (st, s.frameRefused f 256)

/-- The WACK of a frame: its status in the first payload byte (R571, notes/assumptions/18.md). -/
def wackFor (f : Frame) (self st : Nat) : Frame :=
  { Frame.zero with ty := 2, vc := 1, dst := f.src, src := self, tag := f.tag, payload := leBytes 1 st }

/-- The peer write that a WACK belongs to. -/
def State.findPeer (s : State) (f : Frame) : Option (Fin 16 × Fin 4 × Nat × Desc) :=
  let all : List (Fin 16 × Fin 4) := (List.finRange 16).flatMap fun m => (List.finRange 4).map fun q => (m, q)
  all.findSome? fun (m, q) =>
    (s.postQ m q).zipIdx.findSome? fun (d, i) =>
      if d.kind = 4 ∧ d.ptag = f.tag ∧ d.peer = f.src ∧ 0 < d.frames then some (m, q, i, d) else none

/-- A WACK arrives (R572). -/
def State.frameWack (s : State) (f : Frame) : State :=
  match s.findPeer f with
  | none => s
  | some (m, q, i, d) =>
    let st := (f.payload.getD 0 0#8).toNat
    s.peerNext m q i { d with frames := d.frames - 1, status := if d.status = 0 then st else d.status }

/-- A sequenced frame accepted in order: delivered here, or forwarded (R569, R571); none while its access waits. -/
def State.acceptFrame (s : State) (f : Frame) : Option State :=
  if f.dst ≠ s.deviceId then some (s.route f).2
  else if f.ty = 2 then some (s.frameWack f)
  else
    match s.frameData f with
    | none => none
    | some (st, s) => some (s.route (wackFor f s.deviceId st)).2

/-- FRAME_RECEIVE: a frame arrives on a quad (R565, R569, R571). A CRC error or a SEQ out of order discards it with a
NAK; a frame whose access waits is not accepted. -/
def execFrameReceive (quad : Fin 8) (frame : List Byte) (s : State) : Host.Outcome State Fault Refusal :=
  let q := quad.val
  .next <|
    if !s.live || !s.quadUp q || decide (frame.length ≠ 288) then s
    else
      match Frame.of frame with
      | none => s.sendCtrl q true none
      | some f =>
        let resent (s : State) : State := if f.nak then s.resend q else s
        if f.ty = 0 ∨ f.ty = 3 then ((resent (s.acknowledge q f)).pumpQuad q 64)
        else if f.ty ≠ 1 ∧ f.ty ≠ 2 then s
        else
          let x := s.quad q
          if BitVec.ofNat 12 f.seq ≠ x.rxSeq + 1#12 then s.sendCtrl q true none
          else
            match (s.setQuad q { x with rxSeq := x.rxSeq + 1#12 }).acceptFrame f with
            | none => s
            | some s => (((resent (s.acknowledge q f)).sendCtrl q false (some f))).pumpQuad q 64

end Sys2Proof.Machine
end

