-- ==== Sys2Proof/Machine/Records.lean ====
section
/-!
DEFINITION. Records.lean: the records that the system areas hold twice: the host command log and the token histories (R639, R640, R645,
R646, R676).
-/
namespace Sys2Proof.Machine

/-! Copies (R630, R633, R640, R646). -/

/-- Whether the 64-byte flit of a key fails parity. -/
def State.flitFails (s : State) (k : Nat) : Bool := !(s.mem.badBytes (k / 64 * 64) 64).isEmpty

/-- A record of a system area failed parity: error record, SAPAR (R631, R684). R535 has no unit type for a system area: the stack alone is
named (notes/assumptions/87.md). -/
def State.noteFails (s : State) (k action : Nat) : State :=
  let off := k - sysKey 0 0
  (s.errRec 3 action (unitName 0 (off / 0x8000000) 0 0 0 0) (off % 0x8000000 / 64 * 64)).setBit offERR 4

/-- Read a record from copy a; where its flit fails parity, from copy b, which is written back over it. False when both fail. -/
def State.readPair (s : State) (a b : Nat) : Bool × State :=
  if !s.flitFails a then (true, s)
  else if s.flitFails b then (false, (s.noteFails a 0).noteFails b 0)
  else (true, (s.noteFails a 2).writeSram (a / 64 * 64) (s.mem.read (b / 64 * 64) 64) false)

/-- Write a record to both copies. -/
def State.writePair (s : State) (a b : Nat) (bs : List Byte) : State := (s.writeSram a bs false).writeSram b bs false

/-- Whether a system area fails the parity check of stage 3 (R598). -/
def State.areaFails (s : State) (st : Nat) : Bool :=
  let bad (m : Memory) : Bool := (memCells m (sysKey st 0) (sysKey (st + 1) 0)).any fun c => s.mem.byteFails c.1
  bad s.mem.flips || bad s.mem.chk

/-! The host command log (R513, R546, R547, R640). -/

/-- A submission entry as stored (R513). -/
def cmdBytes (c : HostCmd) : List Byte :=
  let w0 := c.opc.toNat + flag c.fence * 2 ^ 8 + c.rsv0.toNat % 128 * 2 ^ 9 + c.cid.toNat * 2 ^ 16 + c.seq.toNat * 2 ^ 32 +
    c.rsv0.toNat / 128 * 2 ^ 40
  (w0 :: [c.w1, c.w2, c.w3, c.w4, c.w5, c.w6, c.w7].map (·.toNat)).flatMap (leBytes 8)

/-- The place of a log entry in the area of stack st; how the area is divided among the 1,024 entries is the model's choice
(notes/assumptions/87.md). -/
def logSlot (st slot : Nat) : Nat := sysKey st (1024 * slot)

/-- The lowest slot of the command log that no entry holds. -/
def State.freeSlot (s : State) : Nat := ((List.range 1024).find? fun k => s.log.all fun e => decide (e.slot ≠ k)).getD 0

/-- An entry joins the log: both copies are written first (R546, R640). -/
def State.logCmd (s : State) (e : LogEntry) : State :=
  let s := s.writePair (logSlot 0 e.slot) (logSlot 1 e.slot) (cmdBytes e.cmd)
  { s with log := s.log ++ [e] }

/-- The copies of the log that stacks in a list have lost are written again from the other; where both are lost, so are the commands
(R640). -/
def State.mendLog (s : State) (lost : List Nat) : State :=
  if lost.contains 0 && lost.contains 1 then { s with log := s.log.filter fun e => !e.isOpen }
  else if lost.contains 0 || lost.contains 1 then
    s.log.foldl (fun s e => s.writePair (logSlot 0 e.slot) (logSlot 1 e.slot) (cmdBytes e.cmd)) s
  else s

/-- After a recovery the device reads the logged commands that have no completion; one that both copies have lost is never completed
(R548, R640, notes/assumptions/87.md). -/
def State.readLog (s : State) : State :=
  (s.log.filter (·.isOpen)).foldl (fun s e =>
    let (ok, s) := s.readPair (logSlot 0 e.slot) (logSlot 1 e.slot)
    if ok then s else { s with log := s.log.filter fun x => !(decide (x.slot = e.slot) && x.isOpen) }) s

/-! Token histories (R639, R645, R646, R676). -/

/-- Tokens of a sequence that its history holds in the system areas. -/
def histLen : Nat := 16384

/-- The place of a token in the history of its stack, or in the mirror of the partner stack. -/
def histKey (i pos : Nat) (mirror : Bool) : Nat :=
  let at_ := i % 64 * (4 * histLen) + 4 * (pos % histLen)
  if mirror then sysKey (i / 64 ^^^ 1) (0x5900000 + at_) else sysKey (i / 64) (0x4100000 + at_)

/-- Record tokens of a sequence from a position on, in both copies (R645). -/
def State.record (s : State) (i pos : Nat) : List (BitVec 32) → State
  | [] => s
  | t :: rest => (s.writePair (histKey i pos false) (histKey i pos true) (leBytes 4 t.toNat)).record i (pos + 1) rest

/-- The device reads a token of a sequence of n tokens from its history. One of an older block is read from HBM, where the spec gives its
copies no place (notes/assumptions/87.md). False when every copy fails. -/
def State.recall (s : State) (i pos n : Nat) : Bool × State :=
  if pos + histLen < n then (true, s) else s.readPair (histKey i pos false) (histKey i pos true)

/-- The tokens of waves that start are read; a sequence whose entry is lost ends (R646, R654). -/
def State.recallLanes (s : State) (l : List (Nat × Nat)) : State :=
  l.foldl (fun s x => match tabGet? s.seqs x.1 with
    | none => s
    | some q =>
      let (ok, s) := s.recall x.1 x.2 q.hist.length
      if ok then s else s.abortSeq x.1 2) s

/-- Whether both copies of a sequence's history lie in lost system areas. -/
def histLost (lost : List Nat) (i : Nat) : Bool := lost.contains (i / 64) && lost.contains (i / 64 ^^^ 1)

/-- The histories and mirrors that lost system areas held are written again from the other copies (R676). -/
def State.mendHistories (s : State) (lost : List Nat) : State :=
  (s.seqs.filter fun x => (lost.contains (x.1 / 64) || lost.contains (x.1 / 64 ^^^ 1)) && !histLost lost x.1).foldl
    (fun s x => s.record x.1 (x.2.hist.length - histLen) (x.2.hist.drop (x.2.hist.length - histLen))) s

end Sys2Proof.Machine
end

