-- ==== Sys2Proof/Machine/Text.lean ====
section
/-!
DEFINITION. Text.lean: UTF-8 in byte-stream mode (R530, R531).
-/
namespace Sys2Proof.Machine

/-- U+FFFD in UTF-8. -/
def replChar : List Byte := [0xEF#8, 0xBF#8, 0xBD#8]

/-- What a lead byte asks for: continuation bytes, and the range of the first of them. -/
def utf8Lead (b : Nat) : Option (Nat × Nat × Nat) :=
  if b < 0xC2 then none
  else if b < 0xE0 then some (1, 0x80, 0xBF)
  else if b = 0xE0 then some (2, 0xA0, 0xBF)
  else if b = 0xED then some (2, 0x80, 0x9F)
  else if b < 0xF0 then some (2, 0x80, 0xBF)
  else if b = 0xF0 then some (3, 0x90, 0xBF)
  else if b < 0xF4 then some (3, 0x80, 0xBF)
  else if b = 0xF4 then some (3, 0x80, 0x8F)
  else none

/-- How many of the wanted continuation bytes stand next; lo and hi bound the first one. -/
def utf8Tail : Nat → Nat → Nat → List Byte → Nat
  | 0, _, _, _ => 0
  | _, _, _, [] => 0
  | n + 1, lo, hi, b :: t => if lo ≤ b.toNat ∧ b.toNat ≤ hi then 1 + utf8Tail n 0x80 0xBF t else 0

/-- Bytes split into characters: the complete characters, the held bytes of an unfinished last one, and the
replacements made. -/
structure Utf8 where
  chars : List (List Byte)
  held  : List Byte
  repl  : Nat
  deriving DecidableEq, Repr

/-- Read UTF-8 (R530): each maximal ill-formed subsequence becomes U+FFFD; bytes that begin a character at the end are
held. -/
def utf8Read : Nat → List Byte → Utf8
  | 0, _ => { chars := [], held := [], repl := 0 }
  | _, [] => { chars := [], held := [], repl := 0 }
  | fuel + 1, b :: t =>
    if b.toNat < 0x80 then
      let r := utf8Read fuel t
      { r with chars := [b] :: r.chars }
    else
      match utf8Lead b.toNat with
      | none =>
        let r := utf8Read fuel t
        { r with chars := replChar :: r.chars, repl := r.repl + 1 }
      | some (n, lo, hi) =>
        let k := utf8Tail n lo hi t
        if k = n then
          let r := utf8Read fuel (t.drop n)
          { r with chars := (b :: t.take n) :: r.chars }
        else if k = t.length then { chars := [], held := b :: t, repl := 0 }
        else
          let r := utf8Read fuel (t.drop k)
          { r with chars := replChar :: r.chars, repl := r.repl + 1 }

/-- Read a byte string. -/
def utf8Of (bs : List Byte) : Utf8 := utf8Read bs.length bs

/-- Pack characters into records of at most 44 bytes (R532). -/
def packChars : List (List Byte) → List Byte → List (List Byte)
  | [], cur => if cur.isEmpty then [] else [cur]
  | c :: t, cur => if cur.length + c.length ≤ 44 then packChars t (cur ++ c) else cur :: packChars t c

end Sys2Proof.Machine
end

