-- ==== Sys2Proof/Machine/Sequence.lean ====
section
/-!
DEFINITION. Sequence.lean: open sequences: their registers, token histories, pages and output (R353 to R360, R521 to R533,
R645, R654).
-/
namespace Sys2Proof.Machine

/-- Set a sequence. -/
def State.setSeq (s : State) (i : Nat) (q : Sequence) : State := { s with seqs := tabSet s.seqs i q }

/-- Write LEN of a sequence (R377). -/
def State.setLen (s : State) (i n : Nat) : State := s.setField (offSeq i + 8) 20 0 n

/-- Write the registers of a sequence that opens (R377). -/
def State.openRegs (s : State) (i : Nat) (q : Sequence) : State :=
  let base := s.image.elim 0 fun g => g.mapBase + i * g.mapStride
  ((s.setReg (offSeq i) (BitVec.ofNat 64 (base / 256 * 256))).setReg (offSeq i + 8)
    (BitVec.ofNat 64 (2 ^ 63 + q.hist.length))).setReg (offSeq i + 0x10)
      (BitVec.ofNat 64 (q.lane * 2 ^ 24 + q.p * 2 ^ 16 + q.wp))

/-- Clear the registers of a sequence that closes. -/
def State.closeRegs (s : State) (i : Nat) : State :=
  ((s.setReg (offSeq i) 0#64).setReg (offSeq i + 8) 0#64).setReg (offSeq i + 0x10) 0#64

/-- The maps of the loaded image: layer and group. -/
def State.mapKeys (s : State) : List (Nat × Nat) :=
  match s.image with
  | none => []
  | some g => (List.range g.layers).flatMap fun l => (List.range g.groups).map fun r => (l, r)

/-- The valid entries of one map among those listed. -/
def State.validEntries (s : State) (i l g : Nat) (ks : List Nat) : List (Nat × Nat) :=
  ks.filterMap fun k => (s.readMap i l g k).1.map fun id => (k, id)

/-- Every map entry that names a page. -/
def allEntries : List Nat := List.range mapEntries

/-- MC0 subtracts 1 from the REF of every page that a closed sequence's maps name, and the maps are empty (R357). -/
def State.releasePages (s : State) (i : Nat) : State :=
  s.mapKeys.foldl (fun s lg =>
    (s.validEntries i lg.1 lg.2 allEntries).foldl (fun s x => (s.unref x.2).writeMap i lg.1 lg.2 x.1 none) s) s

/-! Shared prefixes (R353, R354, R525). -/

/-- MC0 adds a reference to a page; a REF that reaches 65,535 sticks (R353). -/
def State.addRef (s : State) (id : Nat) : State :=
  let (r, s) := s.readRec id
  if r.ref ≥ 65535 then s
  else
    let s := s.writeRec id { r with ref := r.ref + 1 }
    if r.ref + 1 = 65535 then { s with stuck := s.stuck + 1 } else s

/-- Free slots for a copy of a page in the cluster of its position. -/
def State.slotFor (s : State) (r : PageRec) : Option (Nat × Nat) :=
  (s.freeSlots (r.pos / 13)).find? fun x => r.slotsOf.length = 1 || s.slots.contains (x.1, x.2 + 1)

/-- Copy a page whose REF is stuck into a new ID with REF = 1 (R354); none without a free ID and slot. -/
def State.copyPage (s : State) (r : PageRec) : Option (Nat × State) :=
  match s.pageIds, s.slotFor r with
  | id :: ids, some x =>
    let r' : PageRec := { r with ref := 1, loc := 1, pos := x.1, slot := x.2, haddr := 0 }
    let s := { s with pageIds := ids, slots := s.slots.filter fun y => !(r'.slotsOf.contains y) }
    some (id, (s.pageCopy r x.1 x.2 0 (16384 * r'.slotsOf.length)).writeRec id r')
  | _, _ => none

/-- Point map entries of sequence i at the pages of a prefix; none when a copy of R354 finds no space. -/
def State.shareAll (s : State) (i : Nat) : List (Nat × Nat) → Option State
  | [] => some s
  | (key, id) :: rest =>
    let groups := s.image.elim 1 (·.groups)
    let lg := key / mapEntries
    let (r, s) := s.readRec id
    if r.ref < 65535 then ((s.addRef id).writeMap i (lg / groups) (lg % groups) (key % mapEntries) (some id)).shareAll i rest
    else
      match s.copyPage r with
      | none => none
      | some (id', s) => (s.writeMap i (lg / groups) (lg % groups) (key % mapEntries) (some id')).shareAll i rest

/-- A sequence opened on a prefix receives its pages at a wave boundary (R353, R354); without space for a copy it waits
for the next one, with NOSPACE set. -/
def State.sharePrefix (s : State) (i : Nat) (q : Sequence) : State :=
  match q.share.bind (tabGet? s.prefixes) with
  | none => s.setSeq i { q with share := none }
  | some x =>
    match s.shareAll i x.maps with
    | some s => s.setSeq i { q with share := none }
    | none => (s.setBit (offATT + 0x30) 57).event 4 0 0#64 0#64 0#64

/-- The page IDs that the first n tokens of a sequence occupy, with the index slots (R525), by map key. -/
def State.prefixMaps (s : State) (i n : Nat) : List (Nat × Nat) :=
  let groups := s.image.elim 1 (·.groups)
  let ks := List.range ((n + 63) / 64) ++ (List.range 160).map (16384 + ·)
  s.mapKeys.flatMap fun lg =>
    (s.validEntries i lg.1 lg.2 ks).map fun x => ((lg.1 * groups + lg.2) * mapEntries + x.1, x.2)

/-! Tokens (R359, R521, R522, R531 to R533, R645). -/

/-- The bytes of a token (R285, R531). -/
def State.tokenText (s : State) (t : BitVec 32) : List Byte := s.image.elim [] fun g => g.text.getD t.toNat []

/-- The records of one sampled token: its number, or the characters that it completes (R531, R532). -/
def State.emitToken (s : State) (i : Nat) (q : Sequence) (t : BitVec 32) (pos : Nat) (wave : BitVec 48) : State :=
  if !q.bytesOut then
    s.output { ring := q.ring, kind := 1, n := 1, seqn := i, pos := pos, wave := wave, payload := leBytes 4 t.toNat }
  else
    let u := utf8Of (q.outHeld ++ s.tokenText t)
    let s := s.setSeq i { q with outHeld := u.held }
    (packChars u.chars []).foldl (fun s bs =>
      s.output { ring := q.ring, kind := 2, n := bs.length, seqn := i, pos := pos, wave := wave, payload := bs }) s

/-- A sampled token: history, length, output, and the end of the sequence where it ends (R359, R522, R532, R645). -/
def State.sampleToken (s : State) (i : Nat) (t : BitVec 32) (wave : BitVec 48) : State :=
  match tabGet? s.seqs i with
  | none => s
  | some q =>
    if q.ending.isSome then s
    else
      let pos := q.hist.length
      let q := { q with hist := q.hist ++ [t], filled := pos, sampled := q.sampled + 1, redo := 0 }
      let s := ((((s.record i pos [t]).setSeq i q).setLen i (pos + 1)).count 0 6 1).emitToken i q t pos wave
      let full := decide (pos + 1 = 1048576)
      let s := if full then s.setBit (offATT + 0x30) 56 else s
      if q.stops.contains t then s.endSeq i 1
      else if q.maxnew ≠ 0 ∧ q.sampled = q.maxnew then s.endSeq i 2
      else if full then s.endSeq i 3
      else s

/-- A FEED appends its tokens at a wave boundary and completes (R523). -/
def State.takeFeed (s : State) (i : Nat) (f : FeedRec) : State :=
  match tabGet? s.seqs i with
  | none => s
  | some q =>
    if q.ending.isSome then s.complete f.host.1 f.host.2 7 0#64
    else
      let n := q.hist.length + f.tokens.length
      let hist := q.hist ++ f.tokens
      let filled := if f.last ∧ q.filled ≥ n ∧ 0 < n then n - 1 else q.filled
      let s := (s.record i q.hist.length f.tokens).setSeq i { q with hist := hist, sawLast := f.last, phase := .prefill, filled := filled }
      ((s.setLen i n).count 0 7 f.tokens.length).complete f.host.1 f.host.2 0 f.result

/-- Whether a wave's lane at a position of a sequence is to give a token: in decode, or at the last prompt position
(R299, R302). -/
def Wave.wants (w : Wave) (q : Sequence) (pos : Nat) : Bool :=
  w.regen.isNone && q.ending.isNone && (!w.prefill || (q.sawLast && decide (pos + 1 = q.hist.length) && decide (pos < q.filled)))

/-- Whether a wave in flight is to give a token of a sequence. -/
def State.sampling (s : State) (i : Nat) (q : Sequence) : Bool :=
  s.waves.any fun w => w.lanes.any fun x => decide (x.2.1 = i) && w.wants q x.2.2

/-- Every FEED of a sequence that waits for the boundary; one waits while a token of the sequence is being sampled. -/
def State.takeFeeds (s : State) (i : Nat) : State :=
  match tabGet? s.seqs i with
  | none => s
  | some q =>
    if s.sampling i q then s
    else q.feeds.foldl (fun s f => s.takeFeed i f) (s.setSeq i { q with feeds := [] })

/-- Sequences that wait for their home lane enter decode in the order in which they were opened (R522). -/
def State.enterDecode (s : State) : State :=
  (List.range 8).foldl (fun s lane =>
    if s.seqs.any fun x => decide (x.2.lane = lane) && decide (x.2.phase = .decode) then s
    else
      let ready := s.seqs.filter fun x => decide (x.2.lane = lane) && decide (x.2.phase = .waiting)
      match ready.foldl (fun (acc : Option (Nat × Sequence)) x => match acc with
          | none => some x
          | some y => if x.2.order < y.2.order then some x else some y) none with
      | none => s
      | some (i, q) => s.setSeq i { q with phase := .decode }) s

/-- Whether a sequence is in a wave in flight. -/
def State.inFlight (s : State) (i : Nat) : Bool := s.waves.any fun w => w.lanes.any fun x => decide (x.2.1 = i)

/-- A CLOSE takes effect at a wave boundary, once no wave carries the sequence (R304, R524). -/
def State.takeClose (s : State) (i : Nat) : State :=
  match tabGet? s.seqs i with
  | none => s
  | some q =>
    if q.closing.isNone || q.ending.isSome || s.inFlight i then s
    else s.endSeq i 4

/-- An ended sequence gives its pages back at a wave boundary, and is gone once its END record is written (R357,
R524). -/
def State.takeEnd (s : State) (i : Nat) : State :=
  match tabGet? s.seqs i with
  | none => s
  | some q =>
    if q.ending.isNone || s.inFlight i then s
    else
      let s := if s.bit (offSeq i + 8) 63 then (s.releasePages i).closeRegs i else s
      if s.outQ.any fun o => decide (o.seqn = i) then s
      else
        let s := q.feeds.foldl (fun s f => s.complete f.host.1 f.host.2 7 0#64) s
        let s := match q.closing with
          | some (sq, cid) => s.complete sq cid 0 0#64
          | none => s
        { s with seqs := tabErase s.seqs i }

/-- The command completes. -/
def State.ends (s : State) (c : HostCmd) (status : Nat) (result : Word) : State := s.complete c.sq.val c.cid.toNat status result

/-- The open sequences (R521). -/
def State.openSeqs (s : State) : List (Nat × Sequence) := s.seqs.filter fun x => x.2.ending.isNone

/-- An open sequence. -/
def State.openSeq? (s : State) (i : Nat) : Option Sequence := (tabGet? s.seqs i).filter fun q => q.ending.isNone

/-! Zeroed ranges. -/

/-- Cached lines of a range are dropped without write-back, chucked ones but cleaned (R201), and writes queued for it are done. -/
def State.dropRange (s : State) (lo n : Nat) : State :=
  let inside (ln : Nat) : Bool := decide (lo < 256 * ln + 256) && decide (256 * ln < lo + n)
  let s := ((s.fills.map (·.1)).filter inside).foldl State.finishLine s
  let s := ((s.lines.filter fun x => inside x.1 && !x.2.reds.isEmpty).map (·.1)).foldl State.finishLine s
  let s := ((s.evicts.map (·.1)).filter inside).foldl (fun s ln => (s.finishBack ln).dropCopy ln) s
  let s := (s.lines.filter fun x => inside x.1).foldl (fun s x => s.flushLine (if x.2.chuck.isSome then 1 else 3) none x.1) s
  s.drainRange lo n

/-- A range that starts at a line becomes zeros, in memory and for every reader. -/
def State.zeroRange (s : State) (lo n : Nat) : State :=
  let full := n / 256 * 256
  let s := s.dropRange lo full
  let s := { s with mem := s.mem.erase lo (lo + full) }.zeroLines lo full
  if n % 256 = 0 then s else s.cohStore (mgmtOf 0) 1 (lo + full) (List.replicate (n % 256) 0#8) false true

/-! OPEN (R304, R521). -/

/-- The home lane with the fewest open sequences, the lowest on a tie (R521). -/
def State.homeLane (s : State) : Nat :=
  let load (l : Nat) : Nat := (s.openSeqs.filter fun x => decide (x.2.lane = l)).length
  (List.range 8).foldl (fun b l => if load l < load b then l else b) 0

/-- The operands of OPEN are in their ranges (R516). -/
def openOk (c : HostCmd) : Bool :=
  let wp := fieldOf c.w2 10 0
  let p := fieldOf c.w2 23 16
  let x := fieldOf c.w2 63 48
  (decide (wp = 0) || (decide (16 ≤ wp) && decide (wp ≤ 1024))) && (decide (p = 255) || decide (p ≤ 128)) &&
    decide (fieldOf c.w4 7 0 ≤ 64) && (decide (x = 0xFFFF) || decide (x ≤ 1023))

/-- A sequence as OPEN makes it; x is the saved prefix that it shares. -/
def State.newSeq (s : State) (c : HostCmd) (x : Option Prefix) : Sequence :=
  let wp := fieldOf c.w2 10 0
  let p := fieldOf c.w2 23 16
  let k := fieldOf c.w4 7 0
  let hist := x.elim [] (·.tokens)
  let stops := [fieldOf c.w5 31 0, fieldOf c.w5 63 32, fieldOf c.w6 31 0, fieldOf c.w6 63 32].filter (· ≠ 0xFFFFFFFF)
  { lane := s.homeLane, seed := c.w1, wp := if wp = 0 then s.field offATT 10 0 else wp,
    p := if p = 255 then s.field offATT 23 16 else p, ring := fieldOf c.w2 31 24, bytesOut := bitOf c.w2 32,
    temp := BitVec.ofNat 32 (fieldOf c.w3 31 0), topp := BitVec.ofNat 32 (fieldOf c.w3 63 32), topk := if k = 0 then 64 else k,
    maxnew := fieldOf c.w4 63 32, stops := stops.map (BitVec.ofNat 32), phase := .opened, hist := hist, filled := hist.length,
    feeds := [], sawLast := false, sampled := 0, dpos := 0, order := s.nextOrder, redo := 0, inHeld := [], outHeld := [],
    closing := none, ending := none, share := x.map fun _ => fieldOf c.w2 63 48 }

/-- The page maps of a sequence that opens are empty (R349). -/
def State.clearMaps (s : State) (i : Nat) : State :=
  match s.image with
  | none => s
  | some g => s.zeroRange (s.field (offSeq i) 47 8 * 256) (g.layers * g.groups * 0x10300)

/-- All 64 bits of an operand word. -/
def anyWord : Nat := 2 ^ 64 - 1

/-- The operands of OPEN (R516). -/
def openMasks : List Nat := [anyWord, ones 10 0 ||| ones 32 16 ||| ones 63 48, anyWord, ones 7 0 ||| ones 63 32, anyWord, anyWord]

/-- The saved prefix that an OPEN names; none for 0xFFFF. -/
def State.openPrefix (s : State) (c : HostCmd) : Option Prefix :=
  let named := fieldOf c.w2 63 48
  if named = 0xFFFF then none else tabGet? s.prefixes named

/-- The status with which an OPEN is refused. -/
def State.openCheck (s : State) (c : HostCmd) : Option Nat :=
  if !openOk c || (decide (fieldOf c.w2 63 48 ≠ 0xFFFF) && s.hasImage && (s.openPrefix c).isNone) then some 1
  else if !s.hasImage then some 4
  else if (s.openSeq? c.seq.toNat).isSome then some 8
  else none

/-- An OPEN takes effect, unless its number's last sequence is not yet gone. -/
def State.openNow (s : State) (c : HostCmd) : State :=
  let i := c.seq.toNat
  match s.openCheck c with
  | some st => s.ends c st 0#64
  | none =>
    if (tabGet? s.seqs i).isSome then s
    else
      let q := s.newSeq c (s.openPrefix c)
      let s := { (s.record i 0 q.hist).setSeq i q with nextOrder := s.nextOrder + 1 }
      ((s.openRegs i q).clearMaps i).ends c 0 (BitVec.ofNat 64 q.lane)

/-- The OPENs in progress take effect, in the order in which they were logged (R304). -/
def State.takeOpens (s : State) : State :=
  (s.log.filter fun e => e.isOpen && e.begun && decide (e.cmd.opc.toNat = 0x03)).foldl (fun s e => s.openNow e.cmd) s

/-- A sequence that waits for the pages of its prefix (R353, R525). -/
def State.takeShare (s : State) (i : Nat) : State :=
  match tabGet? s.seqs i with
  | some q => if q.share.isSome then s.sharePrefix i q else s
  | none => s

/-- What takes effect at a wave boundary: shares, feeds, closes, ends, opens, lanes, freed pages and slots (R304, R353, R357,
R365, R523, R524). -/
def State.boundary (s : State) : State :=
  let each (f : State → Nat → State) (s : State) : State := (s.seqs.map (·.1)).foldl f s
  let s := each State.takeShare s
  let s := (each State.takeEnd (each State.takeClose (each State.takeFeeds s))).takeOpens
  let s := each State.takeShare s
  let s := s.enterDecode
  let s := s.freeNext.foldl State.freePage { s with freeNext := [] }
  { s with slots := s.slotNext.foldl slotInsert s.slots, slotNext := [] }

end Sys2Proof.Machine
end

