-- ==== Sys2Proof/Machine/Replay.lean ====
section
/-!
DEFINITION. Replay.lean: checkpoints and the replay of a layer (R393, R641 to R650).
-/
namespace Sys2Proof.Machine

/-- The context that runs a wave. -/
def Wave.ctx (w : Wave) : Ctx := if w.prefill then .p else .d

/-- Change the wave of a number. -/
def State.mapWave (s : State) (num : Nat) (f : Wave → Wave) : State :=
  { s with waves := s.waves.map fun w => if w.num.toNat = num then f w else w }

/-- Whether context c of core n runs a wave. -/
def State.runs (s : State) (n : Nat) (w : Wave) : Bool :=
  let x := s.ctx n w.ctx
  x.inWave && decide (fieldOf x.waveWord 47 0 = w.num.toNat)

/-! Commit (R393, R641, R643). -/

/-- The programs whose context runs waves of a kind. -/
def State.programsOf (s : State) (prefill : Bool) : List Program :=
  s.image.elim [] fun g => g.programs.filter fun p => !prefill || p.entryP.isSome

/-- Whether every station of layer l − 1 has reached its WBAR; for layer 0, every core has taken the wave. -/
def State.committable (s : State) (w : Wave) (l : Nat) : Bool :=
  (s.programsOf w.prefill).all fun p =>
    if l = 0 then w.saves.any fun x => decide (x.1 = startLayer) && decide (x.2.core = p.pos.val)
    else !p.layers.contains (l - 1) || w.reached.contains (p.pos.val, l - 1)

/-- The rank of a save: the save at the start of a wave comes before that of layer 0. -/
def saveRank (layer : Nat) : Nat := if layer = startLayer then 0 else layer + 1

/-- The save of each core context that checkpoint l takes: its latest below layer l. -/
def Wave.savesFor (w : Wave) (l : Nat) : List CtxSave :=
  let l' := w.saves.filter fun x => decide (saveRank x.1 ≤ l)
  (l'.filter fun x => l'.all fun y =>
    decide (y.2.core ≠ x.2.core) || decide (y.2.c ≠ x.2.c) || decide (saveRank y.1 ≤ saveRank x.1)).map (·.2)

/-- The flits of the boundary streams of layer l that a wave has sent (R641). -/
def State.boundaryFlits (s : State) (w : Wave) (l : Nat) : List (Nat × Flit) :=
  w.sent.filter fun x => (s.streamDef x.1).any fun d => decide (d.prodLayer < l) && decide (l ≤ d.consLayer)

/-- Contexts that wait at a WBAR with ALL = 1 for the boundary of a layer go on (R393). -/
def State.releaseWbar (s : State) (w : Wave) (layer : Nat) : State :=
  (s.cores.map (·.1)).foldl (fun s n =>
    let x := s.ctx n w.ctx
    if s.runs n w && decide (x.wait = .wbar layer) then (s.setCtx n w.ctx { x with wait := .none }).settle n else s) s

/-- CHECKPOINT_COMMIT: the checkpoint of a layer is committed; a wave keeps its latest two (R643). -/
def execCheckpointCommit (wave : BitVec 48) (layer : Fin 256) (s : State) : Host.Outcome State Fault Refusal :=
  let l := layer.val
  .next <|
    match s.waveOf wave.toNat with
    | none => s
    | some w =>
      if !s.live || w.paused || w.ckpts.any (fun c => decide (l ≤ c.layer)) || !s.committable w l then s
      else
        let c : Checkpoint := { layer := l, ctxs := w.savesFor l, flits := s.boundaryFlits w l }
        let s : State := s.mapWave w.num.toNat fun w => { w with ckpts := (w.ckpts ++ [c]).drop (w.ckpts.length - 1) }
        let s := { s with lastCommit := s.churns, lastCkpt := s.time }
        if l = 0 then s else s.releaseWbar w (l - 1)

/-! Replay (R647). -/

/-- An engine starts the layer from its reset state, unless it holds work of the other context, which then stays: its runs
fetch again what they have not entered. -/
def Engine.restart (g : Engine) (c : Ctx) : Engine :=
  let other := otherCtx c
  let again (r : Run) : Run := { r with fetched := r.entered.map fun m => m / r.fetchStep * r.fetchStep }
  if g.busyFor other then
    let g : Engine :=
      { g with queue := g.queue.filter (fun o => !o.isOf c), backQ := g.backQ.filter (fun o => !o.isOf c),
               eld := g.eld.filter (fun x => decide (x.c ≠ c)), edr := g.edr.filter (fun x => decide (x.c ≠ c)),
               runs := (g.runs.filter fun r => decide (r.c ≠ c)).map again,
               feeders := Vector.replicate 32 { hold := .ready, buf := [] },
               tiles := g.tiles.filter fun t => decide (t.c ≠ c) }
    { g with edr := g.edr.map fun x => { x with before := g.holdLeft } }
  else Engine.zero

/-- A core's units at the replay of a layer: engines, reduce unit and queues restart, and the group launches of the
context are killed. -/
def Core.restart (k : Core) (c : Ctx) : Core :=
  { k with
    e0 := k.e0.restart c, e1 := k.e1.restart c, rcx := k.rcx.filter fun r => decide (r.c ≠ c),
    streamQ := k.streamQ.filter fun o => !(o.isOf c true || o.isOf c false), gap := none,
    groups := k.groups.map fun x => if x.busy && decide (x.owner = c) then GroupCtx.zero else x,
    launches := k.launches.filter fun l => decide (l.c ≠ c) }

/-- A context restored from a checkpoint resumes at its recorded PC. -/
def Context.restore (x : Context) (v : CtxSave) (w : Wave) : Context :=
  { x with pc := v.pc, a := v.a, aPois := v.aPois, p := v.p, h := v.h, stopped := false, held := false, wait := .none, chuck := none,
           taint := false, waveWord := w.word, inWave := true, wbars := [], pendA := 0#32, pendV := 0#64 }

/-- Restore one context: registers and carry region. -/
def State.restoreCtx (s : State) (w : Wave) (v : CtxSave) : State :=
  let s := s.setCtx v.core v.c ((s.ctx v.core v.c).restore v w)
  match s.program v.core with
  | some p => s.storeWrite v.core p.carryLo v.carry false
  | none => s

/-- Restart a stream empty with B credits, then deliver boundary flits again, the rest when credits return. -/
def State.restartStream (s : State) (i : Nat) (d : StreamDef) (flits : List Flit) : State :=
  let s := s.setStrm i { StreamRt.fresh d.cap with credits := d.cap - flits.length, redo := flits.drop d.cap }
  (flits.take d.cap).foldl (fun s f => s.bufferFlit i d f) s

/-- A pipeline forgets the work of a context, and the partial results of a wave. -/
def Pipe.restart (p : Pipe) (c : Ctx) (num : Nat) : Pipe :=
  let p : Pipe := { p with inbox := p.inbox.filter fun x => decide (x.wave ≠ num) }
  let rest := p.queue.filter fun o => decide (o.c ≠ c)
  if rest.length = p.queue.length then p
  else if (rest.head?).any (·.begun) then { p with queue := rest, kept := ([], false, []) }
  else { p.forCtx (otherCtx c) with queue := rest, kept := ([], false, []), appends := 0#8, output := [] }

/-- The units of the contexts that run a wave restart, its requests and launches end, and it has not reached layer l (R647). -/
def State.restartUnits (s : State) (w : Wave) (ck : Checkpoint) : State :=
  let c := w.ctx
  let l := ck.layer
  let running := (s.cores.map (·.1)).filter fun n => s.runs n w
  let mine (r : Req) : Bool := match r.who with
    | .ctx n c' => running.contains n && decide (c' = c)
    | .grp n g => running.contains n && decide (((s.core n).group (Fin.ofNat 16 g)).owner = c)
    | .other => false
  let s := { s with reqs := s.reqs.filter fun r => !mine r }
  let s : State := running.foldl (fun (s : State) n => s.setCore n ((s.core n).restart c)) s
  let s : State := { s with pipes := s.pipes.map fun x => (x.1, x.2.restart c w.num.toNat) }
  s.mapWave w.num.toNat fun w =>
    { w with ckpts := w.ckpts.filter fun x => decide (x.layer ≤ l), reached := w.reached.filter fun x => decide (x.2 < l),
             saves := w.saves.filter fun x => decide (saveRank x.1 ≤ l),
             sent := w.sent.filter fun x => (s.streamDef x.1).any fun d => decide (d.prodLayer < l) }

/-- The streams of the layers that waves replay restart once, empty, and receive the boundary flits of those waves in their order
(R296, R647). -/
def State.restartStreams (s : State) (l : List (Wave × Checkpoint)) : State :=
  (s.image.elim [] (·.streams)).zipIdx.foldl (fun s x =>
    let mine := l.filter fun y => decide (y.2.layer ≤ x.1.consLayer)
    if mine.isEmpty then s
    else s.restartStream x.2 x.1 (mine.flatMap fun y => (y.2.flits.filter fun z => decide (z.1 = x.2)).map (·.2))) s

/-- Replay layer l of a wave from its committed checkpoint (R647). -/
def State.replayLayer (s : State) (w : Wave) (ck : Checkpoint) : State :=
  let running := (s.cores.map (·.1)).filter fun n => s.runs n w
  let s := (s.restartUnits w ck).restartStreams [(w, ck)]
  let s := ck.ctxs.foldl (fun s v => s.restoreCtx w v) s
  running.foldl State.settle s

/-- Whether a core has work to do again in the replay of layer l. -/
def State.again (s : State) (n l : Nat) : Bool := (s.program n).any fun p => p.layers.any fun x => decide (l ≤ x)

/-- The latest committed checkpoint of a wave. -/
def Wave.latest (w : Wave) : Option Checkpoint :=
  w.ckpts.foldl (fun acc c => match acc with
    | none => some c
    | some d => if d.layer < c.layer then some c else some d) none

/-- Where a wave resumes: its latest committed checkpoint, before the first its start. -/
def Wave.resumeAt (w : Wave) : Checkpoint := w.latest.getD { layer := 0, ctxs := w.savesFor 0, flits := [] }

/-- Every context goes on. -/
def State.release (s : State) : State :=
  let s : State := { s with cores := s.cores.map fun (x : Nat × Core) =>
    (x.1, { x.2 with d := { x.2.d with held := false }, p := { x.2.p with held := false } }) }
  s.settleAll

/-- Every wave in flight replays its interrupted layer (R656). A context that has work to do again in several waves goes back to the
lowest of them; one that has none goes on from the latest that it took. -/
def State.replayAll (s : State) : State :=
  let s : State := { s with waves := s.waves.map fun w => { w with paused := false } }
  let l := s.waves.map fun w => (w, w.resumeAt)
  let restore (again : Bool) (s : State) (x : Wave × Checkpoint) : State :=
    (x.2.ctxs.filter fun v => s.again v.core x.2.layer == again).foldl (fun s v => s.restoreCtx x.1 v) s
  let s := (l.foldl (fun s x => s.restartUnits x.1 x.2) s).restartStreams l
  (l.reverse.foldl (restore true) (l.foldl (restore false) s)).release

/-! Recoveries (R380, R656, R663, R681, R687). -/

/-- A context that a program starts in (R380). -/
def Context.load (entry : BitVec 20) (lo hi : Nat) : Context :=
  { Context.zero with pc := entry, active := true, lo := lo, hi := hi, entry := entry }

/-- A core after a core reset, with its program of the loaded image (R86, R380). -/
def State.loadCore (s : State) (n : Nat) : State :=
  let k : Core := { Core.zero with faults := (s.core n).faults }
  match s.program n with
  | none => s.setCore n k
  | some p =>
    s.setCore n { k with d := Context.load p.entryD p.lo p.hi,
                         p := p.entryP.elim Context.zero fun e => Context.load e p.lo p.hi }

/-- A core store: zeros with valid parity, then the program and the kernels of the loaded image (R656, R677). -/
def State.loadStore (s : State) (n : Nat) : State :=
  let s := { s with mem := s.mem.erase (coreKey n 0) (coreKey n 0x100000) }
  match s.image with
  | none => s
  | some g =>
    let s := (g.programs.filter fun p => decide (p.pos.val = n)).foldl (fun s p => s.storeWrite n p.codeAt p.code false) s
    let s := (g.kernels.filter fun k => k.cores.any fun c => decide (c.val = n)).foldl
      (fun s k => s.storeWrite n k.entry.toNat k.code false) s
    (g.pipes.filter fun x => decide (x.core.val = n)).foldl
      (fun s x => s.storeWrite n x.offset (x.words.flatMap fun w => leBytes 8 w.toNat) false) s

/-- The lowest number of a wave in flight, 0 when none is. -/
def State.firstWave (s : State) : Word :=
  (s.waves.foldl (fun (acc : Option Nat) w => match acc with
    | none => some w.num.toNat
    | some v => some (Nat.min v w.num.toNat)) none).elim 0#64 (BitVec.ofNat 64)

/-- A recovery has completed: ERR_RECOV, ERR_RECOV_UNIT, RECOV and the RECOVERED event (R681, R684, R687). -/
def State.recovered (s : State) (sub : Nat) (unit stall first : Word) : State :=
  let s := s.setReg (offERR + 0x40) (BitVec.ofNat 64 (sub * 2 ^ 56 + stall.toNat % 2 ^ 48))
  ((s.setReg (offERR + 0x48) unit).setBit offERR 1).event 1 sub unit (stall &&& maskOf 47 0) first

/-- The waves in flight wait while pages are regenerated: contexts D hold, contexts P stand ready for regeneration waves
(R663). -/
def State.pauseAll (s : State) : State :=
  let s : State := { s with waves := s.waves.map fun w => { w with paused := true }, streams := [],
                            reqs := s.reqs.filter fun r => decide (r.who = .other),
                            pipes := s.pipes.map fun (x : Nat × Pipe) => (x.1, { Pipe.zero with reserve := x.2.reserve }) }
  (s.cores.map (·.1)).foldl (fun s n =>
    let d := (s.core n).d
    let s := s.loadCore n
    let k := s.core n
    s.setCore n { k with d := { d with held := true } }) s

/-- Once no core waits for its failover and no page for its regeneration, the waves resume and the recoveries are reported
(R657, R663). -/
def State.tryResume (s : State) : State :=
  if s.resume.isEmpty || !s.failed.isEmpty || !s.regen.isEmpty then s
  else
    let first := s.firstWave
    let s := if s.stopped then s else s.replayAll
    s.resume.foldl (fun s x => s.recovered x.1 x.2.1 x.2.2 first) { s with resume := [] }

/-- REPLAYMAX (R648, R685). -/
def State.replayMax (s : State) : Nat := s.field (offERR + 8) 2 0

/-- Whether poison calls for a replay of layer l: the checkpoint after it holds poisoned flits, and the layer has been
replayed fewer than REPLAYMAX times (R637, R648). -/
def State.poisonReplay (s : State) (w : Wave) (l : Nat) : Bool :=
  (w.ckpts.any fun c => decide (c.layer = l + 1) && c.flits.any fun f => f.2.pois) &&
    decide (tabGetD w.replays l 0 < s.replayMax)

/-- Whether a program fault calls for a replay of layer l (R650). -/
def State.faultReplay (s : State) (w : Wave) (l : Nat) : Bool :=
  (w.latest.any fun c => decide (c.layer = l)) && !s.stopped &&
    s.cores.any fun k => s.runs k.1 w && (k.2.ctx w.ctx).stopped

/-- The core in which the poison of a checkpoint first arose: the producer of its first poisoned flit (R655). -/
def State.blame (s : State) (w : Wave) (l : Nat) : Option Nat :=
  match ((w.ckpts.filter fun c => decide (c.layer = l + 1)).flatMap (·.flits)).find? (·.2.pois) with
  | none => none
  | some (i, _) => (s.streamDef i).map fun d => d.prod.val

/-- A replay counts against the core in which its poison first arose. -/
def State.blamed (s : State) (n : Option Nat) : State :=
  match n with
  | none => s
  | some n => let k := s.core n; s.setCore n { k with replays := k.replays + 1 }

/-- The core whose context faulted in a wave. -/
def State.faultCore (s : State) (w : Wave) : Option Nat :=
  (s.cores.find? fun k => s.runs k.1 w && (k.2.ctx w.ctx).stopped).map (·.1)

/-- A replay after poison or a program fault is reported with SUB 6; VALUE is the stall in A-cycles (R5, R534, R648). -/
def State.replayed (s : State) (n : Option Nat) (stall : Word) (w : Wave) : State :=
  s.recovered 6 (n.elim 0#64 fun n => posUnit 1 n 0) stall (BitVec.ofNat 64 w.num.toNat)

end Sys2Proof.Machine
end

