-- ==== Sys2Proof/Machine/Wave.lean ====
section
/-!
DEFINITION. Wave.lean: the wave scheduler: starts, boundaries, back-fill, regeneration waves and period measurements (R297
to R325, R649 to R653).
-/
namespace Sys2Proof.Machine

/-- GLB_WAVE_STAT. -/
def offWSTAT : Nat := 0x108
/-- GLB_WAVE_PER. -/
def offWPER : Nat := 0x110

/-- GLB_WAVE_CTL as in force: a write takes effect at the next decode wave boundary (R322). -/
def State.ctlInForce (s : State) : Word := s.waveCtl.getD 0x100#64

/-- PFRUN and BFEN in force. -/
def State.pfrun (s : State) : Nat := fieldOf s.ctlInForce 7 0
/-- Back-fill is enabled. -/
def State.bfen (s : State) : Bool := bitOf s.ctlInForce 8

/-! Regeneration (R651 to R653). -/

/-- Where a sequence maps a page: layer, group and page number. -/
def State.mapsPage (s : State) (i page : Nat) : Option (Nat × Nat × Nat) :=
  (s.mapKeys.flatMap fun lg => (s.validEntries i lg.1 lg.2 (List.range ((s.seqLen i + 63) / 64))).map
    fun x => (lg.1, lg.2, x)).findSome? fun y => if y.2.2.2 = page then some (y.1, y.2.1, y.2.2.1) else none

/-- The lowest-numbered sequence that maps a page (R651). -/
def State.pageSeq (s : State) (page : Nat) : Option (Nat × Nat × Nat × Nat) :=
  (s.seqs.map (·.1)).findSome? fun i => (s.mapsPage i page).map fun y => (i, y)

/-- Whether a sequence waits for a page that is being regenerated (R653). -/
def State.needsRegen (s : State) (i : Nat) : Bool := s.regen.any fun page => (s.mapsPage i page).isSome

/-! Starting waves (R297 to R306). -/

/-- A new wave with the next number. -/
def State.newWave (s : State) (prefill inserted : Bool) (regen : Option Nat) (lanes : List (Nat × Nat × Nat)) : Wave :=
  { num := s.lastWave + 1#48, prefill := prefill, mask := maskBy 8 fun l => lanes.any fun x => decide (x.1 = l),
    inserted := inserted, regen := regen, lanes := lanes, reached := [], ckpts := [], saves := [], sent := [],
    replays := [], poisoned := 0#8, start := s.time, paused := false }

/-- Start a wave: GLB_WAVE_STAT reports it, and the contexts that wait for one take it (R323, R391). -/
def State.launchWave (s : State) (w : Wave) : State :=
  let s := { s with waves := s.waves ++ [w], lastWave := w.num }
  let s := (s.setField offWSTAT 47 0 w.num.toNat).putBit offWSTAT 48 w.prefill
  let s := if w.prefill then s else s.setField offWSTAT 63 56 w.mask.toNat
  (s.hintAtWave w.prefill).settleAll

/-- Whether another wave may start: the device runs and drains for no command, an image allows one more, and no regeneration
wave holds the units (R529, R644, R650, R653). -/
def State.mayStart (s : State) : Bool :=
  s.live && !s.stopped && !s.draining && s.failed.isEmpty && (s.image.any fun g => decide ((s.waves.filter fun w => !w.paused).length < g.maxWaves)) &&
    !s.waves.any fun w => w.regen.isSome

/-- The lanes of a decode wave: each decoding sequence in its lane at its last position (R299). -/
def State.decodeLanes (s : State) : List (Nat × Nat × Nat) :=
  (s.seqs.filter fun x => decide (x.2.phase = .decode) && x.2.ending.isNone && !s.needsRegen x.1).map
    fun x => (x.2.lane, x.1, x.2.hist.length - 1)

/-- The prompt positions that wait, in the order in which their sequences were opened; lanes ascend with positions
(R301). -/
def State.promptPositions (s : State) : List (Nat × Nat) :=
  let wait := s.seqs.filter fun x =>
    decide (x.2.phase = .prefill) && x.2.ending.isNone && decide (x.2.filled < x.2.hist.length) && !s.needsRegen x.1
  let ins (l : List (Nat × Sequence)) (x : Nat × Sequence) : List (Nat × Sequence) :=
    (l.filter fun y => decide (y.2.order < x.2.order)) ++ [x] ++ l.filter fun y => !decide (y.2.order < x.2.order)
  (wait.foldl ins []).flatMap fun x =>
    (List.range (Nat.min 8 (x.2.hist.length - x.2.filled))).map fun k => (x.1, x.2.filled + k)

/-- Whether any sequence is in decode (R306). -/
def State.anyDecode (s : State) : Bool := s.seqs.any fun x => decide (x.2.phase = .decode)

/-- Positions that a prefill wave takes leave the prefill queue. -/
def State.takePositions (s : State) (l : List (Nat × Nat)) : State :=
  l.foldl (fun s x => match tabGet? s.seqs x.1 with
    | none => s
    | some q => s.setSeq x.1 { q with filled := x.2 + 1 }) s

/-- WAVE_START: a decode wave of every decoding lane, after the one before; or a prefill wave of the next eight prompt
positions (R297 to R303, R306, R308, R653). -/
def execWaveStart (prefill : Bool) (s : State) : Host.Outcome State Fault Refusal :=
  .next <|
    if !s.mayStart then s
    else if prefill then
      let s := s.recallLanes (s.promptPositions.take 8)
      let lanes := (s.promptPositions.take 8).zipIdx.map fun x => (x.2, x.1.1, x.1.2)
      let busy := s.anyDecode
      let ins := busy && decide (s.inserted < s.pfrun)
      if lanes.isEmpty || !s.resume.isEmpty || (busy && !ins && !s.bfen) then s
      else
        let w := s.newWave true ins none lanes
        let s := s.takePositions (lanes.map (·.2))
        ({ s with inserted := if ins then s.inserted + 1 else s.inserted }).launchWave w
    else
      let s := s.recallLanes (s.decodeLanes.map (·.2))
      let lanes := s.decodeLanes
      let stalled := lanes.any fun x => match tabGet? s.seqs x.2.1 with
        | some q => s.egressStalled q.ring
        | none => false
      if lanes.isEmpty || stalled || !s.resume.isEmpty || s.waves.any (fun w => !w.prefill) then s
      else { s with inserted := 0 }.launchWave (s.newWave false false none lanes)

/-- PAGE_REGENERATION: a prefill wave over the next positions of a page, from the history of the lowest-numbered sequence
that maps it (R651, R653). -/
def execPageRegeneration (page : BitVec 24) (s : State) : Host.Outcome State Fault Refusal :=
  let id := page.toNat
  .next <|
    if !s.mayStart || !s.regen.contains id then s
    else
      match s.pageSeq id with
      | none => State.tryResume { s with regen := s.regen.filter (· ≠ id) }
      | some (i, _, _, p) =>
        let done := tabGetD s.regenPos id 0
        let valid := Nat.min 64 (s.seqLen i - 64 * p)
        let lanes := (List.range (Nat.min 8 (valid - done))).map fun k => (k, i, 64 * p + done + k)
        let s := s.recallLanes (lanes.map (·.2))
        if lanes.isEmpty || (tabGet? s.seqs i).any (·.ending.isSome) then s
        else
          let w := s.newWave true true (some id) lanes
          ({ s with regenPos := tabSet s.regenPos id (done + lanes.length) }).launchWave w

/-! The end of a wave (R300, R302, R304, R649). -/

/-- The layers that a wave runs at a station: every one, or up to the layer of the page that it regenerates (R651). -/
def State.waveLayers (s : State) (w : Wave) (p : Program) : List Nat :=
  match w.regen.bind s.pageSeq with
  | some (_, l, _, _) => p.layers.filter fun x => decide (x ≤ l)
  | none => p.layers

/-- Whether every station has run a wave to the end. -/
def State.waveRun (s : State) (w : Wave) : Bool :=
  (s.programsOf w.prefill).all fun p => (s.waveLayers w p).all fun l => w.reached.contains (p.pos.val, l)

/-- The lanes of a wave that are to give a token. -/
def State.wantLanes (s : State) (w : Wave) : List Nat :=
  (w.lanes.filter fun x => (tabGet? s.seqs x.2.1).any (w.wants · x.2.2)).map (·.1)

/-- Whether the sampled tokens are those that a wave gives: one for every lane that wants one and is not poisoned. -/
def State.waveMatches (s : State) (w : Wave) (sampled : List (Fin 8 × BitVec 32)) : Bool :=
  s.waveRun w && (List.range 8).all fun l =>
    decide ((sampled.filter fun x => decide (x.1.val = l)).length =
      flag ((s.wantLanes w).contains l && !w.poisoned.getLsbD l))

/-- A lane found poisoned at egress: its step is redone once, and a second time ends the sequence (R649, R654). -/
def State.redoLane (s : State) (w : Wave) (i pos : Nat) : State :=
  match tabGet? s.seqs i with
  | none => s
  | some q =>
    if q.ending.isSome then s
    else if 0 < q.redo then s.abortSeq i 1
    else s.setSeq i { q with redo := 1, filled := if w.prefill then Nat.min q.filled pos else q.filled }

/-- A regeneration wave found poisoned: the page starts again, and a second time ends its sequence (R654). -/
def State.redoPage (s : State) (id : Nat) : State :=
  let n := tabGetD s.regenBad id 0 + 1
  let s := { s with regenPos := tabErase s.regenPos id, regenBad := tabSet s.regenBad id n, regen := natInsert s.regen id }
  if n < 2 then s
  else
    match s.pageSeq id with
    | none => s
    | some (i, _) => s.abortSeq i 3

/-- The first token of a prompt ends its prefill (R302, R522). -/
def State.endPrefill (s : State) (i : Nat) : State :=
  match tabGet? s.seqs i with
  | none => s
  | some q => if q.phase = .prefill then s.setSeq i { q with phase := .waiting } else s

/-- What the lanes of a finished wave bring: tokens, or steps to redo. -/
def State.finishLanes (s : State) (w : Wave) (sampled : List (Fin 8 × BitVec 32)) : State :=
  w.lanes.foldl (fun s x =>
    if w.poisoned.getLsbD x.1 then
      if w.regen.isSome then s else s.redoLane w x.2.1 x.2.2
    else
      match sampled.find? (fun y => decide (y.1.val = x.1)) with
      | none => s
      | some y => (s.sampleToken x.2.1 y.2 w.num).endPrefill x.2.1) s

/-- The period of a finished decode wave: MEAS, and the measurements that are under way (R316, R324). -/
def State.measurePeriod (s : State) (w : Wave) : State :=
  let ps := ((s.time - w.start) :: s.periods).take 16
  let s := { s with periods := ps, measure := s.measure.map fun (m : Word × Nat × Bool) => (m.1, m.2.1 - 1, m.2.2) }
  s.setField offWPER 31 0 (total ps / ps.length)

/-- A wave leaves the device. -/
def State.retire (s : State) (w : Wave) (sampled : List (Fin 8 × BitVec 32)) : State :=
  let s := { s with waves := s.waves.filter fun x => decide (x.num ≠ w.num) }
  let s := s.finishLanes w sampled
  let s := match w.regen with
    | some id => if w.poisoned = 0#8 then s else s.redoPage id
    | none => s
  if w.prefill then s.count 0 5 1
  else
    let s := (s.count 0 4 1).measurePeriod w
    { s with waveCtl := some (s.reg 0x100) }

/-- The oldest wave in flight of a kind. -/
def State.oldest (s : State) (prefill : Bool) : Option Wave :=
  (s.waves.filter fun w => !w.paused && decide (w.prefill = prefill)).foldl (fun acc w => match acc with
    | none => some w
    | some v => if w.num.toNat < v.num.toNat then some w else some v) none

/-- The wave that a boundary with these tokens ends: of the oldest decode and the oldest prefill wave, the lower-numbered
one that they fit. -/
def State.endingWave (s : State) (sampled : List (Fin 8 × BitVec 32)) : Option Wave :=
  let fits (o : Option Wave) : Option Wave := o.filter fun w => s.waveMatches w sampled
  match fits (s.oldest false), fits (s.oldest true) with
  | some v, some w => if v.num.toNat < w.num.toNat then some v else some w
  | some v, none => some v
  | none, o => o

/-- WAVE_BOUNDARY: a wave ends with the tokens of its lanes, and what waits for a wave boundary takes effect; with no wave
in flight only the latter (R300, R302, R304, R649). -/
def execWaveBoundary (sampled : List (Fin 8 × BitVec 32)) (s : State) : Host.Outcome State Fault Refusal :=
  .next <|
    if !s.live then s
    else if s.waves.isEmpty then (if sampled.isEmpty then s.boundary else s)
    else
      match s.endingWave sampled with
      | none => s
      | some w => (s.retire w sampled).boundary.tryResume

/-! Back-fill (R308, R310). -/

/-- The back-fill work at the head of what waits for a gap: an ELD with the EWS behind it, or one of the two; its rows and
tiles, the address of its run, and how many operations it is. -/
def headWork : List EngOp → Option (Nat × Nat × Nat × Nat)
  | .eld _ _ n _ _ _ :: .ews _ _ _ t a :: _ => some (n, t, a, 2)
  | .eldStream _ _ n _ _ _ :: .ews _ _ _ t a :: _ => some (n, t, a, 2)
  | .eld _ _ n _ _ _ :: _ => some (n, 0, 0, 1)
  | .eldStream _ _ n _ _ _ :: _ => some (n, 0, 0, 1)
  | .ews _ _ _ t a :: _ => some (0, t, a, 1)
  | _ => none

/-- The beats before the first plane of a run (R88): scale beats, and for T4 table beats, 4 index beats and 1 A-cycle. -/
def leadBeats (w : BitVec 3) (t : Nat) : Nat := if t = 0 then 0 else (t + 7) / 8 + (if w = 3#3 then (t + 31) / 32 + 5 else 0)

/-- The row time of N rows and T tiles (R88); the first-beat latency is 8 in the base-die half (R65). -/
def rowTime (w : BitVec 3) (n t addr : Nat) : Nat :=
  let l := if addr % 0x2000000 < 0x1400000 then 6 else 8
  n + t * planesOf w + (if t = 0 then 0 else l + leadBeats w t - n)

/-- BACKFILL_ISSUE: the back-fill work that waits at an engine issues in an open gap whose marked length its row time fits;
one that does not fit waits for a later gap, and what is left when no sequence decodes any more is back-fill no longer
(R306, R308). -/
def execBackfillIssue (core : Fin 624) (e : Fin 2) (s : State) : Host.Outcome State Fault Refusal :=
  let k := s.core core.val
  let g := k.eng e.val
  .next <|
    match headWork g.backQ with
    | none => s
    | some (n, t, a, cnt) =>
      let fits := s.bfen && k.gap.any fun len => decide (rowTime (cfgFrom g.cfg g.queue).wfmt n t a ≤ len)
      if s.coreLive core.val && (fits || !s.anyDecode) && decide (g.queue.length + cnt ≤ 8) then
        (s.setCore core.val (k.setEng e.val
          { g with queue := g.queue ++ g.backQ.take cnt, backQ := g.backQ.drop cnt })).engAfter core.val e.val
      else s

/-- CHATTER_SKIP_END: ACLK of the top die resumes, and what its cores hold goes on (R85, R695). -/
def execChatterSkipEnd (stack : Fin 4) (s : State) : Host.Outcome State Fault Refusal :=
  let s : State := { s with power := { s.power with chatter := s.power.chatter &&& ~~~ BitVec.twoPow 4 stack.val } }
  .next (((s.cores.map (·.1)).filter fun n => decide (n / 156 = stack.val)).foldl State.coreRun s)

/-! Degradation (R316 to R318). -/

/-- A unit is degraded: the next 16 decode waves are measured (R316). -/
def State.degrade (s : State) (unit : Word) : State := { s with measure := s.measure ++ [(unit, 16, false)] }

/-- A DEGRADED event that names only a spare carries the unchanged period and starts no condition (R318). -/
def State.degradedSpare (s : State) (unit : Word) : State :=
  s.event 2 0 unit (BitVec.ofNat 64 (s.field offWPER 31 0)) (BitVec.ofNat 64 (s.field offWPER 63 32))

/-- DEGRADED_MEASUREMENT: the mean period of 16 decode waves after a degradation. After a load with GMDIFF = 1 it is
reported only above BUDGET by more than 2 % (R316, R318). -/
def execDegradedMeasurement (period : BitVec 32) (s : State) : Host.Outcome State Fault Refusal :=
  .next <|
    match s.measure.find? fun m => decide (m.2.1 = 0) with
    | none => s
    | some m =>
      let budget := s.field offWPER 63 32
      let s := { s with measure := s.measure.erase m }
      let s := s.setField offWPER 31 0 period.toNat
      if m.2.2 && decide (100 * period.toNat ≤ 102 * budget) then s
      else
        let s := s.event 2 0 m.1 (BitVec.ofNat 64 period.toNat) (BitVec.ofNat 64 budget)
        if budget < period.toNat then s.setBit offWSTAT 49 else s

end Sys2Proof.Machine
end

