-- ==== Sys2Proof/Machine/Rings.lean ====
section
/-!
DEFINITION. Rings.lean: doorbells, rings switched on and off, messages and snoops (R495, R502 to R512, R539, R546, R547,
R777).
-/
namespace Sys2Proof.Machine

/-! Submission (R506 to R508, R511, R546, R547). -/

/-- Whether the device may read the next entry of submission ring i. -/
def State.mayPull (s : State) (i : Fin 64) : Bool :=
  s.ringEn (.sub i) && !(s.ring (.sub i)).halted && s.ringCarried (.sub i) && decide (s.log.length < 1024) &&
    !(s.ringEn (.comp (s.compRing i)) && s.ringFull (.comp (s.compRing i)))

/-- Read covered entries of ring i into the command log, at most so many. An entry whose read fails stops the ring with ERR
(R555). -/
def State.pullRing (s : State) (i : Fin 64) : Nat → State
  | 0 => s
  | fuel + 1 =>
    if !s.mayPull i || decide (s.ringDev (.sub i) = s.ringHost (.sub i)) then s
    else
      let r := s.ring (.sub i)
      match r.covered with
      | [] => (s.setRing (.sub i) { r with halted := true }).setBit (ringOff (.sub i) + 0x10) 33
      | c :: rest =>
        let e : LogEntry :=
          { cmd := c, port := s.ringPort (.sub i), stage := .waiting, replayed := false, written := false, slot := s.freeSlot }
        let s := (s.logCmd e).setRing (.sub i) { r with covered := rest }
        let d := (s.ringDev (.sub i) + 1) % s.ringSize (.sub i)
        ((s.setField (ringOff (.sub i) + 0x10) 31 16 d).settleCmds).pullRing i fuel

/-- Read every submission ring that has covered entries. -/
def State.pullAll (s : State) : State :=
  (List.range 64).foldl (fun s i =>
    let i : Fin 64 := Fin.ofNat 64 i
    if s.ringDev (.sub i) = s.ringHost (.sub i) then s else s.pullRing i 1024) s

/-- Keep the last value written to a doorbell during a recovery (R674). -/
def State.holdBell (s : State) (r : RingId) (v : Word) (entries : List HostCmd) : State :=
  { s with boot := { s.boot with heldBells := (s.boot.heldBells.filter fun x => decide (x.1 ≠ r)) ++ [(r, v, entries)] } }

/-- A doorbell write that is not a single aligned 64-bit access has no effect and is recorded (R10, R502); the registers of BAR2
have no device address (notes/assumptions/72.md). -/
def State.narrowBell (s : State) : State := s.errRec 11 0 0#64 0

/-- A doorbell that breaks R506 or R507 sets ERR. -/
def State.badBell (s : State) (r : RingId) : State := s.setBit (ringOff r + 0x10) 33

/-- The entries that a head doorbell acknowledges, none where it breaks its rule (R506, R507). -/
def State.acked (s : State) (r : RingId) (v : Word) : Option Nat :=
  let idx := fieldOf v 15 0
  let n := s.ringSize r
  let k := modSub idx (s.ringHost r) n
  if !s.ringEn r || decide (n ≤ idx) || decide (modSub (s.ringDev r) (s.ringHost r) n < k) then none else some k

/-- The host's index of a ring becomes INDEX. -/
def State.setHost (s : State) (r : RingId) (v : Word) : State := s.setField (ringOff r + 0x10) 15 0 (fieldOf v 15 0)

/-- A submission doorbell acts: the entries from the old tail to INDEX are covered (R507, R508). -/
def State.ringSub (s : State) (i : Fin 64) (v : Word) (entries : List HostCmd) : State :=
  let r := RingId.sub i
  let idx := fieldOf v 15 0
  let n := s.ringSize r
  let k := modSub idx (s.ringHost r) n
  if !s.ringEn r || decide (n ≤ idx) || decide (n ≤ modSub (s.ringHost r) (s.ringDev r) n + k) then s.badBell r
  else
    let s := (s.trace 5 (i.val * 65536) 0 0 0).setHost r v
    let rt := s.ring r
    (s.setRing r { rt with covered := rt.covered ++ entries.take k }).pullRing i 1024

/-- SUBMISSION_DOORBELL (R10, R502, R506 to R508, R674). -/
def execSubmissionDoorbell (i : Fin 64) (w : BellWrite) (entries : List HostCmd) (s : State) :
    Host.Outcome State Fault Refusal :=
  .next (if !w.whole then s.narrowBell else if s.boot.recovering then s.holdBell (.sub i) w.value entries else s.ringSub i w.value entries)

/-! Heads (R507, R547, R645). -/

/-- Remove the first element that satisfies p. -/
def dropFirst {α : Type} (p : α → Bool) : List α → List α
  | [] => []
  | x :: t => if p x then t else x :: dropFirst p t

/-- A completion doorbell acts: acknowledged commands leave the log (R547). -/
def State.ringComp (s : State) (i : Fin 64) (v : Word) : State :=
  match s.acked (.comp i) v with
  | none => s.badBell (.comp i)
  | some k =>
    let sent := tabGetD s.compSent i.val []
    let log := (sent.take k).foldl (fun l x => dropFirst (fun e => isEntry x.1 x.2 e && e.written) l) s.log
    (State.flushCompletions { s.setHost (.comp i) v with log := log, compSent := tabSet s.compSent i.val (sent.drop k) }).pullAll

/-- COMPLETION_DOORBELL (R10, R502, R507, R547). -/
def execCompletionDoorbell (i : Fin 64) (w : BellWrite) (s : State) : Host.Outcome State Fault Refusal :=
  .next (if !w.whole then s.narrowBell else if s.boot.recovering then s.holdBell (.comp i) w.value [] else s.ringComp i w.value)

/-- DPOS of a sequence after a record of it is acknowledged; rest holds the records written after it, among which an END of
that sequence number says that the record was an earlier sequence's (R645). -/
def State.ackOut (s : State) (o : OutRec) (rest : List OutRec) : State :=
  if o.kind = 3 || rest.any (fun x => decide (x.seqn = o.seqn) && decide (x.kind = 3)) then s
  else
    match tabGet? s.seqs o.seqn with
    | none => s
    | some q => s.setSeq o.seqn { q with dpos := Nat.max q.dpos (o.pos + 1) }

/-- Acknowledge k records of a list. -/
def State.ackOuts (s : State) : List OutRec → Nat → State
  | o :: rest, k + 1 => (s.ackOut o rest).ackOuts rest k
  | _, _ => s

/-- An output doorbell acts (R507, R645). -/
def State.ringOut (s : State) (i : Fin 256) (v : Word) : State :=
  match s.acked (.out i) v with
  | none => s.badBell (.out i)
  | some k =>
    let sent := tabGetD s.outSent i.val []
    let s := s.ackOuts sent k
    State.flushOutput { s.setHost (.out i) v with outSent := tabSet s.outSent i.val (sent.drop k) }

/-- OUTPUT_DOORBELL (R10, R502, R507, R645). -/
def execOutputDoorbell (i : Fin 256) (w : BellWrite) (s : State) : Host.Outcome State Fault Refusal :=
  .next (if !w.whole then s.narrowBell else if s.boot.recovering then s.holdBell (.out i) w.value [] else s.ringOut i w.value)

/-- An event doorbell acts (R507, R511). -/
def State.ringEv (s : State) (i : Fin 2) (v : Word) : State :=
  match s.acked (.ev i) v with
  | none => s.badBell (.ev i)
  | some k =>
    let sent := tabGetD s.evSent i.val []
    State.drainEvents { s.setHost (.ev i) v with evSent := tabSet s.evSent i.val (sent.drop k) } i 64

/-- EVENT_DOORBELL (R10, R502, R507, R511). -/
def execEventDoorbell (i : Fin 2) (w : BellWrite) (s : State) : Host.Outcome State Fault Refusal :=
  .next (if !w.whole then s.narrowBell else if s.boot.recovering then s.holdBell (.ev i) w.value [] else s.ringEv i w.value)

/-- A doorbell held during a recovery acts at its end (R674). -/
def State.ringBell (s : State) (x : RingId × Word × List HostCmd) : State :=
  match x.1 with
  | .sub i => s.ringSub i x.2.1 x.2.2
  | .comp i => s.ringComp i x.2.1
  | .out i => s.ringOut i x.2.1
  | .ev i => s.ringEv i x.2.1

/-- Every doorbell held during a recovery. -/
def State.ringBells (s : State) : State :=
  s.boot.heldBells.foldl State.ringBell { s with boot := { s.boot with heldBells := [] } }

/-! Rings on and off (R505, R512, R539, R554). -/

/-- A write of BASE is ignored while EN is 1 (R505). -/
def State.baseWrite (s : State) (r : RingId) (v : Word) : State :=
  if s.ringEn r then s else s.setReg (ringOff r) (v &&& maskOf 63 12)

/-- What a ring holds back goes out when its EN returns to 1 (R512). -/
def State.ringOn (s : State) (r : RingId) : State :=
  let s := s.setReg (ringOff r + 0x10) (s.reg (ringOff r + 0x10) &&& maskOf 33 32)
  let s := s.setRing r { RingRt.zero with used := true }
  match r with
  | .sub _ => s
  | .comp i =>
    let sent := tabGetD s.compSent i.val []
    let log := sent.foldl (fun l x => updateFirst (fun e => isEntry x.1 x.2 e && e.written)
      (fun e => { e with written := false }) l) s.log
    (State.flushCompletions { s with log := log, compQ := sent ++ s.compQ, compSent := tabErase s.compSent i.val }).pullAll
  | .out i =>
    let sent := tabGetD s.outSent i.val []
    State.flushOutput { s with outQ := sent ++ s.outQ, outSent := tabErase s.outSent i.val }
  | .ev i =>
    let sent := tabGetD s.evSent i.val []
    let sent := sent.drop (sent.length - 64)
    State.drainEvents { s with evHeld := tabSet s.evHeld i.val (sent ++ tabGetD s.evHeld i.val []),
                               evSent := tabErase s.evSent i.val } i 128

/-- A write of CFG (R12, R505, R512, R554, R555): LOG2N is kept while EN is 1. -/
def State.cfgWrite (s : State) (r : RingId) (v : Word) : State :=
  let o := ringOff r + 8
  let was := s.bit o 63
  let n := if was then s.field o 4 0 else fieldOf v 4 0
  let s := s.setReg o (putField (v &&& BitVec.ofNat 64 0x81FF3FF800000000) 4 0 n)
  if bitOf v 63 && !was then s.ringOn r
  else
    match r with
    | .sub i =>
      let rt := s.ring r
      if bitOf v 63 then (s.setRing r { rt with halted := false }).pullRing i 1024
      else s.setRing r { rt with covered := [], halted := false }
    | _ => s

/-- Ring registers take a write from a port whose link is up, and none during a recovery (R674). -/
def State.hearsPort (s : State) (p : Port) : Bool := s.portUp p && !s.boot.recovering

/-- RING_ENABLE: EN of a ring is written 1 (R505, R512). -/
def execRingEnable (port : Port) (r : RingId) (v : Word) (s : State) : Host.Outcome State Fault Refusal :=
  .next (if s.hearsPort port then s.cfgWrite r (putField v 63 63 1) else s)

/-- RING_DISABLE: EN of a ring is written 0; the device holds what would go to it (R512). -/
def execRingDisable (port : Port) (r : RingId) (v : Word) (s : State) : Host.Outcome State Fault Refusal :=
  .next (if s.hearsPort port then s.cfgWrite r (putField v 63 63 0) else s)

/-- Clear EN of every ring whose PORT names a port (R540). -/
def State.ringsOff (s : State) (p : Port) : State :=
  let all : List RingId := ((List.range 2).map fun i => RingId.ev (Fin.ofNat 2 i)) ++
    ((List.range 64).map fun i => RingId.sub (Fin.ofNat 64 i)) ++ ((List.range 64).map fun i => RingId.comp (Fin.ofNat 64 i)) ++
    (List.range 256).map fun i => RingId.out (Fin.ofNat 256 i)
  all.foldl (fun s r =>
    if s.ringEn r && decide (s.ringPort r = p) then s.cfgWrite r (putField (s.reg (ringOff r + 8)) 63 63 0) else s) s

/-! The trace ring (R777, R778). -/

/-- A write of TIME_TR_CFG (R12, R778): EN from 0 to 1 sets DEV and HEAD to 0. -/
def State.traceCfg (s : State) (v : Word) : State :=
  let o := offTIME + 0x108
  let was := s.bit o 63
  let s := s.setReg o (v &&& BitVec.ofNat 64 0x8100000000003F1F)
  if bitOf v 63 && !was then
    { (s.setField (offTIME + 0x110) 51 32 0).setField (offTIME + 0x110) 19 0 0 with
      rings := tabSet s.rings traceKey { RingRt.zero with used := true } }
  else s

/-- TRACE_RING_ENABLE (R777, R778). -/
def execTraceRingEnable (port : Port) (v : Word) (s : State) : Host.Outcome State Fault Refusal :=
  .next (if s.hearsPort port then s.traceCfg (putField v 63 63 1) else s)

/-! Messages and snoops. -/

/-- MSI_X_MESSAGE: the message of a vector with entries to report is sent (R510). -/
def execMsiXMessage (vec : Fin 66) (s : State) : Host.Outcome State Fault Refusal :=
  .next <|
    if s.outbox.msixDue.contains vec.val && (s.portUp .a || s.portUp .b) then
      { s with outbox := { s.outbox with msix := s.outbox.msix ++ [vec.val],
                                         msixDue := s.outbox.msixDue.filter (· ≠ vec.val) } }
    else s

/-- HOST_SNOOP: the device keeps no host line and answers every snoop as a miss (R495). -/
def execHostSnoop (port : Port) (_addr : BitVec 64) (s : State) : Host.Outcome State Fault Refusal :=
  .next (if s.portUp port then { s with outbox := { s.outbox with snoops := s.outbox.snoops + 1 } } else s)

end Sys2Proof.Machine
end

