-- ==== Sys2Proof/Machine/FieldCtl.lean ====
section
/-!
DEFINITION. FieldCtl.lean: changes of a field's split and of the region table (R132 to R136, R179, R182).
-/
namespace Sys2Proof.Machine

/-- STN_FLD_SPLIT of position n. -/
def offSPLIT (n : Nat) : Nat := offSTN n + 0x880
/-- STN_FLD_STAT of position n. -/
def offFST (n : Nat) : Nat := offSTN n + 0x888

/-- Whether a split write is ignored with REJ: an image is loaded, a value outside 4 to 16, a K12, a line homed in the
stack is chucked, a backing record in the moving range (R132, R135, R136, R179), or a change is in progress. -/
def State.splitRefused (s : State) (n f : Nat) : Bool :=
  let a := s.fprop n
  s.hasImage || isK12 n || decide (f < 4) || decide (16 < f) || s.bit (offFST n) 0 ||
    (decide (f ≠ a) && (s.lines.any (fun x => decide (x.2.pos / 156 = n / 156) && x.2.chuck.isSome) ||
      s.backedIn n (Nat.min a f * 0x200000) ((Nat.max a f - Nat.min a f) * 0x200000)))

/-- A write of STN_FLD_SPLIT: FPROP reads the value written from now on; a change sets PEND and starts, the old split in force
until it is complete, or the write is ignored with REJ (R132 to R136, R179). -/
def State.splitWrite (s : State) (n : Nat) (v : Word) : State :=
  let f := fieldOf v 4 0
  if s.splitRefused n f then s.setBit (offFST n) 8
  else if f = s.fprop n then s
  else ({ s with splits := tabSet s.splits n (s.fprop n) }.setField (offSPLIT n) 4 0 f).setBit (offFST n) 0

/-- FLD_SPLIT_WRITE (R132 to R136, R179). -/
def execFldSplitWrite (port : Port) (core : Fin 624) (v : Word) (s : State) : Host.Outcome State Fault Refusal :=
  .next (if s.hearsPort port && !s.isSealed then s.splitWrite core.val v else s)

/-- SPLIT_CHANGE_COMPLETE: the stack's slices are drained, written back and invalidated, the moving range is zeroed, and
the new split holds (R134, R179). -/
def execSplitChangeComplete (core : Fin 624) (s : State) : Host.Outcome State Fault Refusal :=
  let n := core.val
  .next <|
    match tabGet? s.splits n with
    | none => s
    | some a =>
      if !s.live then s
      else
        let f := s.field (offSPLIT n) 4 0
        let s := s.flushSlices fun pos => decide (pos / 156 = n / 156)
        let s := { s with mem := s.mem.erase (fieldKey n (Nat.min a f * 0x200000)) (fieldKey n (Nat.max a f * 0x200000)),
                          splits := tabErase s.splits n }
        s.clearBit (offFST n) 0

/-- A write of a region-table register: every slice of the device is written back and invalidated first; or the write is
ignored, and REJ of the stack whose window carried it is set (R182, R222). -/
def State.regionWrite (s : State) (st : Nat) (i : Fin 16) (lim : Bool) (v : Word) : State :=
  let w : Word := if lim then v &&& maskOf 47 30 else v &&& (maskOf 63 63 ||| maskOf 59 57 ||| maskOf 47 30)
  if s.hasImage || s.anyChuck || (!lim && bitOf w 63 && decide (fieldOf w 59 58 = 3)) then s.setBit (offCACHE st + 8) 17
  else (s.flushSlices fun _ => true).setReg (offREG i.val + (if lim then 8 else 0)) w

/-- REGION_TABLE_WRITE, through the window of stack 0 (R182). -/
def execRegionTableWrite (port : Port) (i : Fin 16) (lim : Bool) (v : Word) (s : State) : Host.Outcome State Fault Refusal :=
  .next (if s.hearsPort port then s.regionWrite 0 i lim v else s)

end Sys2Proof.Machine
end

