-- ==== Sys2Proof/Machine/Fail.lean ====
section
/-!
DEFINITION. Fail.lean: cores, fields, links and edges that fail, failover onto a spare, planned failover and rotation (R20,
R21, R35 to R37, R137, R138, R162, R655 to R666).
-/
namespace Sys2Proof.Machine

/-! Holding and dropping. -/

/-- MC0 holds every context of the waves in flight (R656). -/
def State.hold (s : State) : State :=
  let held (x : Context) (c : Ctx) : Context :=
    if x.inWave && s.waves.any (fun w => decide (w.ctx = c) && decide (w.num.toNat = fieldOf x.waveWord 47 0)) then
      { x with held := true }
    else x
  { s with cores := s.cores.map fun (x : Nat × Core) => (x.1, { x.2 with d := held x.2.d .d, p := held x.2.p .p }) }

/-- A slice is invalidated without write-back (R137): its fills complete, and reductions that waited there go back to their
requesters. -/
def State.dropSlice (s : State) (pos : Nat) : State :=
  let s := (s.fills.filter fun x => decide (x.2.pos = pos)).foldl (fun s x => s.finishFill x.1) s
  let mine := s.lines.filter fun x => decide (x.2.pos = pos)
  let back (s : State) (id : Nat) : State :=
    { s with reqs := s.reqs.map fun (r : Req) => if r.id = id then { r with stage := .sent, arr := 0 } else r }
  let s := mine.foldl (fun s x => (x.2.reds.filterMap (·.2)).foldl back s) s
  let s := mine.foldl (fun s x => s.dropLine x.1) s
  (s.evicts.filter fun x => decide (x.2.line.pos = pos)).foldl (fun s x =>
    if x.2.issued then s.finishBack x.1 else s.dropCopy x.1) s

/-- Vacate the slice of a cluster's logical K12 for a failover (R137, R215): its lines are CLEAN and leave it, so that none of them
outlives the stores that go to memory meanwhile. -/
def State.vacate (s : State) (g : Nat) : State := s.dropSlice (13 * g + 12)

/-- The flits of a line that hold dirty bytes. -/
def Line.dirtyFlits (l : Line) : BitVec 4 := maskBy 4 fun q => decide (l.mask &&& byteMask (64 * q) 64 ≠ 0#256)

/-- The dirty flits of a slice whose field is lost are written to memory as poisoned, and the slice is empty; reductions accepted on its
lines are lost with them, and their flits poisoned (R663). -/
def State.poisonSlice (s : State) (pos : Nat) : State :=
  let bad (l : Line) : Line := { l with pois := l.pois ||| l.dirtyFlits }
  let mark (x : Nat × Line) : Nat × Line := if x.2.pos = pos then (x.1, bad x.2) else x
  let copy (x : Nat × Evict) : Nat × Evict :=
    if x.2.line.pos = pos ∧ !x.2.issued then (x.1, { x.2 with line := bad x.2.line }) else x
  let s : State := { s with lines := s.lines.map mark, evicts := s.evicts.map copy }
  let s := s.settleSlices fun p => decide (p = pos)
  let s : State := { s with lines := s.lines.map mark }
  (s.flushLines fun l => decide (l.pos = pos)).dropSlice pos

/-! No spare (R658). -/

/-- The device ends its sequences with cause 5, starts no further wave, and sends FAULT. -/
def State.noSpare (s : State) (sub : Nat) (unit : Word) : State := ((s.abortAll 5).stopWaves).event 9 sub unit 0#64 0#64

/-- A position is mapped out: its stack's slices are written back first, since their lines change homes, and the chuck regions that have
lines there are released, as by UNCHUCK (notes/assumptions/26.md). -/
def State.mapOut (s : State) (n : Nat) : State :=
  let g := n / 13
  let ids := (s.lines.filterMap fun x => if x.2.pos / 156 = n / 156 then x.2.chuck else none).eraseDups
  let s := (ids.foldl State.unchuckRegion s).flushSlices fun p => decide (p / 156 = n / 156)
  (s.mapCluster g (putPos (s.grain.clMap g) (n % 13) 15)).setCore n Core.zero

/-- A core or field fails in a cluster whose spare is not free (R658). -/
def State.loseCore (s : State) (n : Nat) : State := (s.mapOut n).noSpare 1 (posUnit 1 n 0)

/-- A free spare fails: it becomes not free, and DEGRADED names it (R164, R659). -/
def State.spareFails (s : State) (g : Nat) : State :=
  if !s.spareFree g then s
  else
    let s := s.mapCluster g (putNotFree (s.grain.clMap g) true)
    State.degradedSpare { s with failover := s.failover.filter fun x => decide (x.1 ≠ g) } (posUnit 1 (13 * g + 12) 0)

/-! Failover (R656, R657). -/

/-- Whether the spare of a cluster is free and no other core of the cluster waits for it. -/
def State.spareOpen (s : State) (g : Nat) : Bool := s.spareFree g && !s.failed.any fun x => decide (x.1 / 13 = g)

/-- A core fails, or its field is lost: with a free spare the waves are held and it waits for its failover; else R658
applies (R655 to R658, R663). -/
def State.coreFails (s : State) (n : Nat) (field : Bool) : State :=
  let g := n / 13
  if !s.hasPos n then s
  else if s.failed.any (fun x => decide (x.1 = n)) then
    { s with failed := s.failed.map fun (x : Nat × Bool) => if x.1 = n then (n, x.2 || field) else x }
  else if isK12 n then (if field then s.dropSlice n else s).spareFails g
  else if s.spareOpen g then
    let s := s.hold.vacate g
    { s with failed := s.failed ++ [(n, field)], failover := s.failover.filter fun x => decide (x.1 ≠ g) }
  else (if field then s.poisonSlice n else s).loseCore n

/-- The flits and credits in flight to or from a core are discarded (R296). -/
def State.discardFlight (s : State) (n : Nat) : State :=
  { s with streams := s.streams.map fun x =>
      if (s.streamDef x.1).any fun d => decide (d.prod.val = n) || decide (d.cons.val = n) then
        (x.1, { x.2 with fly := [], credFly := 0 })
      else x }

/-- Logical core n moves onto the spare's position: the spare's slice is vacated, its core store loaded (R137, R656). The STN
window belongs to the logical position (R137), so VMODE keeps its value as well, although R641 does not list it in a checkpoint and
no reset scope covers a failover (DESIGN CHOICE, notes/assumptions/80.md). -/
def State.takeOver (s : State) (n : Nat) (notFree : Bool) : State :=
  let g := n / 13
  let s := s.vacate g
  let s := (s.mapCluster g (swapSpare (s.grain.clMap g) (n % 13) notFree)).discardFlight n
  (s.loadStore n).loadCore n

/-- A failed core has moved: the waves resume when the last one has (R656, R657). -/
def State.moved (s : State) (n sub : Nat) (unit stall : Word) : State :=
  State.tryResume { s with failed := s.failed.filter fun x => decide (x.1 ≠ n), resume := s.resume ++ [(sub, unit, stall)] }

/-- Regeneration of lost pages comes before the waves resume (R663). -/
def State.movedRegen (s : State) (n sub : Nat) (unit stall : Word) : State :=
  let s := { s with failed := s.failed.filter fun x => decide (x.1 ≠ n) }
  if s.stopped then s
  else
    let s := { s with resume := s.resume ++ [(sub, unit, stall)] }
    if s.regen.isEmpty then s.tryResume else s.pauseAll

/-- CORE_FAILOVER: a failed core moves onto its cluster's free spare and the interrupted layers replay (R656, R657). -/
def execCoreFailover (core : Fin 624) (stall : BitVec 48) (s : State) : Host.Outcome State Fault Refusal :=
  let n := core.val
  .next <|
    if !s.live then s
    else
      let s := s.coreFails n false
      if s.failed.contains (n, false) then (s.takeOver n true).moved n 1 (posUnit 1 n 0) (stall.setWidth 64) else s

/-- MISSED_HEARTBEAT: four heartbeats of a core are missed, and it has failed (R655). -/
def execMissedHeartbeat (core : Fin 624) (s : State) : Host.Outcome State Fault Refusal :=
  .next (if s.live then s.coreFails core.val false else s)

/-- LAYER_REPLAY: a layer of a wave runs again from its committed checkpoint, after poison or a program fault; a third replay
in one churn whose poison arose in one core fails that core (R647, R648, R650, R655). -/
def execLayerReplay (wave : BitVec 48) (layer : LayerStall) (s : State) : Host.Outcome State Fault Refusal :=
  let l := layer.layer.val
  let stall := layer.stall.setWidth 64
  .next <|
    match s.waveOf wave.toNat with
    | none => s
    | some w =>
      match w.ckpts.find? (fun c => decide (c.layer = l)) with
      | none => s
      | some ck =>
        if !s.live || w.paused then s
        else if s.poisonReplay w l then
          let n := s.blame w l
          let s := (s.blamed n).mapWave w.num.toNat fun w => { w with replays := tabSet w.replays l (tabGetD w.replays l 0 + 1) }
          let s := (s.replayLayer w ck).replayed n stall w
          match n with
          | some c => if (s.core c).replays = 3 then s.coreFails c false else s
          | none => s
        else if s.faultReplay w l then (s.replayLayer w ck).replayed (s.faultCore w) stall w
        else s

/-! Planned failover and rotation (R162, R660, R661). -/

/-- The first phase of a planned failover: the spare's slice is vacated, and the field is copied while the core works (R215, R661). -/
def State.planFailover (s : State) (n : Nat) : State :=
  let g := n / 13
  if isK12 n || !s.hasPos n || !s.spareOpen g || s.failover.any (fun x => decide (x.1 = g)) then s
  else
    let s := s.vacate g
    { s with failover := s.failover ++ [(g, n)] }

/-- PLANNED_FAILOVER (R661). -/
def execPlannedFailover (core : Fin 624) (s : State) : Host.Outcome State Fault Refusal :=
  .next (if s.live then s.planFailover core.val else s)

/-- Whether a V-port group of a physical position is at HALF or worse (R162, R164). -/
def State.positionDegraded (s : State) (cl p : Nat) : Bool :=
  (positionBonds cl p).any fun b => match b with
    | .vport _ _ _ _ _ => decide (3 ≤ s.bondState b)
    | _ => false

/-- PLANNED_FAILOVER_SWITCH: at a committed checkpoint the waves hold, the map switches and the waves resume; the position
left is a free spare unless it is degraded (R138, R162, R660, R661). -/
def execPlannedFailoverSwitch (cluster : Fin 48) (stall : BitVec 48) (s : State) : Host.Outcome State Fault Refusal :=
  .next <|
    match s.failover.find? fun x => decide (x.1 = cluster.val) with
    | none => s
    | some (g, n) =>
      if !s.live || !s.failed.isEmpty || !s.resume.isEmpty || s.waves.any (fun w => w.latest.isNone) then s
      else
        let bad := s.positionDegraded g (s.physOf n)
        let s := { s with failover := s.failover.filter fun x => decide (x.1 ≠ g) }
        (s.takeOver n bad).moved n 2 (posUnit 1 n 0) (stall.setWidth 64)

/-- ROTATION: the timer of a cluster moves its next active core onto the spare, unless it is deferred (R660, R685). -/
def execRotation (cluster : Fin 48) (s : State) : Host.Outcome State Fault Refusal :=
  let g := cluster.val
  .next <|
    if !s.live || !s.bit (offERR + 8) 7 || !s.spareOpen g || !s.failed.isEmpty || !s.resume.isEmpty || s.degCl.contains g ||
        s.failover.any (fun x => decide (x.1 = g)) then s
    else
      let k := tabGetD s.rotNext g 0
      State.planFailover { s with rotNext := tabSet s.rotNext g ((k + 1) % 12) } (13 * g + k)

/-! Field loss (R663, R666). -/

/-- The mover that carries out the management cores' fills of position n: those of a stack are spread over its movers (DESIGN CHOICE,
notes/assumptions/83.md). -/
def moverFor (n : Nat) : Nat := 4 * (n / 156) + n % 4

/-- A descriptor of the management core's own work completes in queue 1 of a mover (R253, R260). -/
def State.ownDone (s : State) (m : Nat) : State :=
  let o := offPost (Fin.ofNat 16 m) 1
  s.setField o 63 32 (s.field o 63 32 + 1)

/-- A backed range is filled again from its backing copies, class 4; both lost, R666 applies. -/
def State.refillRange (s : State) (n : Nat) (b : BackRec) : State :=
  let (bs, s) := s.backBeats (moverOf (moverFor n)) 4 b.baddr b.alt b.flen
  let s := s.ownDone (moverFor n)
  match bs with
  | some bs => s.fieldWrite n (512 * b.foff) bs false
  | none => s.backLost n (512 * b.foff) (512 * b.flen)

/-- Every backed range of the positions that p selects (R663, R675). -/
def State.refillFields (s : State) (p : Nat → Bool) : State :=
  (s.backs.filter fun x => p x.1).foldl (fun s x => s.refillRange x.1 x.2) s

/-- POIS on every page in use that p selects; they are then due for regeneration (R651, R663, R675). -/
def State.poisonPages (s : State) (p : PageRec → Bool) : State :=
  let ids := s.image.elim 0 fun g => g.poolIds.toNat
  (List.range ids).foldl (fun s id =>
    if s.pageIds.contains id then s
    else
      let (r, s) := s.readRec id
      if decide (0 < r.ref) && p r then s.poisonPage id else s) s

/-- FIELD_LOSS: a field was lost, its bank out of redundant rows (R166): the spare takes over, backed ranges are refilled, and the pages of the field are regenerated before the
waves resume (R166, R658, R663). -/
def execFieldLoss (core : Fin 624) (stall : BitVec 48) (s : State) : Host.Outcome State Fault Refusal :=
  let n := core.val
  .next <|
    if !s.live || !s.failed.contains (n, true) then s
    else
        let s := (s.poisonSlice n).takeOver n true
        let s := { s with mem := s.mem.erase (fieldKey n 0) (fieldKey n 0x2000000) }
        let s := s.refillFields fun p => decide (p = n)
        let s := s.poisonPages fun r => decide (r.pos = n) && (decide (r.loc = 1) || decide (r.loc = 3))
        s.movedRegen n 3 (posUnit 11 n 0) (stall.setWidth 64)

/-! Network (R30, R35, R37, R630, R665). -/

/-- Unit of a mesh link and of a ring edge (R535). -/
def meshUnit (st m : Nat) : Word := unitName 6 st 0 0 0 m
/-- The stacks that a ring edge joins: S0–S1, S1–S3, S2–S3, S0–S2 (R33). -/
def edgeEnds (e : Nat) : Nat × Nat := [(0, 1), (1, 3), (2, 3), (0, 2)].getD e (0, 0)
/-- The unit of a ring edge. -/
def edgeUnit (e : Nat) : Word := unitName 7 0 0 0 0 ((edgeEnds e).1 * 256 + (edgeEnds e).2)

/-- Whether the oldest flit in flight of a stream crosses a link (R28, R30). -/
def State.flitCrosses (s : State) (i : Nat) (h : Hop) : Bool :=
  match (s.strm i).fly with
  | x :: _ => x.path.any fun p => p.contains h
  | [] => false

/-- The flits in flight whose path uses a ring edge are resent from the routers' replay buffers the other way around; with no path
left they are held (R35, R37). -/
def State.resendEdge (s : State) (e : Fin 4) : State :=
  let again (i : Nat) (y : FlyFlit) : FlyFlit :=
    if y.path.any (fun p => p.contains (.edge e.val)) then { y with path := s.streamRoute i } else y
  { s with streams := s.streams.map fun (x : Nat × StreamRt) => (x.1, { x.2 with fly := x.2.fly.map (again x.1) }) }

/-- The oldest flit of a stream on its way is delivered poisoned (R630). -/
def State.poisonFlit (s : State) (i : Nat) : State :=
  let r := s.strm i
  match r.fly with
  | [] => s
  | f :: rest => s.setStrm i { r with fly := { f with flit := { f.flit with pois := true } } :: rest }

/-- A mesh link is mapped out, or R658 applies with SUB MESH (R665). -/
def State.mapLink (s : State) (st : Fin 4) (m : Nat) : State :=
  if s.meshCanMap st m then
    let s : State := { s with grain := { s.grain with mesh := s.grain.mesh.set st (s.grain.mesh[st] ||| BitVec.twoPow 17 m) } }
    ((s.grainChanged.hold).replayAll).degrade (meshUnit st.val m)
  else s.noSpare 5 (meshUnit st.val m)

/-- FLIT_PARITY_FAILURE: a flit fails parity on its way and arrives poisoned; on a mesh link only a flit whose route crosses it can
(R28, R30), and a link that fails in two different churns
within 16 is mapped out (R630, R631, R665). -/
def execFlitParityFailure (path : NetPath) (s : State) : Host.Outcome State Fault Refusal :=
  .next <|
    if !s.live then s
    else
      match path with
      | .stream i =>
        let n := (s.streamDef i).elim 0 fun d => d.prod.val
        if (s.strm i).fly.isEmpty then s else (s.poisonFlit i).errRec 4 3 (posUnit 1 n 0) 0
      | .mesh i st m =>
        if (s.meshOut st).getLsbD m.val || !s.flitCrosses i (.mesh st.val m.val) then s
        else
          let s := (s.poisonFlit i).errRec 4 3 (meshUnit st.val m.val) 0
          let key := 17 * st.val + m.val
          let before := tabGet? s.netChurn key
          let s := { s with netChurn := tabSet s.netChurn key s.churns }
          match before with
          | some c => if c ≠ s.churns ∧ s.churns < c + 16 then s.mapLink st m.val else s
          | none => s

/-- RING_EDGE_FAILURE: frames on the edge are resent the other way around; the first edge down is reported as a degradation; a
second one starts whole-device recovery (R35 to R37). -/
def execRingEdgeFailure (edge : Fin 4) (s : State) : Host.Outcome State Fault Refusal :=
  .next <|
    if !s.live || s.edgesDown.contains edge then s
    else
      let first := s.edgesDown.isEmpty
      let s := State.resendEdge { s with edgesDown := s.edgesDown ++ [edge] } edge
      if first then s.degrade (edgeUnit edge.val) else s.startRecovery

end Sys2Proof.Machine
end

