-- ==== Sys2Proof/Machine/Churn.lean ====
section
/-!
DEFINITION. Churn.lean: the housekeeping round of the management cores (R157 to R165, R203, R204, R231, R232, R352, R655,
R659, R678, R683, R696, R712 to R714, R753, R769, R779).
-/
namespace Sys2Proof.Machine

/-! Bond groups (R157 to R164, R368, R369). -/

/-- An attention pipeline is mapped out: its partner serves for it; with both out, the neighbour; with none, R658 with SUB
ATTN (R161, R368, R369). -/
def State.pipeLost (s : State) (q : Nat) : State :=
  if s.pipeOut q then s
  else
    let s : State := { s with grain := { s.grain with pipes := s.grain.pipes ||| BitVec.twoPow 96 q } }
    let s := s.grainChanged
    let s := if s.reserveOf q = q then s else s.dropReserve q
    let g := q / 2
    let both (c : Nat) : Bool := s.pipeOut (2 * c) && s.pipeOut (2 * c + 1)
    if both g && both (standIn g) then s.noSpare 6 (clusterUnit g)
    else State.degrade { s with degCl := natInsert s.degCl g } (pipeUnit q)

/-- Whether a core's position has a V-port group at HALF or worse. -/
def State.coreDegraded (s : State) (n : Nat) : Bool := s.positionDegraded (n / 13) (s.physOf n)

/-- A V-port group of logical core k of cluster g has reached HALF (R162 to R164): its core moves to the free spare, before a
rotation that is under way; a core that already moves needs no more, and where another degraded core moves there the spare is
taken. -/
def State.vportHalf (s : State) (g k e : Nat) : State :=
  let n := 13 * g + k
  let worse := State.degrade { s with degCl := natInsert s.degCl g } (posUnit 2 n e)
  if k = 12 then s.spareFails g
  else if !s.spareOpen g then worse
  else
    match s.failover.find? fun x => decide (x.1 = g) with
    | none => s.planFailover n
    | some x =>
      if x.2 = n then s
      else if s.coreDegraded x.2 then worse
      else State.planFailover { s with failover := s.failover.filter fun x => decide (x.1 ≠ g) } n

/-- The state of a group has risen to a code (R160, R161). -/
def State.bondRose (s : State) (b : Bond) (code : Nat) : State :=
  match b with
  | .vport _ cl p e _ =>
    match s.logicalAt cl p with
    | none => s
    | some k => if code = 4 then s.coreFails (13 * cl + k) false else if code = 3 then s.vportHalf cl k e else s
  | .position cl p _ =>
    match s.logicalAt cl p with
    | none => s
    | some k => if code = 4 ∧ s.bondsLost cl p then s.coreFails (13 * cl + k) false else s
  | .att cl a _ => if code = 4 then s.pipeLost (2 * cl + a) else s
  | .base _ _ => s
  | .clusterPort cl g => if code = 4 && s.portLost cl (g / 16) then s.degrade b.unit else s

/-- A group changed to a code in operation: a change to SPARE1 or SPARE2 goes to the event log, and the spares newly used to the
bond-spare count. R160 names the count for changes to SPARE1 and SPARE2 only; a group that goes straight to HALF or LOST adds the
spares that it had left as well (DESIGN CHOICE, notes/assumptions/80.md). -/
def State.bondNoted (s : State) (b : Bond) (old new : Nat) : State :=
  let s := s.addLife 14 (Nat.min new 2 - Nat.min old 2)
  if new = 1 ∨ new = 2 then { s with evLog := s.evLog ++ [(1, [BitVec.ofNat 64 (new * 256), s.now, s.bondUnit b, 0#64, 0#64])] }
  else s

/-- The result of a test of a group: its state never decreases in operation, its suspect mark is cleared, and a rise has its
effects (R157 to R161). -/
def State.testBond (s : State) (i failed : Nat) : State :=
  let b := Bond.ofIndex i
  let old := s.bondState b
  let s := { s with grain := s.grain.setBond i failed }
  let new := s.bondState b
  if new ≤ old then s else (s.grainChanged.bondNoted b old new).bondRose b new

/-- Whether a churn tests a group: a suspect one, or one of a position that is its cluster's K12 (R158, R159, R659). -/
def State.bondDue (s : State) (i : Nat) : Bool :=
  s.grain.susp.contains i || match Bond.ofIndex i with
    | .vport _ cl p _ _ => decide (s.logicalAt cl p = some 12)
    | .position cl p _ => decide (s.logicalAt cl p = some 12)
    | _ => false

/-! Redundant rows (R165, R166, R814). -/

/-- The entry of a redundant row. -/
def rowEntry (pos : Nat) (base : Bool) (bank row_ red : Nat) : Nat := pos + flag base * 2 ^ 10 + bank * 2 ^ 11 + red * 2 ^ 15 + row_ * 2 ^ 20

/-- The bank of a field offset (R139). -/
def bankOf (off : Nat) : Nat := off / 256 % 16

/-- A row of a bank is mapped onto its next redundant row, once a restored beat in that bank has failed again (due: those of the
churn before); with none left, the field is lost (R165, R166). -/
def State.mapRow (due : List (Nat × Nat)) (s : State) (x : Fin 624 × Bool × Fin 16 × Nat) : State :=
  let (pos, base, bank, r) := x
  match s.logicalAt (pos.val / 13) (pos.val % 13) with
  | none => s
  | some k =>
    let n := 13 * (pos.val / 13) + k
    let here (y : Nat × Nat) : Bool :=
      decide (y.1 = n) && (decide (0x1400000 ≤ y.2) == base) && (decide (bankOf y.2 = bank.val) || decide (bankOf (y.2 + 256) = bank.val))
    if !due.any here then s
    else
      let key := rowEntry pos.val base bank.val 0 0
      let used := (s.grain.rows.filter fun e => decide (e % 2 ^ 15 = key)).length
      if used < 32 then
        State.grainChanged { s with grain := { s.grain with rows := natInsert s.grain.rows (rowEntry pos.val base bank.val (r % 8192) used) } }
      else s.coreFails n true

/-! Scrubs (R147, R219, R678). -/

/-- The churn that visits each 64th of a memory. -/
def State.share (s : State) : Nat := s.churns % 64

/-- The field scrub: flits of the churn's share whose cells are not clean are read; backed ones are restored. -/
def State.scrubFields (s : State) : State :=
  let lo := 0x0A0000000000
  let dirty := memCells s.mem.flips lo (lo + 0x4E0000000) ++ memCells s.mem.chk lo (lo + 0x4E0000000)
  let flits := (dirty.map fun c => (c.1 - lo) / 64).eraseDups
  (flits.filter fun f => decide (f % 524288 / 8192 = s.share)).foldl (fun s f =>
    let n := f / 524288
    let o := f % 524288
    if 64 * o < s.fieldLen n && !s.restoreWaits n (64 * o) 64 then ((s.carriedIn (s.downGroups n) n (64 * o) 64).readField n o).2 else s) s

/-- The cache scrub: the sets of the churn's share. -/
def State.scrubCache (s : State) : State :=
  (s.lines.filter fun x => decide (x.2.set / 8 = s.share) && decide (x.2.state ≠ 5#3)).foldl (fun s x => s.checkLine x.1 6) s

/-! Temperatures (R712 to R714, R730 to R732, R779). -/

/-- Record a reading in THM_DIE or THM_HBM. -/
def State.putTemp (s : State) (off : Nat) (t : Int) : State :=
  let s := s.setField off 15 0 (BitVec.ofInt 16 t).toNat
  if signedOf 16 (s.field off 31 16) < t then s.setField off 31 16 (BitVec.ofInt 16 t).toNat else s

/-- A 64-bit two's-complement value of an event. -/
def intWord (t : Int) : Word := BitVec.ofInt 64 t

/-- Throttling of one sensor: on at the limit, off below it by 3 °C; each sends a THERMAL event. -/
def State.throttleAt (s : State) (was : Bool) (unit : Nat) (t : Int) (limit : Nat) : Bool × State :=
  if !was && decide (8 * (limit : Int) ≤ t) then
    (true, s.event 7 1 (BitVec.ofNat 64 unit) (intWord t) (BitVec.ofNat 64 limit))
  else if was && decide (t < 8 * ((limit : Int) - 3)) then
    (false, s.event 7 2 (BitVec.ofNat 64 unit) (intWord t) (BitVec.ofNat 64 limit))
  else (was, s)

/-- The temperatures of a churn: readings, HOT bits, throttle, and seconds above 95 °C. -/
def State.takeTemps (s : State) (c : ChurnSample) : State :=
  let die (k : Nat) : Int := c.dieTemp.getD k 0
  let hbm (h : Nat) : Int := c.hbmTemp.getD h 0
  let s := (List.range 12).foldl (fun s k => s.putTemp (offTHM + 0x100 + 8 * k) (die k)) s
  let s := (List.range 8).foldl (fun s h => s.putTemp (offTHM + 0x200 + 8 * h) (hbm h)) s
  let lim := s.field offTHM 7 0
  let hlim := s.field offTHM 15 8
  let hot : BitVec 12 := maskBy 12 fun k => decide (8 * (lim : Int) ≤ die k)
  let hhot : BitVec 8 := maskBy 8 fun h => decide (8 * (hlim : Int) ≤ hbm h)
  let s := (s.setField (offTHM + 0x10) 11 0 hot.toNat).setField (offTHM + 0x10) 31 24 hhot.toNat
  let s := (List.range 12).foldl (fun s k =>
    let (b, s) := s.throttleAt (s.power.throttle.getLsbD k) k (die k) lim
    { s with power := { s.power with throttle := maskBy 12 fun j => if j = k then b else s.power.throttle.getLsbD j } }) s
  let s := (List.range 8).foldl (fun s h =>
    let (b, s) := s.throttleAt (s.power.hbmHot.getLsbD h) (12 + h) (hbm h) hlim
    { s with power := { s.power with hbmHot := maskBy 8 fun j => if j = h then b else s.power.hbmHot.getLsbD j } }) s
  let cool := (List.range 12).all (fun k => decide (die k < 8 * ((lim : Int) - 3))) &&
    (List.range 8).all fun h => decide (hbm h < 8 * ((hlim : Int) - 3))
  let t := s.power.thermSkip
  let t := if hot ≠ 0#12 ∨ hhot ≠ 0#8 then Nat.min 8 (t + 1) else if cool then t - 1 else t
  let s := State.releaseOrders { s with power := { s.power with thermSkip := t } }
  let s := (List.range 12).foldl (fun s k => if 760 < die k then s.addMs (2 + k) else s) s
  let warm := s.power.warm || (List.range 12).any fun k => decide (560 ≤ die k)
  if warm && (List.range 12).all (fun k => decide (die k < 320)) then
    State.addLife { s with power := { s.power with warm := false } } 1 1
  else { s with power := { s.power with warm := warm } }

/-! Chatter (R696). -/

/-- The set-point of a stack follows the chatters of the churn. -/
def State.chatterPoint (s : State) (st : Fin 4) : State :=
  let lo := 8 * st.val
  let n := s.field (offPWR + 0x300) (lo + 7) lo
  let raise := s.power.setRaise[st]
  let q := if n = 0 then s.power.quiet[st] + 1 else 0
  let up := decide (s.field offPWR 23 16 < n)
  let raise' := if up then Nat.min 80 (raise + 10) else if 64 ≤ q then raise - 10 else raise
  let s := { s with power := { s.power with setRaise := s.power.setRaise.set st raise', quiet := s.power.quiet.set st q } }
  if up then s.event 6 3 (BitVec.ofNat 64 (8 * st.val)) (BitVec.ofNat 64 n) (BitVec.ofNat 64 (s.setPoint st)) else s

/-! Slices (R203, R204, R231, R232). -/

/-- The chuck region of lowest priority that holds a frame in a slice, the highest number on a tie. -/
def State.thrashRegion (s : State) (pos : Nat) : Option Nat :=
  let has := (List.range 64).filter fun i =>
    s.lines.any fun x => decide (x.2.pos = pos) && decide (x.2.chuck = some (BitVec.ofNat 6 i))
  has.foldl (fun acc i => match acc with
    | none => some i
    | some j => if s.field (offCHUCK i + 8) 58 56 ≤ s.field (offCHUCK j + 8) 58 56 then some i else some j) none

/-- The action after a THRASH signal of a slice (R204). -/
def State.unthrash (s : State) (pos : Nat) : State :=
  let young := BitVec.ofNat 64 (s.field (offSLICE pos + 0x10) 31 0)
  let s := { s with thrash := s.thrash.filter (· ≠ pos) }
  match (if s.bit (offCACHE (pos / 156)) 0 then none else s.thrashRegion pos) with
  | some i => (s.unchuckRegion (BitVec.ofNat 6 i)).event 3 0 (posUnit 4 pos 0) (BitVec.ofNat 64 i) young
  | none => s.event 3 0 (posUnit 4 pos 0) 0xFF#64 young

/-- Each management core acts once after the signals of its stack. -/
def State.unthrashAll (s : State) : State :=
  (List.range 4).foldl (fun s st => match s.thrash.find? fun p => decide (p / 156 = st) with
    | some p => s.unthrash p
    | none => s) s

/-- Young evictions of the churn become those of the previous churn, and the occupancy is sampled. -/
def State.sampleSlice (s : State) (n : Nat) : State :=
  let o := offSLICE n
  let y := s.field (o + 0x10) 31 0
  let s := s.setReg (o + 0x10) (BitVec.ofNat 64 (y * 2 ^ 32))
  let all := s.lines.filter fun x => decide (x.2.pos = n)
  let mine := all.filter fun x => decide (x.2.state ≠ 5#3)
  let frames (l : List (Nat × Line)) : Nat := ((l.map fun x => (x.2.seg, x.2.set, x.2.way)).eraseDups).length
  s.setReg (o + 8) (BitVec.ofNat 64 (frames mine + frames (all.filter fun x => x.2.chuck.isSome) * 2 ^ 20 +
    frames (mine.filter fun x => x.2.curd) * 2 ^ 40))

/-! The hang watchdog (R769). -/

/-- States in which a churn does not count toward a hang. -/
def State.excused (s : State) : Bool :=
  s.stopped || !s.failed.isEmpty || !s.regen.isEmpty || !s.resume.isEmpty || !s.outQ.isEmpty || !s.compQ.isEmpty ||
    s.reqs.any (fun r => decide (s.memAccess r.pa false = .waits)) ||
    s.pipes.any fun x => decide (x.2.appends ≠ 0#8) && x.2.reserve.isEmpty

/-- Count a churn without progress. -/
def State.watchWaves (s : State) : State :=
  if s.excused then s
  else if s.waves.isEmpty || decide (s.lastCommit = s.churns) then { s with idleChurns := 0 }
  else { s with idleChurns := s.idleChurns + 1 }

/-! Counters (R753, R779). -/

/-- Device-wide totals as sealed mode shows them. -/
def State.refreshTotals (s : State) : State :=
  { s with cnt := { s.cnt with shown := (List.range 9).map fun i =>
      (i + 1, tabGetD s.cnt.vals (i + 1) 0 / 2 ^ 24 * 2 ^ 24) } }

/-- A millisecond of powered time: the device, its HBM4 stacks, and the DIMMs that are present. -/
def State.ageParts (s : State) : State :=
  let s := s.addMs 0
  let s := (List.range 8).foldl (fun s h => s.addMs (25 + h)) s
  (List.range 32).foldl (fun s k => if k % 2 < s.field (offCh (k / 2)) 25 24 then s.addMs (65 + k) else s) s

/-- The replays of a core are counted anew in each churn (R655). -/
def Core.newChurn (x : Nat × Core) : Nat × Core := (x.1, { x.2 with replays := 0 })

/-- The checks of a round: the watchdog, the scrubs, bond groups, rows, spares, temperatures, chatter, slices, reserves and
ages (R678). -/
def State.churnWork (s : State) (c : ChurnSample) : State :=
  let due := s.badAgain
  let s : State := { s with restored := [], badAgain := [], parFail := [] }
  let s := s.watchWaves
  let s := (s.scrubFields).scrubCache
  let s := c.bondTests.foldl (fun s x => if s.bondDue x.1 then s.testBond x.1 x.2 else s) s
  let s := c.badRows.foldl (State.mapRow due) s
  let s := c.spareFail.foldl (fun s g => s.spareFails g.val) s
  let s := s.takeTemps c
  let s := (List.range 4).foldl (fun s st => s.chatterPoint (Fin.ofNat 4 st)) s
  let s := s.setReg (offPWR + 0x300) 0#64
  let s := s.unthrashAll
  let s := (List.range 624).foldl State.sampleSlice s
  let s := if s.hasImage then ((List.range 96).filter fun q => decide (s.reserveOf q = q)).foldl (fun s q => s.refill q 16) s else s
  s.ageParts

/-- A round is over: counts kept per churn start anew, and the round is counted (R655, R678). -/
def State.churnOver (s : State) : State :=
  State.count { s with cores := s.cores.map Core.newChurn, churns := s.churns + 1 } 0 8 1

/-- CHURN: the round of 1 ms (R678). -/
def execChurn (c : ChurnSample) (s : State) : Host.Outcome State Fault Refusal :=
  .next <|
    if !s.live then s
    else
      let s := (s.churnWork c).churnOver.copyLog
      if s.isSealed && decide (s.churns % 100 = 0) then s.refreshTotals else s

end Sys2Proof.Machine
end

