-- ==== Sys2Proof/Machine/Recover.lean ====
section
/-!
DEFINITION. Recover.lean: reset scopes, whole-device recovery, the hang watchdog and its dump (R86, R167, R262, R548, R666 to
R677, R769 to R773).
-/
namespace Sys2Proof.Machine

/-! Core reset (R86, R380, R668). -/

/-- Whether a stream ends at core n. -/
def State.streamMeets (s : State) (i n : Nat) : Bool :=
  (s.streamDef i).any fun d => decide (d.prod.val = n) || decide (d.cons.val = n)

/-- CORE_RESET: the top-die logic of a position returns to its reset state, its core store is zero, its streams are empty; field,
records, split and slice are kept. -/
def execCoreReset (core : Fin 624) (s : State) : Host.Outcome State Fault Refusal :=
  let n := core.val
  .next <|
    if !s.live then s
    else
      let s := { s with
        mem := s.mem.erase (coreKey n 0) (coreKey n 0x100000),
        regs := s.regs.filter fun x => !(decide (offSTN n ≤ x.1) && decide (x.1 < offSTN n + 0x880)),
        streams := s.streams.filter fun x => !s.streamMeets x.1 n,
        reqs := s.reqs.filter fun r => match r.who with
          | .ctx k _ => decide (k ≠ n)
          | .grp k _ => decide (k ≠ n)
          | .other => true }
      State.loadCore { s with cores := tabErase s.cores n } n

/-! Base-logic reset (R262, R668, R671, R672). -/

/-- Whether a line's frame lies in the base-die half of its field (R125, R175). -/
def State.lineInBase (s : State) (l : Line) : Bool := decide (10 ≤ s.fprop l.pos + l.seg)

/-- A controller drains what it has accepted and starts anew (R246, R671). -/
def State.restartCtl (s : State) (c : Nat) : State :=
  let k := s.ctl c
  (k.writes.filter (·.acked)).foldl State.applyWrite
    (s.changeCtl c fun k => { k with writes := k.writes.filter (!·.acked), level := 0#2, cal := false })

/-- BASE_LOGIC_RESET: an orderly reset of one stack's base logic (R671). -/
def execBaseLogicReset (stack : Fin 4) (stall : BitVec 48) (s : State) : Host.Outcome State Fault Refusal :=
  let st := stack.val
  .next <|
    if !s.live then s
    else
      let mine (l : Line) : Bool := decide (l.pos / 156 = st) && s.lineInBase l
      let s := (s.settleSlices fun p => decide (p / 156 = st)).flushLines mine
      let s := ((List.range 24).filter fun c => decide (if c < 8 then c / 2 = st else (c - 8) / 4 = st)).foldl State.restartCtl s
      let s : State := { s with movers := s.movers.map fun (x : Nat × Mover) => (x.1, if x.1 / 4 = st then x.2.again else x.2) }
      s.recovered 4 (unitName 0 st 0 0 0 0) (stall.setWidth 64) 0#64

/-- FORCED_BASE_LOGIC_RESET: the write-back took longer than 2 ms (R672, R673). -/
def execForcedBaseLogicReset (_stack : Fin 4) (s : State) : Host.Outcome State Fault Refusal :=
  .next (if s.live then s.startRecovery else s)

/-- WHOLE_DEVICE_RECOVERY (R673). -/
def execWholeDeviceRecovery (s : State) : Host.Outcome State Fault Refusal :=
  .next (if s.ready || s.boot.recovering then s.startRecovery else s)

/-! Stack reset (R167, R669). -/

/-- Whether a register belongs to one stack: the windows of its positions, slices and tier movers. -/
def stackReg (st off : Nat) : Bool :=
  (decide (offSTN (156 * st) ≤ off) && decide (off < offSTN (156 * st + 156))) ||
    (decide (offCACHE st + 0x10000 ≤ off) && decide (off < offCACHE st + 0x20000)) ||
    (decide (offTIER st + 0x100 ≤ off) && decide (off < offTIER st + 0x10000))

/-- The three dies of a stack return to their reset state; fields, splits, records, core stores and system area are zero. -/
def State.resetStack (s : State) (st : Nat) : State :=
  let mine (n : Nat) : Bool := decide (n / 156 = st)
  let m := s.mem.erase (fieldKey (156 * st) 0) (fieldKey (156 * st + 156) 0)
  let m := (m.erase (coreKey (156 * st) 0) (coreKey (156 * st + 156) 0)).erase (sysKey st 0) (sysKey (st + 1) 0)
  let gone := (s.lines.filter fun x => mine x.2.pos).map (·.1) ++ (s.evicts.filter fun x => mine x.2.line.pos).map (·.1)
  { s with
    mem := m, cmem := gone.foldl (fun c ln => c.erase (256 * ln) (256 * ln + 256)) s.cmem,
    regs := s.regs.filter fun x => !stackReg st x.1, cores := s.cores.filter fun x => !mine x.1,
    lines := s.lines.filter fun x => !mine x.2.pos, evicts := s.evicts.filter fun x => !mine x.2.line.pos,
    fills := s.fills.filter fun x => !mine x.2.pos, backs := s.backs.filter fun x => !mine x.1,
    splits := s.splits.filter fun x => !mine x.1, thrash := s.thrash.filter fun p => !mine p,
    flushes := tabErase s.flushes st, movers := s.movers.filter fun x => decide (x.1 / 4 ≠ st),
    ctls := s.ctls.filter fun x => !decide (if x.1 < 8 then x.1 / 2 = st else (x.1 - 8) / 4 = st) }

/-- STACK_RESET: with an image loaded it is carried out as whole-device recovery (R669). -/
def execStackReset (stack : Fin 4) (s : State) : Host.Outcome State Fault Refusal :=
  .next (if !s.live then s else if s.hasImage then s.startRecovery else (s.resetStack stack.val).mendLog [stack.val])

/-! The dump (R770 to R773). -/

/-- The dump region (R677, R771). -/
def dumpBase : Nat := 0x005FC0000000

/-- CNT_DUMP. -/
def offDUMP : Nat := offCNT + 0x18

/-- The header of an unsealed dump; NSECT and LEN follow from section layouts that the spec does not give, so they are
operands. -/
def State.dumpHeader (s : State) (cause nsect len : Nat) : List Byte :=
  let head := leBytes 4 0x50445A59 ++ leBytes 2 1 ++ leBytes 1 cause ++ leBytes 1 (flag (s.bit (offCNT + 0x10) 16)) ++
    leBytes 8 s.time ++ leBytes 8 (s.reg 0x0).toNat ++ leBytes 8 (s.field 0x108 47 0) ++ leBytes 8 s.grain.gen.toNat ++
    leBytes 8 s.lastCkpt ++ leBytes 4 nsect
  let img := (s.image.elim (List.replicate 8 0#64) (·.digest)).flatMap fun w => leBytes 8 w.toNat
  head ++ leBytes 4 (crc32cOf head) ++ leBytes 8 len ++ padTo 64 img

/-- Write a dump: VALID, CAUSE and LEN; its header in the region, unless it is sealed. -/
def State.writeDump (s : State) (cause : Nat) : State :=
  let (a, s) := s.takeFree
  let (b, s) := s.takeFree
  let len := b.toNat % 2 ^ 18
  let head := s.dumpHeader cause (a.toNat % 2 ^ 32) (4096 * len)
  let s := { s with mem := if s.isSealed then s.mem.erase dumpBase (dumpBase + 128) else s.mem.write dumpBase head }
  { s with dumps := s.dumps + 1, dumpDue := true, dumpGone := false }.setReg offDUMP
    (putField (putField (putField (s.reg offDUMP) 17 0 len) 55 48 cause) 63 63 1)

/-- A COUNTER event about a dump; the spec gives it no values (R768). -/
def State.dumpEvent (s : State) (sub : Nat) : State :=
  let (a, s) := s.takeFree
  let (b, s) := s.takeFree
  let (c, s) := s.takeFree
  s.event 8 sub a b c

/-- The device freezes, dumps where no dump is held, and recovers (R770, R773). -/
def State.freeze (s : State) (cause : Nat) : State :=
  let s :=
    if s.bit offDUMP 63 then
      let m := s.field offDUMP 39 32
      (s.setField offDUMP 39 32 (Nat.min 255 (m + 1))).dumpEvent 4
    else s.writeDump cause
  { s with idleChurns := 0 }.startRecovery

/-- HANG: TMO churns without progress while a wave is in flight (R769, R770). -/
def execHang (s : State) : Host.Outcome State Fault Refusal :=
  let tmo := s.field (offCNT + 0x10) 15 0
  .next <|
    if !s.live || s.waves.isEmpty || decide (tmo = 0) || decide (s.idleChurns < tmo) then s else s.freeze 1

/-! The end of a whole-device recovery (R674 to R676). -/

/-- A lost system area: sequences whose history is lost in both copies end, the records of its stack's positions are gone, and R666
applies (R675, R676). -/
def State.sysAreaLost (s : State) : State :=
  let lost (n : Nat) : Bool := s.boot.sysLost.any fun st => decide (st.val = n / 156)
  let both (i : Nat) : Bool := histLost (s.boot.sysLost.map (·.val)) i
  let s := ((s.seqs.map (·.1)).filter both).foldl (fun s i => s.abortSeq i 2) s
  let s : State := { s with backs := s.backs.filter fun x => !lost x.1 }
  let s := (s.abortAll 6).stopWaves
  s.boot.sysLost.foldl (fun s st => s.event 9 2 (unitName 11 st.val 0 0 0 0) 0#64 0#64) s

/-- The placement comes back: core stores and programs from the image shadow, backed ranges from their copies, and every page
in a field is due for regeneration. -/
def State.resumePlacement (s : State) : State :=
  match s.image with
  | none => s.refillFields fun _ => true
  | some g =>
    let cores := (g.programs.map (·.pos.val) ++ g.kernels.flatMap fun k => k.cores.map (·.val)).eraseDups
    let s := cores.foldl (fun s n => (s.loadStore n).loadCore n) s
    (s.refillFields fun _ => true).poisonPages fun r => decide (r.loc = 1)

/-- The COUNTER event of a dump that has been written (R771). -/
def State.tellDump (s : State) : State := if s.dumpDue then State.dumpEvent { s with dumpDue := false } 3 else s

/-- RECOVERY_RESUME: after stage 8 of a recovery the device resumes its work, then takes the doorbells that it kept (R548,
R674, R675). -/
def execRecoveryResume (stall : BitVec 48) (s : State) : Host.Outcome State Fault Refusal :=
  .next <|
    if !s.ready || !s.boot.recovering then s
    else
      let lost := !s.boot.sysLost.isEmpty
      let s := (if lost then s.sysAreaLost else s.resumePlacement).readLog
      let s := { s with boot := { s.boot with recovering := false, sysLost := [], memLost := [] } }
      let s := if lost then s else s.recovered 5 0#64 (stall.setWidth 64) 0#64
      ((s.tellDump.ringBells).flushRings.pullAll).settleAll

end Sys2Proof.Machine
end

