-- ==== Sys2Proof/Machine/Boot.lean ====
section
/-!
DEFINITION. Boot.lean: reset inputs, bring-up stages, host links and the lease, flash images, pins (R26, R539 to R544, R556 to
R560, R589 to R607, R616 to R623, R692, R715 to R717, R785 to R798).
-/
namespace Sys2Proof.Machine

/-! Reset inputs (R589, R590, R790 to R794). -/

/-- A change of a filtered input counts from 50 AUXCLK cycles on (R792, R793). -/
def filtered (auxCycles : Nat) : Bool := decide (50 ≤ auxCycles)

/-- RESET_L_ASSERT: a device reset; with PWRGD_IN low as well it has cause 0 (R590, R792, R794). -/
def execResetLAssert (auxCycles : Nat) (s : State) : Host.Outcome State Fault Refusal :=
  .next <|
    if !filtered auxCycles then s
    else
      let n := s.deviceReset (if s.pins.pwrgd then 1 else 0)
      { n with pins := { n.pins with resetL := false } }

/-- RESET_L_DEASSERT: stage 0 begins once PWRGD_IN is high and REFCLK is present (R589, R590). -/
def execResetLDeassert (_auxCycles : Nat) (s : State) : Host.Outcome State Fault Refusal :=
  .next (State.tryStage0 { s with pins := { s.pins with resetL := true } })

/-- PWRGD_IN_LOW: the rails turn off; FAULT_L and THERMTRIP_L are released (R790). -/
def execPwrgdInLow (auxCycles : Nat) (s : State) : Host.Outcome State Fault Refusal :=
  .next <|
    if !filtered auxCycles then s
    else
      let n := s.railsOff
      { n with pins := { n.pins with pwrgd := false } }

/-- PWRGD_IN_HIGH: the device starts as after power-on (R790). -/
def execPwrgdInHigh (auxCycles : Nat) (s : State) : Host.Outcome State Fault Refusal :=
  .next (if filtered auxCycles then State.tryStage0 { s with pins := { s.pins with pwrgd := true } } else s)

/-- REFCLK_PRESENT: stage 0 can begin; device time that had stopped goes on, with GAP set (R589, R775). -/
def execRefclkPresent (s : State) : Host.Outcome State Fault Refusal :=
  .next <|
    if s.pins.refclk then s
    else
      let s := if s.time = 0 then s else s.setBit (offTIME + 8) 0
      State.tryStage0 { s with pins := { s.pins with refclk := true } }

/-- GLB_CLKSTAT. -/
def offCLK : Nat := 0x10

/-- PLL_LOSS_OF_LOCK: the clocks of the die stop, its LOSS bit is set, FAULT_L is asserted and whole-device recovery starts; with
REFCLK gone the same holds of every die (R26, R27). During bring-up the loss is only recorded, and no stage from 2 on completes
(notes/assumptions/56.md). -/
def execPllLossOfLock (loss : LockLoss) (s : State) : Host.Outcome State Fault Refusal :=
  let dies : BitVec 12 := match loss with
    | .pll die => BitVec.twoPow 12 die.val
    | .refclk => BitVec.allOnes 12
  .next <|
    if !s.boot.rails then s
    else
      let s := s.setField offCLK 27 16 (s.field offCLK 27 16 ||| dies.toNat)
      let s := { s with boot := { s.boot with locks := s.boot.locks &&& ~~~ dies },
                        pins := { s.pins with refclk := s.pins.refclk && decide (loss ≠ .refclk) } }
      if s.ready || s.boot.recovering then State.startRecovery { s with pins := { s.pins with faultL := true } } else s

/-- VAUX_LOSS: the retention SRAM loses its contents, and the pins that VAUX powers are released (R692, R716, R786, R787). -/
def execVauxLoss (s : State) : Host.Outcome State Fault Refusal :=
  .next { s with boot := { s.boot with trip := none }, pins := { s.pins with vaux := false, faultL := false, thermL := false } }

/-- SMBUS_FALLBACK: the management bus turns to SMBus (R797). -/
def execSmbusFallback (s : State) : Host.Outcome State Fault Refusal :=
  .next (if s.boot.rails && s.pins.resetL && s.pins.pwrgd then { s with pins := { s.pins with smbus := true } } else s)

/-! The lease and host links (R539 to R544). -/

/-- The code of a port in HOLDER. -/
def portCode : Port → Nat
  | .a => 1
  | .b => 2

/-- The lease moves: EPOCH and its event (R544). -/
def State.moveLease (s : State) (port : Nat) : State :=
  let old := s.reg offHQ
  let new := putField (putField old 1 0 port) 47 16 (fieldOf old 47 16 + 1)
  (s.setReg offHQ new).event 5 0 0#64 new old

/-- The bit of a port in HQ_LEASE. -/
def upBit : Port → Nat
  | .a => 2
  | .b => 3

/-- The lease becomes free when its holder is the port. -/
def State.freeLease (s : State) (p : Port) : State := if s.holder = some p then s.moveLease 0 else s

/-- A port's link comes up: after a device reset, while the lease has not moved (EPOCH 0), it goes to port A, or to port B while
A's link is not up (R541, R551, notes/assumptions/57.md). -/
def State.portRises (s : State) (p : Port) : State :=
  if s.portUp p then s
  else
    let s := s.setBit offHQ (upBit p)
    if s.holder.isNone && decide (s.field offHQ 47 16 = 0) && (decide (p = .a) || !s.portUp .a) then s.moveLease (portCode p) else s

/-- A port's link goes down: rings use the other port, and the lease it holds is free (R539, R543). -/
def State.portFalls (s : State) (p : Port) : State := (s.clearBit offHQ (upBit p)).freeLease p

/-- Whether PERST of a port is high. -/
def State.perstHigh (s : State) (p : Port) : Bool :=
  match p with
  | .a => s.pins.perstA
  | .b => s.pins.perstB

/-- Set the level of a port's PERST. -/
def State.setPerst (s : State) (p : Port) (b : Bool) : State :=
  match p with
  | .a => { s with pins := { s.pins with perstA := b } }
  | .b => { s with pins := { s.pins with perstB := b } }

/-- Whether the lanes of a port are a host port's: port B takes quads 0 and 1 (R556). -/
def State.portWired (s : State) (p : Port) : Bool :=
  match p with
  | .a => true
  | .b => decide (s.field (offLANE + 8) 3 0 = 2) && decide (s.field (offLANE + 8) 7 4 = 2)

/-- What waited for a port goes on. -/
def State.portResumes (s : State) : State := s.flushRings.pullAll

/-- Stage 6 is complete or under way. -/
def State.past6 (s : State) : Bool := decide (5 ≤ s.field offBOOT 3 0)

/-- HOST_LINK_UP (R539, R541, R789). -/
def execHostLinkUp (port : Port) (s : State) : Host.Outcome State Fault Refusal :=
  .next <|
    if s.portUp port || !s.perstHigh port || !s.portWired port || !s.past6 || s.bit offBOOT 4 then s
    else (s.portRises port).portResumes

/-- HOST_LINK_DOWN (R539, R543). -/
def execHostLinkDown (port : Port) (s : State) : Host.Outcome State Fault Refusal :=
  .next (if s.portUp port then (s.portFalls port).portResumes else s)

/-- PERST_ASSERT: the port's link, its configuration space with DOE, and IDE state are reset, its rings are off, its lease is free; the device runs on. While
RESET_L is low it has no further effect (R540, R794). -/
def execPerstAssert (port : Port) (auxCycles : Nat) (s : State) : Host.Outcome State Fault Refusal :=
  .next <|
    if !filtered auxCycles then s
    else
      let s := s.setPerst port false
      if !s.pins.resetL then s
      else
        let s := s.clearBit offSEAL (upBit port)
        let s := { s with trust := { s.trust with
          sessions := s.trust.sessions.filter fun x => decide (x.port ≠ SpdmPort.doe port),
          conn := tabErase s.trust.conn (portCode port - 1) } }
        ((s.ringsOff port).portFalls port).portResumes

/-- PERST_DEASSERT: the port may train (R789, R793). -/
def execPerstDeassert (port : Port) (auxCycles : Nat) (s : State) : Host.Outcome State Fault Refusal :=
  .next (if filtered auxCycles then s.setPerst port true else s)

/-- LEASE_TIMEOUT: TMO has elapsed without a command from the holder (R543, R551). -/
def execLeaseTimeout (s : State) : Host.Outcome State Fault Refusal :=
  .next (if s.live && decide (s.field offHQ 15 8 ≠ 0) && s.holder.isSome then s.moveLease 0 else s)

/-! Firmware images (R606). -/

/-- The slot that MC0's ROM accepts: the preferred image first. -/
def Flash.chosen (f : Flash) : Option Bool :=
  let good (b : Bool) : Bool := if b then f.b.good else f.a.good
  if good f.preferB then some f.preferB else if good (!f.preferB) then some (!f.preferB) else none

/-- MCTP_FIRMWARE_IMAGE: with stage 0 failed for want of an image, MC0 writes the one it accepts to slot A (R606). -/
def execMctpFirmwareImage (bytes : List Byte) (s : State) : Host.Outcome State Fault Refusal :=
  .next <|
    if s.bit offBOOT 4 && decide (s.field offBOOT 47 40 = 1) && decide (s.field offBOOT 3 0 = 0) then
      { s with flash := { s.flash with a := { bytes := memWrite [] 0 (bytes.take 0x1000000), good := true } } }
    else s

/-- MCTP_MESSAGE_COLLECT: the BMC takes the oldest waiting message (R798). -/
def execMctpMessageCollect (s : State) : Host.Outcome State Fault Refusal :=
  .next { s with outbox := { s.outbox with mctp := s.outbox.mctp.drop 1 } }

/-- ALERT_L is asserted: an event that the host has not consumed waits for an enabled ring, or an MCTP message waits (R798). -/
def State.alertL (s : State) : Bool :=
  !s.outbox.mctp.isEmpty || [0, 1].any fun e =>
    s.ringEn (.ev (Fin.ofNat 2 e)) && (!(tabGetD s.evHeld e []).isEmpty || !(tabGetD s.evSent e []).isEmpty)

/-! Stages (R592 to R607). -/

/-- A stage report to the BMC (R593). -/
def State.report (s : State) (k : Nat) (failed : Bool) (detail : Nat) (unit : Word) : State :=
  let m := [BitVec.ofNat 64 k, BitVec.ofNat 64 (flag failed), BitVec.ofNat 64 detail, unit]
  { s with outbox := { s.outbox with mctp := s.outbox.mctp ++ [m] } }

/-- A stage fails: FAIL, DETAIL, the unit, the report, FAULT_L; the device holds there (R594). -/
def State.stageFails (s : State) (k detail : Nat) (unit : Word) : State :=
  let s := ((s.setField offBOOT 3 0 k).setBit offBOOT 4).setField offBOOT 47 40 detail
  let s := (s.setReg (offBOOT + 8) unit).report k true detail unit
  { s with boot := { s.boot with running := none }, pins := { s.pins with faultL := true } }

/-- Rough-out rather than fast start (R599). -/
def State.roughOut (s : State) : Bool := s.bit offBOOT 5

/-- Roles from LANE_NEXT: an invalid quad is disabled (R556 to R558). -/
def rolesOf (next : Word) : List Nat × Bool :=
  let role (q : Nat) : Nat := fieldOf next (4 * q + 3) (4 * q)
  let half := decide (role 0 = 2) != decide (role 1 = 2)
  let bad (q : Nat) : Bool := decide (2 < role q) || (decide (role q = 2) && (decide (2 ≤ q) || half))
  ((List.range 8).map fun q => if bad q then 0 else role q, (List.range 8).any bad)

/-! Interfaces that bring-up trains: HBM4 stack h is h, DDR5 channel d is 8 + d, ring edge e is 24 + e, quad q is 28 + q, port A is
36 (R603). -/

/-- The interfaces that stage k trains, each with the key of its part (R604); recovery does not train host links that are up
(R674). -/
def State.trains (s : State) (k : Nat) (r : StageResult) : List (Nat × List Nat) :=
  match k with
  | 4 => ((List.range 8).filter fun h => !r.hbmNot.any fun x => decide (x.1.val = h)).map fun h =>
      (h, [((r.hbmId.find? fun x => decide (x.1.val = h)).map (·.2)).getD 0])
  | 5 => (r.ddrUp.filter fun d => decide (s.chState d.val = 1)).map fun d => (8 + d.val, tabGetD s.boot.ddrKey d.val [])
  | 6 =>
    let roles := (rolesOf (s.reg (offLANE + 0x10))).1
    let quad (q : Nat) : Nat × List Nat := (28 + q, [4 * q, 4 * q + 1, 4 * q + 2, 4 * q + 3, roles.getD q 0])
    (r.edgesUp.map fun e => (24 + e.val, [])) ++ (r.quads.map fun x => quad x.1.val) ++
      r.portsUp.flatMap fun p => if s.portUp p then [] else match p with
        | .a => [(36, [])]
        | .b => [quad 0, quad 1]
  | _ => []

/-- Whether an interface is trained fully: under rough-out, without a saved setting for its part, or when its short margin test
fails (R599, R600, R604). -/
def State.needsFull (s : State) (r : StageResult) (x : Nat × List Nat) : Bool :=
  s.roughOut || r.margin.contains x.1 || decide (tabGet? s.flash.saved x.1 ≠ some x.2)

/-- Full trainings of a stage: their settings are to be saved (R605), and under fast start the stage's bit of FULLTR is set
(R600). -/
def State.trainStage (s : State) (k : Nat) (r : StageResult) : State :=
  let full := (s.trains k r).filter (s.needsFull r)
  let s := { s with boot := { s.boot with trained := full.foldl (fun t x => tabSet t x.1 x.2) s.boot.trained } }
  if s.roughOut || full.isEmpty then s else s.setBit offBOOT (32 + k)

/-- The PLLs of the base dies (R27, R591). -/
def basePlls : BitVec 12 := 0x924#12

/-- Stage 0: the mode, the running slot, and the PLLs of the base dies (R591, R599, R606, R620). -/
def State.stage0 (s : State) (r : StageResult) : State :=
  let rough := s.bit (offBOOT + 0x10) 0 || !r.stored || s.flash.grain.isNone || !s.flash.settings
  let s := { s with boot := { s.boot with locks := s.boot.locks ||| (r.pll &&& basePlls) } }
  (s.putBit offBOOT 5 rough).putBit offBOOT 6 ((s.flash.chosen).getD false)

/-- Stage 1: versions, keys, and a retained trip record (R715, R716, R733, R738, R760, R779). -/
def State.stage1 (s : State) (r : StageResult) : State :=
  let s := (s.putBit offSEAL 4 r.keyOk).setReg (offSEAL + 0x180) (BitVec.ofNat 64 (r.seSvn.toNat * 2 ^ 32 + r.fwSvn.toNat))
  match s.boot.trip with
  | none => s
  | some t =>
    let v := BitVec.ofNat 64 (t.temp.toNat + t.die * 2 ^ 16 + t.stage * 2 ^ 20)
    let s := ((s.setReg (offTHM + 0x300) v).setReg (offTHM + 0x308) t.time).setBit (offTHM + 0x10) 32
    let s := { s with evLog := s.evLog ++ [(1, [0x0307#64, s.now, BitVec.ofNat 64 t.die, intWord t.temp.toInt, t.time])] }
    ((s.addLife 16 1).writeRecord 2)

/-- The clusters that a mesh link joins (R612). -/
def linkEnds (m : Nat) : Nat × Nat :=
  if m < 9 then (4 * (m / 3) + m % 3, 4 * (m / 3) + m % 3 + 1) else (m - 9, m - 9 + 4)

/-- The limit of R29 on the mesh links that a census maps out: two in a die, one at a router (R595, R665). -/
def meshWithin (out : BitVec 17) : Bool :=
  decide (onesIn 17 out.toNat ≤ 2) && (List.range 12).all fun c =>
    decide (((List.range 17).filter fun m =>
      out.getLsbD m && (decide ((linkEnds m).1 = c) || decide ((linkEnds m).2 = c))).length ≤ 1)

/-- The mesh links that are out after a census: under rough-out those found, else those found as well (R595, R615). -/
def State.censusMesh (s : State) (r : StageResult) : Vector (BitVec 17) 4 :=
  r.meshOut.foldl (fun m x => m.set x.1 (m[x.1] ||| BitVec.twoPow 17 x.2.val))
    (if s.roughOut then Vector.replicate 4 0#17 else s.grain.mesh)

/-- Whether a census of the mesh can be recorded. -/
def State.meshFits (s : State) (r : StageResult) : Bool := r.meshOut.isEmpty || (s.censusMesh r).toList.all meshWithin

/-- The map of a cluster that a rough-out census records (R21, R615): K0 to K11 at working positions of full width where there are
12, in ascending order; a further working position is K12, which is not free when it has a V-port group at HALF. -/
def censusMap (works full : Nat → Bool) : BitVec 53 :=
  let good := (List.range 13).filter fun p => works p && full p
  let all := good ++ (List.range 13).filter fun p => works p && !full p
  let act := (List.range 13).filter fun p => (all.take 12).contains p
  let v := (List.range 12).foldl (fun v k => putPos v k (act.getD k 15)) 0#53
  match all.drop 12 with
  | [] => putPos v 12 15
  | p :: _ => putNotFree (putPos v 12 p) (!full p)

/-- The map of a cluster under fast start when a position fails its self-test: its core moves onto the spare where that is free, and
the position is out (R595, notes/assumptions/26.md). -/
def failPosition (v : BitVec 53) (p : Nat) : BitVec 53 :=
  match (List.range 13).find? fun k => decide (posIn v k = p) with
  | none => v
  | some k => if k = 12 || !spareFreeIn v then putPos v k 15 else putPos (putPos v k (posIn v 12)) 12 15

/-- Whether all V-port groups of a position are at full width (R615). -/
def State.fullWidth (s : State) (g p : Nat) : Bool :=
  (positionBonds g p).all fun b => match b with
    | .vport _ _ _ _ _ => decide (s.bondState b ≤ 2)
    | _ => true

/-- The position maps after the core self-test of stage 7 (R595, R613, R615). -/
def State.censusPositions (s : State) (r : StageResult) : GrainMap :=
  let bad (g p : Nat) : Bool := r.posFail.any fun x => decide (x.1.val = g) && decide (x.2.val = p)
  if s.roughOut then
    (List.range 48).foldl (fun m g => m.setClMap g (censusMap (fun p => !bad g p) (s.fullWidth g))) s.grain
  else r.posFail.foldl (fun m x => m.setClMap x.1.val (failPosition (m.clMap x.1.val) x.2.val)) s.grain

/-- What the census or a self-test finds is mapped out, or under rough-out returns (R595, R613, R615). -/
def State.census (s : State) (k : Nat) (r : StageResult) : State :=
  let rough := s.roughOut
  let isPort (i : Nat) : Bool := decide (34944 ≤ i % stackGroups)
  let mine := r.bonds.filter fun x => isPort x.1 == decide (k = 2)
  let g := if k = 7 then s.censusPositions r else s.grain
  let g := if k = 2 ∧ s.meshFits r then { g with mesh := s.censusMesh r } else g
  let g := if k = 2 ∨ k = 3 then
      (if rough then
        { g with bonds := mine.foldl (fun t x => if x.2 = 0 then t else tabSet t x.1 (Nat.min 66 x.2))
                   (g.bonds.filter fun x => isPort x.1 != decide (k = 2)),
                 susp := [] }
       else mine.foldl (fun m x => m.setBond x.1 x.2) g)
    else g
  let g := if k = 3 ∨ k = 7 then
      { g with pipes := r.pipesOut.foldl (fun p q => p ||| BitVec.twoPow 96 q.val) (if rough ∧ k = 3 then 0#96 else g.pipes) }
    else g
  if g = s.grain then s
  else
    let was (i : Nat) : Nat := bondCode (tabGetD s.grain.bonds i 0)
    let changed := (if k = 2 ∨ k = 3 then mine else []).filter fun x => decide (was x.1 ≠ bondCode x.2)
    let s := State.grainChanged { s with grain := g }
    changed.foldl (fun s x => if bondCode x.2 = 1 ∨ bondCode x.2 = 2 then s.bondNoted (Bond.ofIndex x.1) (was x.1) (bondCode x.2) else s) s

/-- Whether a cluster has its 12 working positions (R21, R594). -/
def GrainMap.clusterWorks (m : GrainMap) (g : Nat) : Bool := (List.range 12).all fun k => decide (posIn (m.clMap g) k ≠ 15)

/-- Whether every cluster has them. -/
def GrainMap.working (m : GrainMap) : Bool := (List.range 48).all m.clusterWorks

/-- Stage 3: the fills; recovery keeps the system areas that pass parity, and rebuilds from the other copy what one that fails held twice
(R167, R596, R598, R640, R676). -/
def State.stage3 (s : State) (r : StageResult) : State :=
  let m := (s.mem.erase (fieldKey 0 0) (fieldKey 624 0)).erase (coreKey 0 0) (coreKey 624 0)
  if s.boot.recovering then
    let fails := (List.finRange 4).filter fun st => r.sysLost.contains st || s.areaFails st.val
    let m := fails.foldl (fun m st => m.erase (sysKey st.val 0) (sysKey (st.val + 1) 0)) m
    let lost := fails.map (·.val)
    State.mendHistories (State.mendLog
      { s with mem := m, boot := { s.boot with sysLost := fails, memLost := r.memLost } } lost) lost
  else { s with mem := m.erase (sysKey 0 0) (sysKey 4 0) }

/-- HBM_H status. -/
def offHst (h : Nat) : Nat := offHBM + 0x40 * h

/-- The identification of a part in the life record; a new part starts its hours at 0 (R779). -/
def State.seePart (s : State) (i : Nat) (id : Word) (hours : Nat) : State :=
  if tabGetD s.cnt.life i 0#64 = id then s
  else { s with cnt := { s.cnt with life := tabSet (tabSet s.cnt.life i id) hours 0#64, lifeMs := tabErase s.cnt.lifeMs hours } }

/-- The DIMMs of a channel, slot 0 and slot 1, as SPD shows them. -/
def dimmSlots (r : StageResult) (d : Nat) : Option Dimm × Option Dimm :=
  let at_ (one : Bool) : Option Dimm := (r.dimms.find? fun x => decide (x.1.val = d) && x.2.1 == one).map (·.2.2)
  (at_ false, at_ true)

/-- The population rule of a channel (R241): slot 0 before slot 1; two DIMMs alike in capacity, device width and ranks. -/
def populated : Option Dimm × Option Dimm → Bool
  | (some _, none) => true
  | (some a, some b) => decide (a.cap = b.cap) && decide (a.width = b.width) && decide (a.ranks = b.ranks)
  | _ => false

/-- A channel as stage 5 begins: absent, not used, or training, with what its DIMMs are (R240 to R242, R282, R788); in recovery a
channel that was in use trains again. -/
def State.findChannel (s : State) (r : StageResult) (d : Nat) : State :=
  let sl := dimmSlots r d
  let ds := sl.1.toList ++ sl.2.toList
  let n := ds.length
  let st : Nat := if n = 0 then 0 else if populated sl then 1 else 4
  let cap := (ds.head?.map (·.cap)).getD 0
  let width : Nat := match ds.head?.map (·.width) with
    | some 4 => 1
    | some 8 => 2
    | _ => 0
  let speed : Nat := if st ≠ 1 then 0 else if n = 1 then 2 else 1
  let pin := if st = 1 then s.pins.dimmReset ||| BitVec.twoPow 16 d else s.pins.dimmReset &&& ~~~ BitVec.twoPow 16 d
  let s := [(0, sl.1), (1, sl.2)].foldl (fun s x => match x.2 with
    | some m => s.seePart (33 + 2 * d + x.1) (BitVec.ofNat 64 m.serial) (65 + 2 * d + x.1)
    | none => s) s
  let s := { s with boot := { s.boot with ddrKey := tabSet s.boot.ddrKey d (ds.map Dimm.serial) } }
  if s.boot.recovering then (if s.chState d = 2 ∨ s.chState d = 3 then s.setField (offCh d) 10 8 1 else s)
  else
    { s with pins := { s.pins with dimmReset := pin } }.setReg (offCh d)
      (BitVec.ofNat 64 (st * 2 ^ 8 + cap % 512 * 2 ^ 15 + n * 2 ^ 24 + width * 2 ^ 26 + speed * 2 ^ 28))

/-- The STATE of an HBM4 stack at the end of stage 4 (R284). -/
def hbmStateOf (r : StageResult) (h : Nat) : Nat :=
  ((r.hbmNot.find? fun x => decide (x.1.val = h)).map (·.2.val)).getD 2

/-- Stage 4: the HBM4 stacks that train are filled and online, those that do not have failed; recovery fills only what was not kept.
The DIMMs are then read (R284, R594, R596, R598). -/
def State.stage4 (s : State) (r : StageResult) : State :=
  let s := (List.range 8).foldl (fun s h =>
    let keep := s.boot.recovering && !s.boot.memLost.any fun x => decide (x.val = h)
    let s := if keep then s else { s with mem := s.mem.erase (0xC00000000 * h) (0xC00000000 * (h + 1)) }
    let s := match r.hbmId.find? fun x => decide (x.1.val = h) with
      | some x => s.seePart (17 + h) (Config.idHash x.2) (25 + h)
      | none => s
    s.setField (offHst h) 2 0 (hbmStateOf r h)) s
  if r.hbmNot.isEmpty then (List.range 16).foldl (fun s d => s.findChannel r d) s else s

/-- Queue the fills of a channel's populated chunks (R249); a lent chunk stays lent and is filled for the host (R268). -/
def State.fillChannel (s : State) (d : Nat) : State :=
  let lent (k : Nat) : Bool := s.bit (offDDR + 0x800) (32 + k)
  let ks := (List.range (s.field (offCh d) 25 24)).map (2 * d + ·)
  { s with fillQ := s.fillQ ++ ks.map fun k => (k, flag (lent k), (none : Option (Nat × Nat))), fillAt := tabSet s.fillAt d s.time }

/-- A channel at the end of stage 5: one that trains fills, or goes on as before where recovery kept its memory; one that does not has
failed, and its chunks are holes (R249, R282, R594, R598). -/
def State.trainChannel (s : State) (r : StageResult) (d : Nat) : State :=
  let o := offDDR + 0x800
  let off (s : State) : State := (s.clearBit o (2 * d)).clearBit o (2 * d + 1)
  let drop (s : State) : State := { s with fillQ := s.fillQ.filter fun y => decide (y.1 / 2 ≠ d) }
  if s.chState d ≠ 1 then s
  else if !r.ddrUp.any (fun x => decide (x.val = d)) then (off (drop s)).setField (offCh d) 10 8 5
  else if s.boot.recovering && !s.boot.memLost.any (fun x => decide (x.val = 8 + d)) then
    s.setField (offCh d) 10 8 (if s.fillQ.any (fun y => decide (y.1 / 2 = d) && decide (y.2.1 = 0)) then 2 else 3)
  else ((off (drop s)).fillChannel d).setField (offCh d) 10 8 2

/-- Stage 5: channels trained and fills started (R249). -/
def State.stage5 (s : State) (r : StageResult) : State := (List.range 16).foldl (fun s d => s.trainChannel r d) s

/-- Stage 6: device ID and roles, peer quads, ring edges, host ports (R36, R541, R557 to R560, R567, R583, R584, R594). -/
def State.stage6 (s : State) (r : StageResult) : State :=
  let next := s.reg (offLANE + 0x10)
  let (roles, bad) := rolesOf next
  let v := roles.zipIdx.foldl (fun acc x => acc + x.1 * 16 ^ x.2) 0
  let s := (s.setReg offLANE (BitVec.ofNat 64 (fieldOf next 37 32))).setReg (offLANE + 8) (BitVec.ofNat 64 (v + flag bad * 2 ^ 32))
  let s := roles.zipIdx.foldl (fun s x =>
    let q := x.2
    if x.1 ≠ 1 then (s.setField (offQuad q) 1 0 0).setQuad q Quad.zero
    else
      match r.quads.find? fun y => decide (y.1.val = q) with
      | some y => ((s.setField (offQuad q) 1 0 2).setField (offQuad q) 7 6 y.2.1.toNat).setField (offQuad q) 5 4 y.2.2.toNat
      | none => s.linkDown q) s
  let s := { s with edgesDown := (List.range 4).filterMap fun e =>
    if r.edgesUp.any fun x => decide (x.val = e) then none else some (Fin.ofNat 4 e) }
  [Port.a, Port.b].foldl (fun s p =>
    if r.portsUp.contains p && s.perstHigh p && s.portWired p then s.portRises p else s) s

/-- Stage 8: a rough-out writes its settings and its map, and NEXT returns to 0; full trainings are saved; a trip of the time
before is reported (R601, R605, R716). -/
def State.stage8 (s : State) : State :=
  let s := if s.roughOut then ((s.writeRecord 0).writeRecord 1).clearBit (offBOOT + 0x10) 0
    else if s.field offBOOT 39 32 ≠ 0 then s.writeRecord 1 else s
  match s.boot.trip with
  | none => s
  | some t =>
    { s with boot := { s.boot with trip := none } }.event 7 3 (BitVec.ofNat 64 t.die) (intWord t.temp.toInt) t.time

/-- The work of a stage. -/
def State.stageWork (s : State) (k : Nat) (r : StageResult) : State :=
  match k with
  | 0 => s.stage0 r
  | 1 => s.stage1 r
  | 2 => s.census 2 r
  | 3 => (s.stage3 r).census 3 r
  | 4 => s.stage4 r
  | 5 => s.stage5 r
  | 6 => s.stage6 r
  | 7 => s.census 7 r
  | _ => s.stage8

/-- Why a stage cannot complete, given what its work leaves: a detail code of R594 and the failing unit. The code of a mesh that the
grain map cannot map out within R29 is open (notes/assumptions/56.md). -/
def State.stageFault (s : State) (k : Nat) (r : StageResult) : Option (Nat × Word) :=
  let other := some (r.detail.toNat, r.unitWord)
  if k = 0 ∧ s.flash.chosen.isNone then some (1, r.unitWord)
  else if (if k < 2 then s.boot.locks &&& basePlls ≠ basePlls else s.boot.locks ≠ BitVec.allOnes 12) then some (2, r.unitWord)
  else if k = 2 ∧ !s.meshFits r then other
  else if (k = 3 ∨ k = 7) ∧ !s.grain.working then
    some (3, (((List.range 48).find? fun g => !s.grain.clusterWorks g).map clusterUnit).getD 0#64)
  else
    match k, r.hbmNot, s.edgesDown with
    | 4, x :: _, _ => some (4, ctlUnit x.1.val)
    | 6, _, _ :: e :: _ => some (6, edgeUnit e.val)
    | _, _, _ => if r.ok then none else other

/-- Bring-up holds at stage 0 while a die reads above 95 °C (R717). -/
def tooHot (r : StageResult) : Bool := r.dieTemp.any fun t => decide (760 < t)

/-- BRINGUP_STAGE_COMPLETE: the stage in progress ends, is reported, and the next one starts (R592 to R594, R600, R623); stage 0 waits
for REFCLK and for cool dies (R26, R717). -/
def execBringupStageComplete (r : StageResult) (s : State) : Host.Outcome State Fault Refusal :=
  .next <|
    match s.boot.running with
    | none => s
    | some k =>
      if !s.pins.refclk || (decide (k = 0) && tooHot r) then s
      else
        let s := if k = 2 then { s with boot := { s.boot with locks := r.pll } } else s
        let s := (s.trainStage k r).stageWork k r
        match s.stageFault k r with
        | some (d, u) => s.stageFails k d u
        | none =>
          let s := (s.setField offBOOT 3 0 k).setReg (offBOOT + 0x100 + 8 * k) s.now
          let s := s.report k false 0 0#64
          { s with boot := { s.boot with running := if k < 8 then some (k + 1) else none } }

end Sys2Proof.Machine
end

