-- ==== Sys2Proof/Machine/Group.lean ====
section
/-!
DEFINITION. Group.lean: thread groups: launches (R424, R445 to R452), issue and faults (R453, R454, R461, R462, R483 to
R485), control and divergence (R464 to R471), re-packing (R472, R473).
-/
namespace Sys2Proof.Machine

/-! Launches (R424, R446 to R452, R485). -/

/-- Whether a launch identifier is one of the 64 most recent of its core (R450). -/
def Core.recent (k : Core) (id : Nat) : Bool :=
  let d := (k.nextLaunch.toNat + 65536 - id) % 65536
  decide (id < 65536) && decide (1 ≤ d) && decide (d ≤ 64) && k.launches.any fun l => decide (l.id = id)

/-- GLN: queues a launch with its uniform block; aD is the launch identifier (R424, R447, R450). -/
def execGln (u : Issue) (f : Fields) (s : State) : Host.Outcome State Fault Refusal :=
  .next <| s.issue u f { noUse with dst := .scalar, a := .scalar, rsv := 0 } fun s =>
    let n := u.core.val
    let po := (s.at u).poisA f.srca.toNat
    let a := addrOf (s.at u) f (immBits f 19 0)
    let s := s.taintIf u po
    let kd := s.image.bind fun img => img.kernels.find? fun k => decide (k.num = immBits f 29 20)
    if kd.isNone then .fault s fILL
    else if a % 256 ≠ 0 then .fault s fALIGN
    else if a > 0xFFFFF then .fault s fCSTORE
    else if ((s.core n).launches.filter fun l => !l.started).length ≥ 4 then .stall
    else
      let r := s.storeRead n a 256
      let k := r.s.core n
      let cnt := immBits f 33 30 + 1
      let l : Launch :=
        { id := k.nextLaunch.toNat, c := u.ctx, kernel := immBits f 29 20, count := cnt, live := cnt, killed := 0,
          started := false, uniform := r.bytes, uniPois := maskBy 32 fun j => r.pois.getD (j / 8) false }
      let keep (x : Launch) : Bool :=
        decide (0 < x.live) || decide ((k.nextLaunch.toNat + 65536 - x.id) % 65536 < 64)
      let s := r.s.setCore n { k with launches := k.launches.filter keep ++ [l], nextLaunch := k.nextLaunch + 1#16 }
      .next (s.putA u f.dst (BitVec.ofNat 64 l.id) po)

/-- GWT: waits until every group of launch aA has ended; an unknown launch completes at once (R424, R450, R451,
R485). -/
def execGwt (u : Issue) (f : Fields) (s : State) : Host.Outcome State Fault Refusal :=
  .next <| s.issue u f { noUse with dst := .scalar, a := .scalar } fun s =>
    let x := s.at u
    let id := (x.getA f.srca.toNat).toNat
    let id := if (s.core u.core.val).recent id then id else 65536
    .next (s.waitFor u (.gwt f.dst.toNat id (x.poisA f.srca.toNat)))

/-- A group context as its group starts (R446 to R448). -/
def startGroup (l : Launch) (kd : KernelDef) (i : Nat) : GroupCtx :=
  { GroupCtx.zero with
    busy := true, owner := l.c, launch := l.id, kernel := l.kernel, index := i, count := l.count,
    entryPc := kd.entry, stopPc := kd.stop,
    u := Vector.ofFn fun j : Fin 32 => BitVec.ofNat 64 (leNat ((l.uniform.drop (8 * j.val)).take 8)),
    uPois := l.uniPois,
    subs := [{ pc := kd.entry, mask := BitVec.allOnes 32, entry := none, atRcv := false, fence := none }] }

/-- The group contexts of a core that hold no group, ascending. -/
def Core.freeGroups (k : Core) : List Nat := (List.range 16).filter fun i => !(k.group (Fin.ofNat 16 i)).busy

/-- The launches of a core that wait, in the order in which the unit takes them (R309, R446). -/
def State.waitingLaunches (s : State) (n : Nat) : List Launch :=
  let k := s.core n
  decodeFirst (fun l => s.asBackfill n l.c) (fun l => decide (l.c = .d)) (fun l => decide (l.count ≤ k.freeGroups.length))
    (k.launches.filter fun l => !l.started)

/-- LAUNCH_START: the oldest waiting launch starts when as many contexts as it names are free; one of decode work goes before back-fill
(R309, R446). -/
def execLaunchStart (core : Fin 624) (s : State) : Host.Outcome State Fault Refusal :=
  let n := core.val
  let k := s.core n
  .next <|
    match s.waitingLaunches n with
    | [] => s
    | l :: _ =>
      let free := k.freeGroups
      let kd := s.image.bind fun img => img.kernels.find? fun d => decide (d.num = l.kernel)
      match kd with
      | none => s
      | some kd =>
        if !s.coreLive n || decide (free.length < l.count) then s
        else
          let k := (free.take l.count).zipIdx.foldl (fun (k : Core) x =>
            k.setGroup (Fin.ofNat 16 x.1) (startGroup l kd x.2)) k
          s.setCore n { k with launches := updateFirst (fun x => decide (x.id = l.id)) (fun l => { l with started := true }) k.launches }

/-! Faults (R483, R484). -/

/-- ILL. -/
def gILL : Nat := 1
/-- REG. -/
def gREG : Nat := 2
/-- ALIGN. -/
def gALIGN : Nat := 3
/-- ACCV. -/
def gACCV : Nat := 4
/-- CSTORE. -/
def gCSTORE : Nat := 5
/-- PC. -/
def gPC : Nat := 6
/-- STACK. -/
def gSTACK : Nat := 7
/-- PARTIAL. -/
def gPARTIAL : Nat := 8

/-- The group registers of position n (R488 to R492). -/
def offGX (n : Nat) : Nat := offSTN n + 0x100

/-- A group context of the block. -/
def State.grp (s : State) (n : Nat) (g : Fin 16) : GroupCtx := (s.core n).group g

/-- Set a group context of the block. -/
def State.setGrp (s : State) (n : Nat) (g : Fin 16) (x : GroupCtx) : State := s.setCore n ((s.core n).setGroup g x)

/-- A group fault kills the context: the first one is recorded, loads are discarded, and the context becomes free
when its stores are acknowledged (R483, R484). -/
def State.killGroup (s : State) (n : Nat) (g : Fin 16) (code pc : Nat) : State :=
  let x := s.grp n g
  let o := offGX n + 0x10
  let s := if s.bit o 63 then s
    else s.setReg o (BitVec.ofNat 64 (2 ^ 63 + x.kernel * 2 ^ 48 + x.launch * 2 ^ 32 + code * 2 ^ 28 + g.val * 2 ^ 24 + pc))
  let isLoad (r : Req) : Bool := decide (r.who = Requester.grp n g.val) && (match r.kind with | .ld _ _ _ => true | _ => false)
  let s := s.setGrp n g { x with killed := true, subs := [], stack := [], pend := [] }
  { s with reqs := s.reqs.filter fun r => !isLoad r }.reapGroup n g

/-! Operands (R453, R454). -/

/-- What a register field of a group instruction names. -/
inductive GKind where
  | unused | t | u
  deriving DecidableEq, Repr

/-- The operands of a group instruction: DST, SRCA, SRCB, SRCC, whether source B may be the immediate (IB), and the
bits of IMM that must be zero when IB = 0; lanes is set for the per-lane instructions that may be bundled (R472). -/
structure GUse where
  dst : GKind
  a   : GKind
  b   : GKind
  c   : GKind
  ib  : Bool
  rsv : Nat
  lanes : Bool := false
  deriving DecidableEq, Repr

/-- The fields SRCC, IB, CLASS, OP and IMM20 of IMM (R454). -/
def gCC : Nat := ones 33 28
/-- IB. -/
def gIB : Nat := ones 27 27
/-- CLASS. -/
def gCLS : Nat := ones 26 24
/-- OP. -/
def gOP : Nat := ones 23 20
/-- IMM20. -/
def gIMM : Nat := ones 19 0

/-- No operand; every bit of IMM reserved. -/
def noG : GUse := { dst := .unused, a := .unused, b := .unused, c := .unused, ib := false, rsv := ones 33 0 }

/-- SRCC. -/
def srcC (f : Fields) : Nat := immBits f 33 28

/-- IB. -/
def hasIb (f : Fields) : Bool := immBit f 27

/-- IMM20 as a signed number. -/
def imm20 (f : Fields) : Int := signedOf 20 (immBits f 19 0)

/-- The group fault of an encoding: ILL before REG (R453, notes/assumptions/8.md). -/
def GUse.fault (w : GUse) (f : Fields) : Option Nat :=
  let imm := w.ib && hasIb f
  let unusedBad (k : GKind) (r : Nat) : Bool := decide (k = .unused) && decide (r ≠ 0)
  let regBad (k : GKind) (r : Nat) : Bool := decide (k = .u) && decide (32 ≤ r)
  let kb : GKind := if imm then .unused else w.b
  let rsv := if imm then w.rsv &&& ones 33 20 else w.rsv
  if unusedBad w.dst f.dst.toNat || unusedBad w.a f.srca.toNat || unusedBad kb f.srcb.toNat ||
      f.imm.toNat &&& rsv != 0 then some gILL
  else if regBad w.dst f.dst.toNat || regBad w.a f.srca.toNat || regBad kb f.srcb.toNat then some gREG
  else none

/-- A lane of a thread register. -/
def GroupCtx.tv (x : GroupCtx) (r lane : Nat) : Lane := if h : r < 64 ∧ lane < 32 then x.t[r][lane]'(by omega) else 0#32

/-- The poison of a lane of a thread register. -/
def GroupCtx.tp (x : GroupCtx) (r lane : Nat) : Bool := if h : r < 64 then x.tPois[r].getLsbD lane else false

/-- A uniform register. -/
def GroupCtx.uv (x : GroupCtx) (r : Nat) : Word := if h : r < 32 then x.u[r] else 0#64

/-- Write a uniform register with its poison. -/
def GroupCtx.setU (x : GroupCtx) (r : Nat) (v : Word) (po : Bool) : GroupCtx :=
  if h : r < 32 then
    { x with u := x.u.set r v h,
             uPois := if po then x.uPois ||| BitVec.twoPow 32 r else x.uPois &&& ~~~ BitVec.twoPow 32 r }
  else x

/-- Write the active lanes of a thread register. -/
def GroupCtx.setLanes (x : GroupCtx) (r : Nat) (mask : BitVec 32) (v : Nat → Lane) (po : Nat → Bool) : GroupCtx :=
  if h : r < 64 then
    { x with
      t := x.t.set r (Vector.ofFn fun i : Fin 32 => if mask.getLsbD i.val then v i.val else x.t[r][i]) h,
      tPois := x.tPois.set r (maskBy 32 fun i => if mask.getLsbD i then po i else x.tPois[r].getLsbD i) h }
  else x

/-- The subgroup of the lane that issues. -/
def GroupCtx.sub? (x : GroupCtx) (lane : Fin 32) : Option Subgroup := x.subs.find? fun b => b.mask.getLsbD lane.val

/-- Replace the subgroup of a lane. -/
def GroupCtx.putSub (x : GroupCtx) (lane : Fin 32) (b : Subgroup) : GroupCtx :=
  { x with subs := updateFirst (fun y => y.mask.getLsbD lane.val) (fun _ => b) x.subs }

/-! Issue (R461, R462, R483). -/

/-- What a group instruction does once it issues: registers written and the next PC, a jump, a changed set of
subgroups, a fault, or not issued now. -/
inductive GEff where
  | next (s : State) (x : GroupCtx)
  | jump (s : State) (x : GroupCtx) (target : Int)
  | subs (s : State) (x : GroupCtx)
  | fault (s : State) (code : Nat)
  | stall

/-- A PC inside a kernel (R483). -/
def GroupCtx.pcOk (x : GroupCtx) (pc : Int) : Bool :=
  decide ((x.entryPc.toNat : Int) ≤ pc) && decide (pc < x.stopPc.toNat) && decide (pc % 8 = 0)

/-- Put a group context back; a subgroup whose PC left the kernel causes fault PC, a context without lanes ends. -/
def State.putGroup (s : State) (n : Nat) (g : Fin 16) (x : GroupCtx) : State :=
  match x.subs.find? (fun b => !x.pcOk b.pc.toNat) with
  | some b => (s.setGrp n g x).killGroup n g gPC b.pc.toNat
  | none =>
    let s := s.setGrp n g x
    if x.subs.isEmpty then s.reapGroup n g else s

/-- The registers that an instruction reads or writes, pairs included. -/
def GUse.regs (w : GUse) (f : Fields) (pairs : List Nat) : List Nat :=
  (if w.dst = .t then [f.dst.toNat] else []) ++ (if w.a = .t then [f.srca.toNat] else []) ++
    (if w.b = .t ∧ !(w.ib && hasIb f) then [f.srcb.toNat] else []) ++ (if w.c = .t then [srcC f] else []) ++ pairs

/-- Requests of a group context before a number that are not acknowledged (R459). -/
def State.storesBefore (s : State) (n g id : Nat) : Bool :=
  s.reqs.any fun r => decide (r.who = .grp n g) && decide (r.id < id) && (match r.kind with | .ld _ _ _ => false | _ => true)

/-- Whether a subgroup of a context may issue: it does not wait at its RCV, and the requests before its GFENCE are acknowledged
(R459, R461, R469). -/
def State.subReady (s : State) (n : Nat) (g : Fin 16) (b : Subgroup) : Bool :=
  let x := s.grp n g
  x.busy && !x.killed && !b.atRcv && !b.fence.any (s.storesBefore n g.val)

/-- Whether decode work of a core's group unit is certain to be ready: a subgroup of context D, in a context that awaits no load (R309,
R461). -/
def State.decodeReady (s : State) (n : Nat) : Bool :=
  (List.finRange 16).any fun g =>
    let x := s.grp n g
    decide (x.owner = .d) && x.pend.isEmpty && x.subs.any (s.subReady n g)

/-- Issue an instruction of one subgroup: it must be ready, its encoding without fault; then its effect and PC. The first subgroup of a
bundle counts its issue. None when it does not issue now. -/
def State.gStep (s : State) (g : GIssue) (f : Fields) (w : GUse) (pairs : List Nat) (first : Bool)
    (body : GIssue → State → GroupCtx → Subgroup → GEff) : Option State :=
  let n := g.core.val
  let x := s.grp n g.gctx
  match x.sub? g.lane with
  | none => none
  | some b =>
    if !s.coreLive n || !s.subReady n g.gctx b then none
    else
      let b : Subgroup := { b with fence := none }
      let tick (s : State) : State := if first then s.count (0x100 + n) 8 1 else s
      match w.fault f with
      | some code => some (s.killGroup n g.gctx code b.pc.toNat)
      | none =>
        if (w.regs f pairs).any (fun r => (List.range 32).any fun l => x.pend.contains (l * 64 + r)) then none
        else
          let at_ (x : GroupCtx) (t : Int) : GroupCtx := x.putSub g.lane { b with pc := BitVec.ofInt 20 t }
          match body g s x b with
          | .stall => none
          | .fault s code => some (s.killGroup n g.gctx code b.pc.toNat)
          | .subs s x => some ((tick s).putGroup n g.gctx x)
          | .jump s x t =>
            let s := tick s
            some (if x.pcOk t then s.putGroup n g.gctx (at_ x t)
              else (s.setGrp n g.gctx x).killGroup n g.gctx gPC (BitVec.ofInt 20 t).toNat)
          | .next s x => some ((tick s).putGroup n g.gctx (at_ x (b.pc.toNat + 8)))

/-! Re-packing (R472, R473). -/

/-- A subgroup as R462 orders it: decode work first, then the older launch, the lower group index, the lower lowest lane. -/
structure Rank where
  key  : Nat
  g    : GIssue
  mask : BitVec 32
  deriving DecidableEq, Repr

/-- The lowest active lane of a subgroup. -/
def Subgroup.low (b : Subgroup) : Nat := ((List.range 32).find? b.mask.getLsbD).getD 0

/-- A subgroup's place in the order of R462. -/
def State.rankOf (s : State) (n : Nat) (x : GroupCtx) (b : Subgroup) : Nat :=
  let old := (s.core n).launches.findIdx fun l => decide (l.id = x.launch)
  ((flag (decide (x.owner = .p)) * 2 ^ 20 + old) * 16 + x.index) * 32 + b.low

/-- Put a subgroup into a list in the order of R462. -/
def rankInsert : List Rank → Rank → List Rank
  | [], r => [r]
  | y :: t, r => if r.key < y.key then r :: y :: t else y :: rankInsert t r

/-- Of subgroups in order, the first n whose masks overlap neither the mask taken so far nor each other. -/
def pickRanks : Nat → BitVec 32 → List Rank → List GIssue
  | 0, _, _ => []
  | _, _, [] => []
  | n + 1, m, r :: t => if r.mask &&& m = 0#32 then r.g :: pickRanks n (m ||| r.mask) t else pickRanks (n + 1) m t

/-- The partners that a subgroup leads in a bundle (R472): up to three that come next in the order of R462, of launches of the same
kernel with PACK = 1 from the same sequencer context, at the same PC, ready, with masks that do not overlap; only for a per-lane
instruction without u registers, and with STN_GCFG.PACKEN = 1 (R488, notes/assumptions/31.md). -/
def State.partners (s : State) (g : GIssue) (f : Fields) (w : GUse) (pairs : List Nat) : List GIssue :=
  let n := g.core.val
  let x := s.grp n g.gctx
  let pack := (s.image.bind fun i => i.kernels.find? fun k => decide (k.num = x.kernel)).any (·.pack)
  if !w.lanes || decide (w.dst = .u) || decide (w.a = .u) || decide (w.b = .u) || !pack || !s.bit (offGX n) 1 then []
  else
    match x.sub? g.lane with
    | none => []
    | some b =>
      let all : List Rank := (List.finRange 16).flatMap fun h =>
        let y := s.grp n h
        let free := (w.regs f pairs).all fun r => (List.range 32).all fun l => !y.pend.contains (l * 64 + r)
        if decide (y.kernel ≠ x.kernel) || decide (y.owner ≠ x.owner) || !free then []
        else (y.subs.filter fun c => decide (c.pc = b.pc) && s.subReady n h c).map fun c =>
          { key := s.rankOf n y c, g := { core := g.core, gctx := h, lane := Fin.ofNat 32 c.low }, mask := c.mask }
      let next := (all.filter fun r => decide (s.rankOf n x b < r.key)).foldl rankInsert []
      pickRanks 3 b.mask next

/-- Issue an instruction of a subgroup, with the partners of its bundle: what they do is what separate issue in the bundle's order does
(R472, R473). Back-fill waits while decode work is ready (R309, R462). -/
def State.gIssue (s : State) (g : GIssue) (f : Fields) (w : GUse) (pairs : List Nat)
    (body : GIssue → State → GroupCtx → Subgroup → GEff) : State :=
  let n := g.core.val
  if s.asBackfill n (s.grp n g.gctx).owner && s.decodeReady n then s
  else
    match s.gStep g f w pairs true body with
    | none => s
    | some t => (s.partners g f w pairs).foldl (fun t h => (t.gStep h f w pairs false body).getD t) t

/-- Later stores of the context carry poison (R384, R460). -/
def GroupCtx.taintIf (x : GroupCtx) (po : Bool) : GroupCtx := if po then { x with taint := true } else x

/-! Control and divergence (R455, R459, R464 to R471). -/

/-- GNOP. -/
def execGnop (g : GIssue) (f : Fields) (s : State) : Host.Outcome State Fault Refusal :=
  .next <| s.gIssue g f noG [] fun _ s x _ => .next s x

/-- OFF of a branch, in bytes. -/
def gOff (b : Subgroup) (f : Fields) : Int := (b.pc.toNat : Int) + 8 * f.imm.toInt

/-- BRA. -/
def execBra (g : GIssue) (f : Fields) (s : State) : Host.Outcome State Fault Refusal :=
  .next <| s.gIssue g f { noG with rsv := 0 } [] fun _ s x b => .jump s x (gOff b f)

/-- BRU: taken when uA is not zero. -/
def execBru (g : GIssue) (f : Fields) (s : State) : Host.Outcome State Fault Refusal :=
  .next <| s.gIssue g f { noG with a := .u, rsv := 0 } [] fun _ s x b =>
    let x := x.taintIf (x.uPois.getLsbD f.srca.toNat)
    if x.uv f.srca.toNat ≠ 0#64 then .jump s x (gOff b f) else .next s x

/-- A stack-entry number that no entry of the context holds. -/
def freshEntry (x : GroupCtx) : Nat := (x.stack.map (·.id)).foldl Nat.max 0 + 1

/-- BRD: the lanes whose condition is not zero go to the target, the others fall through; when both exist a stack
entry is pushed and the subgroup splits (R465 to R468). -/
def execBrd (g : GIssue) (f : Fields) (s : State) : Host.Outcome State Fault Refusal :=
  .next <| s.gIssue g f { noG with a := .t, rsv := 0 } [] fun g s x b =>
    let taken : BitVec 32 := maskBy 32 fun i => b.mask.getLsbD i && decide (x.tv f.srca.toNat i ≠ 0#32)
    let x := x.taintIf ((List.range 32).any fun i => b.mask.getLsbD i && x.tp f.srca.toNat i)
    let dest := (b.pc.toNat : Int) + 8 * signedOf 17 (immBits f 33 17)
    if taken = 0#32 then .next s x
    else if taken = b.mask then .jump s x dest
    else if x.stack.length ≥ 16 then .fault (s.setGrp g.core.val g.gctx x) gSTACK
    else if !x.pcOk dest then .jump s x dest
    else
      let e : StackEntry := { id := freshEntry x, mask := b.mask, parent := b.entry,
                              rpc := BitVec.ofInt 20 ((b.pc.toNat : Int) + 8 * signedOf 17 (immBits f 16 0)) }
      let b1 : Subgroup := { b with pc := BitVec.ofInt 20 dest, mask := taken, entry := some e.id }
      let b2 : Subgroup := { b with pc := b.pc + 8#20, mask := b.mask &&& ~~~ taken, entry := some e.id }
      let subs := (x.subs.filter fun y => !y.mask.getLsbD g.lane.val) ++ [b1, b2]
      .subs s { x with subs := subs, stack := x.stack ++ [e] }

/-- Merge the subgroups of an entry when every lane of its mask waits at its RCV (R469). -/
def GroupCtx.mergeAt (x : GroupCtx) (e : StackEntry) : GroupCtx :=
  let here (b : Subgroup) : Bool := b.atRcv && decide (b.entry = some e.id)
  let lanes := (x.subs.filter here).foldl (fun m b => m ||| b.mask) 0#32
  if e.mask ≠ 0#32 ∧ lanes = e.mask then
    let b : Subgroup := { pc := e.rpc + 8#20, mask := e.mask, entry := e.parent, atRcv := false, fence := none }
    { x with subs := (x.subs.filter fun y => !here y) ++ [b], stack := x.stack.filter fun y => decide (y.id ≠ e.id) }
  else x

/-- RCV: at the RPC of its current entry the subgroup waits for the entry's other lanes (R469, R470). -/
def execRcv (g : GIssue) (f : Fields) (s : State) : Host.Outcome State Fault Refusal :=
  .next <| s.gIssue g f noG [] fun g s x b =>
    match x.stack.find? (fun e => decide (b.entry = some e.id)) with
    | none => .next s x
    | some e =>
      if e.rpc ≠ b.pc then .next s x
      else .subs s ((x.putSub g.lane { b with atRcv := true }).mergeAt e)

/-- GEXIT: the active lanes end; they leave every stack entry, and an entry without lanes is freed (R471). -/
def execGexit (g : GIssue) (f : Fields) (s : State) : Host.Outcome State Fault Refusal :=
  .next <| s.gIssue g f noG [] fun g s x b =>
    let stack := (x.stack.map fun e => { e with mask := e.mask &&& ~~~ b.mask }).filter fun e => decide (e.mask ≠ 0#32)
    let x := { x with subs := x.subs.filter fun y => !y.mask.getLsbD g.lane.val, stack := stack }
    .subs s (stack.foldl GroupCtx.mergeAt x)

/-- GFENCE: the subgroup issues nothing more until every earlier store, atomic and GRED of its context is
acknowledged (R459). -/
def execGfence (g : GIssue) (f : Fields) (s : State) : Host.Outcome State Fault Refusal :=
  .next <| s.gIssue g f noG [] fun g s x b =>
    .subs s (x.putSub g.lane { b with fence := some s.nextReq, pc := b.pc + 8#20 })

end Sys2Proof.Machine
end

