-- ==== Sys2Proof/Machine/Scalar.lean ====
section
/-!
DEFINITION. Scalar.lean: scalar arithmetic and special registers (R395, R396).
-/
namespace Sys2Proof.Machine

/-- The operands of major 0x04: B is aB, or the immediate with aB unused (R395). -/
def aluUse (f : Fields) : Use :=
  { dst := .scalar, a := .scalar, b := if immBit f 33 then .unused else .scalar, c := none,
    rsv := if immBit f 33 then 2 ^ 32 else 2 ^ 33 - 1 }

/-- Source B of major 0x04 (R395). -/
def aluB (f : Fields) (x : Context) : Word :=
  if immBit f 33 then sext64 32 (immBits f 31 0) else x.getA f.srcb.toNat

/-- Poison of the sources of major 0x04 (R383). -/
def aluPois (f : Fields) (x : Context) : Bool :=
  x.poisA f.srca.toNat || (!immBit f 33 && x.poisA f.srcb.toNat)

/-- An instruction of major 0x04: aD from aA and B (R395). -/
def State.alu (s : State) (u : Issue) (f : Fields) (op : Word → Word → Word) : State :=
  s.issue u f (aluUse f) fun s =>
    let x := s.at u
    .next (s.putA u f.dst (op (x.getA f.srca.toNat) (aluB f x)) (aluPois f x))

/-- The amount of a shift: B[5:0]. -/
def shAmt (b : Word) : Nat := fieldOf b 5 0

/-- High half of the signed product (R395). -/
def mulHigh (a b : Word) : Word := BitVec.ofInt 64 (a.toInt * b.toInt / 2 ^ 64)

/-- MOVH (R395). -/
def movHigh (a b : Word) : Word := BitVec.ofNat 64 (fieldOf b 31 0 * 2 ^ 32 + fieldOf a 31 0)

/-- ADD. -/
def execAdd (u : Issue) (f : Fields) (s : State) : Host.Outcome State Fault Refusal := .next (s.alu u f (· + ·))
/-- SUB. -/
def execSub (u : Issue) (f : Fields) (s : State) : Host.Outcome State Fault Refusal := .next (s.alu u f (· - ·))
/-- MUL. -/
def execMul (u : Issue) (f : Fields) (s : State) : Host.Outcome State Fault Refusal := .next (s.alu u f (· * ·))
/-- MULH. -/
def execMulh (u : Issue) (f : Fields) (s : State) : Host.Outcome State Fault Refusal := .next (s.alu u f mulHigh)
/-- AND. -/
def execAnd (u : Issue) (f : Fields) (s : State) : Host.Outcome State Fault Refusal := .next (s.alu u f (· &&& ·))
/-- OR. -/
def execOr (u : Issue) (f : Fields) (s : State) : Host.Outcome State Fault Refusal := .next (s.alu u f (· ||| ·))
/-- XOR. -/
def execXor (u : Issue) (f : Fields) (s : State) : Host.Outcome State Fault Refusal := .next (s.alu u f (· ^^^ ·))
/-- SHL. -/
def execShl (u : Issue) (f : Fields) (s : State) : Host.Outcome State Fault Refusal :=
  .next (s.alu u f fun a b => a <<< shAmt b)
/-- SHR. -/
def execShr (u : Issue) (f : Fields) (s : State) : Host.Outcome State Fault Refusal :=
  .next (s.alu u f fun a b => a >>> shAmt b)
/-- SRA. -/
def execSra (u : Issue) (f : Fields) (s : State) : Host.Outcome State Fault Refusal :=
  .next (s.alu u f fun a b => a.sshiftRight (shAmt b))
/-- SLT. -/
def execSlt (u : Issue) (f : Fields) (s : State) : Host.Outcome State Fault Refusal :=
  .next (s.alu u f fun a b => BitVec.ofNat 64 (flag (a.slt b)))
/-- SLTU. -/
def execSltu (u : Issue) (f : Fields) (s : State) : Host.Outcome State Fault Refusal :=
  .next (s.alu u f fun a b => BitVec.ofNat 64 (flag (a.ult b)))
/-- MIN, signed. -/
def execMin (u : Issue) (f : Fields) (s : State) : Host.Outcome State Fault Refusal :=
  .next (s.alu u f fun a b => if a.slt b then a else b)
/-- MAX, signed. -/
def execMax (u : Issue) (f : Fields) (s : State) : Host.Outcome State Fault Refusal :=
  .next (s.alu u f fun a b => if a.slt b then b else a)
/-- MOVH. -/
def execMovh (u : Issue) (f : Fields) (s : State) : Host.Outcome State Fault Refusal := .next (s.alu u f movHigh)

/-- The value of SELF (R396). -/
def selfWord (u : Issue) : Word := BitVec.ofNat 64 (u.core.val + (if u.ctx = .p then 1024 else 0))

/-- A special register by number; none for a number that R396 does not list. -/
def State.special (s : State) (u : Issue) (k : Nat) : Option Word :=
  match k with
  | 0 => some (s.reg (offVMODE u.core.val))
  | 1 => some (s.at u).waveWord
  | 2 => some s.now
  | 3 => some (selfWord u)
  | _ => none

/-- MRS: aD from a special register (R396). -/
def execMrs (u : Issue) (f : Fields) (s : State) : Host.Outcome State Fault Refusal :=
  .next <| s.issue u f { noUse with dst := .scalar, rsv := ones 33 8 } fun s =>
    match s.special u (immBits f 7 0) with
    | some v => .next (s.putA u f.dst v false)
    | none => .fault s fILL

/-- MSR: VMODE from aA; a reserved RND, a read-only register or another number is ILL (R117, R396). -/
def execMsr (u : Issue) (f : Fields) (s : State) : Host.Outcome State Fault Refusal :=
  .next <| s.issue u f { noUse with a := .scalar, rsv := ones 33 8 } fun s =>
    let v := (s.at u).getA f.srca.toNat
    if immBits f 7 0 ≠ 0 then .fault s fILL
    else if rndReserved v then .fault s fILL
    else .next (s.setReg (offVMODE u.core.val) (vmodeOfMsr v))

end Sys2Proof.Machine
end

