-- ==== Sys2Proof/Machine/GroupOps.lean ====
section
/-!
DEFINITION. GroupOps.lean: group arithmetic per lane and uniform, lane exchange, GMMA and GSPEC (R455 to R457, R460, R474
to R477).
-/
namespace Sys2Proof.Machine

/-- Source B of a lane: a thread register or the immediate (R454). -/
def GroupCtx.bv (x : GroupCtx) (f : Fields) (i : Nat) : Lane :=
  if hasIb f then BitVec.ofInt 32 (imm20 f) else x.tv f.srcb.toNat i

/-- Poison of source B. -/
def GroupCtx.bp (x : GroupCtx) (f : Fields) (i : Nat) : Bool := if hasIb f then false else x.tp f.srcb.toNat i

/-- Operands of a per-lane instruction on tA and B. -/
def useAB : GUse := { dst := .t, a := .t, b := .t, c := .unused, ib := true, rsv := gCC ||| gCLS ||| gOP ||| gIMM, lanes := true }
/-- Operands of a per-lane instruction on tA, B and tC. -/
def useABC : GUse := { dst := .t, a := .t, b := .t, c := .t, ib := true, rsv := gCLS ||| gOP ||| gIMM, lanes := true }
/-- Operands of a per-lane instruction on tA. -/
def useA : GUse := { dst := .t, a := .t, b := .unused, c := .unused, ib := false, rsv := ones 33 0, lanes := true }

/-- A per-lane instruction: the result of each active lane from its own A, B and C, its flags and its poison. -/
def State.perLane (s : State) (g : GIssue) (f : Fields) (w : GUse) (fn : Lane → Lane → Lane → Lane × FpFlags) : State :=
  s.gIssue g f w [] fun g s x b =>
    let out := (Vector.ofFn fun i : Fin 32 => fn (if w.a = .t then x.tv f.srca.toNat i.val else 0#32)
      (if w.b = .t then x.bv f i.val else 0#32) (if w.c = .t then x.tv (srcC f) i.val else 0#32)).toArray
    let res (i : Nat) : Lane × FpFlags := out.getD i (0#32, 0#5)
    let po (i : Nat) : Bool := (decide (w.a = .t) && x.tp f.srca.toNat i) || (decide (w.b = .t) && x.bp f i) ||
      (decide (w.c = .t) && x.tp (srcC f) i)
    let fl := allFlags ((List.range 32).map fun i => if b.mask.getLsbD i then (res i).2 else 0#5)
    .next (s.raiseGroup g.core.val fl) (x.setLanes f.dst.toNat b.mask (fun i => (res i).1) po)

/-- A per-lane integer instruction on A and B. -/
def State.lane2 (s : State) (g : GIssue) (f : Fields) (fn : Lane → Lane → Lane) : Host.Outcome State Fault Refusal :=
  .next (s.perLane g f useAB fun a b _ => (fn a b, 0#5))

/-- A condition as a lane. -/
def laneFlag (b : Bool) : Lane := if b then 1#32 else 0#32

/-- IADD. -/
def execIadd (g : GIssue) (f : Fields) (s : State) : Host.Outcome State Fault Refusal := s.lane2 g f (· + ·)
/-- ISUB. -/
def execIsub (g : GIssue) (f : Fields) (s : State) : Host.Outcome State Fault Refusal := s.lane2 g f (· - ·)
/-- IMUL: the low 32 bits. -/
def execImul (g : GIssue) (f : Fields) (s : State) : Host.Outcome State Fault Refusal := s.lane2 g f (· * ·)
/-- AND. -/
def execGroupAnd (g : GIssue) (f : Fields) (s : State) : Host.Outcome State Fault Refusal := s.lane2 g f (· &&& ·)
/-- OR. -/
def execGroupOr (g : GIssue) (f : Fields) (s : State) : Host.Outcome State Fault Refusal := s.lane2 g f (· ||| ·)
/-- XOR. -/
def execGroupXor (g : GIssue) (f : Fields) (s : State) : Host.Outcome State Fault Refusal := s.lane2 g f (· ^^^ ·)
/-- SHL by B[4:0]. -/
def execGroupShl (g : GIssue) (f : Fields) (s : State) : Host.Outcome State Fault Refusal :=
  s.lane2 g f fun a b => a <<< (b.toNat % 32)
/-- SHR by B[4:0]. -/
def execGroupShr (g : GIssue) (f : Fields) (s : State) : Host.Outcome State Fault Refusal :=
  s.lane2 g f fun a b => a >>> (b.toNat % 32)
/-- SRA by B[4:0]. -/
def execGroupSra (g : GIssue) (f : Fields) (s : State) : Host.Outcome State Fault Refusal :=
  s.lane2 g f fun a b => a.sshiftRight (b.toNat % 32)
/-- IMIN. -/
def execImin (g : GIssue) (f : Fields) (s : State) : Host.Outcome State Fault Refusal :=
  s.lane2 g f fun a b => if b.slt a then b else a
/-- IMAX. -/
def execImax (g : GIssue) (f : Fields) (s : State) : Host.Outcome State Fault Refusal :=
  s.lane2 g f fun a b => if a.slt b then b else a
/-- UMIN. -/
def execUmin (g : GIssue) (f : Fields) (s : State) : Host.Outcome State Fault Refusal :=
  s.lane2 g f fun a b => if b.ult a then b else a
/-- UMAX. -/
def execUmax (g : GIssue) (f : Fields) (s : State) : Host.Outcome State Fault Refusal :=
  s.lane2 g f fun a b => if a.ult b then b else a
/-- SEQ. -/
def execSeq (g : GIssue) (f : Fields) (s : State) : Host.Outcome State Fault Refusal :=
  s.lane2 g f fun a b => laneFlag (decide (a = b))
/-- SNE. -/
def execSne (g : GIssue) (f : Fields) (s : State) : Host.Outcome State Fault Refusal :=
  s.lane2 g f fun a b => laneFlag (decide (a ≠ b))
/-- SLT. -/
def execGroupSlt (g : GIssue) (f : Fields) (s : State) : Host.Outcome State Fault Refusal :=
  s.lane2 g f fun a b => laneFlag (a.slt b)
/-- SLTU. -/
def execGroupSltu (g : GIssue) (f : Fields) (s : State) : Host.Outcome State Fault Refusal :=
  s.lane2 g f fun a b => laneFlag (a.ult b)
/-- SEL: tA where tC is not zero, else B. -/
def execSel (g : GIssue) (f : Fields) (s : State) : Host.Outcome State Fault Refusal :=
  .next (s.perLane g f useABC fun a b c => (if c ≠ 0#32 then a else b, 0#5))
/-- MOV: B. -/
def execMov (g : GIssue) (f : Fields) (s : State) : Host.Outcome State Fault Refusal :=
  .next (s.perLane g f { useAB with a := .unused } fun _ b _ => (b, 0#5))

/-! Floating point (R456): nearest even, never saturating. -/

/-- A result code as a lane with its flags. -/
def laneOf (r : Nat × FpFlags) : Lane × FpFlags := (BitVec.ofNat 32 r.1, r.2)

/-- A per-lane FP32 instruction on A and B. -/
def State.laneF (s : State) (g : GIssue) (f : Fields) (fn : Nat → Nat → Nat × FpFlags) : Host.Outcome State Fault Refusal :=
  .next (s.perLane g f useAB fun a b _ => laneOf (fn a.toNat b.toNat))

/-- FADD. -/
def execFadd (g : GIssue) (f : Fields) (s : State) : Host.Outcome State Fault Refusal :=
  s.laneF g f fun a b => fpAdd fmt32 modeIeee (unpack fmt32 a) (unpack fmt32 b)
/-- FSUB. -/
def execFsub (g : GIssue) (f : Fields) (s : State) : Host.Outcome State Fault Refusal :=
  s.laneF g f fun a b => fpSub fmt32 modeIeee (unpack fmt32 a) (unpack fmt32 b)
/-- FMUL. -/
def execFmul (g : GIssue) (f : Fields) (s : State) : Host.Outcome State Fault Refusal :=
  s.laneF g f fun a b => fpMul fmt32 modeIeee (unpack fmt32 a) (unpack fmt32 b)
/-- FFMA: tA × B + tC, one rounding. -/
def execFfma (g : GIssue) (f : Fields) (s : State) : Host.Outcome State Fault Refusal :=
  .next (s.perLane g f useABC fun a b c =>
    laneOf (fpFma fmt32 modeIeee (unpack fmt32 a.toNat) (unpack fmt32 b.toNat) (unpack fmt32 c.toNat)))
/-- FMIN: IEEE 754-2019 minimum. -/
def execFmin (g : GIssue) (f : Fields) (s : State) : Host.Outcome State Fault Refusal :=
  s.laneF g f fun a b => fpMinMax fmt32 false a b (unpack fmt32 a) (unpack fmt32 b)
/-- FMAX: IEEE 754-2019 maximum. -/
def execFmax (g : GIssue) (f : Fields) (s : State) : Host.Outcome State Fault Refusal :=
  s.laneF g f fun a b => fpMinMax fmt32 true a b (unpack fmt32 a) (unpack fmt32 b)

/-- A compare by the codes of R400: 1 or 0. -/
def laneCmp (code a b : Nat) : Nat × FpFlags :=
  let (r, fl) := fpCompare code (unpack fmt32 a) (unpack fmt32 b)
  (flag r, fl)

/-- FEQ. -/
def execFeq (g : GIssue) (f : Fields) (s : State) : Host.Outcome State Fault Refusal := s.laneF g f (laneCmp 0)
/-- FLT. -/
def execFlt (g : GIssue) (f : Fields) (s : State) : Host.Outcome State Fault Refusal := s.laneF g f (laneCmp 2)
/-- FLE. -/
def execFle (g : GIssue) (f : Fields) (s : State) : Host.Outcome State Fault Refusal := s.laneF g f (laneCmp 3)

/-- A per-lane FP32 instruction on A. -/
def State.laneF1 (s : State) (g : GIssue) (f : Fields) (fn : Nat → Nat × FpFlags) : Host.Outcome State Fault Refusal :=
  .next (s.perLane g f useA fun a _ _ => laneOf (fn a.toNat))

/-- FEXP2. -/
def execFexp2 (g : GIssue) (f : Fields) (s : State) : Host.Outcome State Fault Refusal := s.laneF1 g f (estExp2 false)
/-- FRCP. -/
def execFrcp (g : GIssue) (f : Fields) (s : State) : Host.Outcome State Fault Refusal := s.laneF1 g f (estRcp false)
/-- FLOG2. -/
def execFlog2 (g : GIssue) (f : Fields) (s : State) : Host.Outcome State Fault Refusal := s.laneF1 g f estLog2
/-- I2F: nearest even. -/
def execI2f (g : GIssue) (f : Fields) (s : State) : Host.Outcome State Fault Refusal :=
  s.laneF1 g f fun a => toIeee fmt32 modeIeee (numOfInt (signedOf 32 a))
/-- F2I: the I32 rule of R402, ties to even. -/
def execF2i (g : GIssue) (f : Fields) (s : State) : Host.Outcome State Fault Refusal :=
  s.laneF1 g f fun a => toI32 .near (unpack fmt32 a)
/-- F2H: FP16 of A below, FP16 of B above. -/
def execF2h (g : GIssue) (f : Fields) (s : State) : Host.Outcome State Fault Refusal :=
  s.laneF g f fun a b =>
    let x := toIeee fmt16 modeIeee (unpack fmt32 a)
    let y := toIeee fmt16 modeIeee (unpack fmt32 b)
    (x.1 + y.1 * 65536, x.2 ||| y.2)
/-- H2F: FP32 of the half that OP[0] selects. -/
def execH2f (g : GIssue) (f : Fields) (s : State) : Host.Outcome State Fault Refusal :=
  .next (s.perLane g f { useA with rsv := gCC ||| gIB ||| gCLS ||| ones 23 21 ||| gIMM } fun a _ _ =>
    laneOf (toIeee fmt32 modeIeee (unpack fmt16 (if immBit f 20 then a.toNat / 65536 else a.toNat % 65536))))

/-! Uniform instructions (R455). -/

/-- Source B of a uniform instruction. -/
def GroupCtx.ubv (x : GroupCtx) (f : Fields) : Word := if hasIb f then BitVec.ofInt 64 (imm20 f) else x.uv f.srcb.toNat

/-- A uniform instruction on uA and B. -/
def State.uni (s : State) (g : GIssue) (f : Fields) (one : Bool) (fn : Word → Word → Word) : Host.Outcome State Fault Refusal :=
  .next <| s.gIssue g f { dst := .u, a := if one then .unused else .u, b := .u, c := .unused, ib := true,
                          rsv := gCC ||| gCLS ||| gOP ||| gIMM } [] fun _ s x _ =>
    let po := (!one && x.uPois.getLsbD f.srca.toNat) || (!hasIb f && x.uPois.getLsbD f.srcb.toNat)
    .next s (x.setU f.dst.toNat (fn (x.uv f.srca.toNat) (x.ubv f)) po)

/-- UADD. -/
def execUadd (g : GIssue) (f : Fields) (s : State) : Host.Outcome State Fault Refusal := s.uni g f false (· + ·)
/-- USUB. -/
def execUsub (g : GIssue) (f : Fields) (s : State) : Host.Outcome State Fault Refusal := s.uni g f false (· - ·)
/-- UMUL. -/
def execUmul (g : GIssue) (f : Fields) (s : State) : Host.Outcome State Fault Refusal := s.uni g f false (· * ·)
/-- UAND. -/
def execUand (g : GIssue) (f : Fields) (s : State) : Host.Outcome State Fault Refusal := s.uni g f false (· &&& ·)
/-- UOR. -/
def execUor (g : GIssue) (f : Fields) (s : State) : Host.Outcome State Fault Refusal := s.uni g f false (· ||| ·)
/-- UXOR. -/
def execUxor (g : GIssue) (f : Fields) (s : State) : Host.Outcome State Fault Refusal := s.uni g f false (· ^^^ ·)
/-- USHL, by B[5:0] as SHL of station code (notes/assumptions/16.md). -/
def execUshl (g : GIssue) (f : Fields) (s : State) : Host.Outcome State Fault Refusal :=
  s.uni g f false fun a b => a <<< (b.toNat % 64)
/-- USHR, by B[5:0]. -/
def execUshr (g : GIssue) (f : Fields) (s : State) : Host.Outcome State Fault Refusal :=
  s.uni g f false fun a b => a >>> (b.toNat % 64)
/-- USLT: signed (notes/assumptions/16.md). -/
def execUslt (g : GIssue) (f : Fields) (s : State) : Host.Outcome State Fault Refusal :=
  s.uni g f false fun a b => if a.slt b then 1#64 else 0#64
/-- UMOV: B. -/
def execUmov (g : GIssue) (f : Fields) (s : State) : Host.Outcome State Fault Refusal := s.uni g f true fun _ b => b
/-- UXT: uD from tA of lane IMM20[4:0]. -/
def execUxt (g : GIssue) (f : Fields) (s : State) : Host.Outcome State Fault Refusal :=
  .next <| s.gIssue g f { noG with dst := .u, a := .t, rsv := ones 33 5 } [] fun _ s x _ =>
    let i := immBits f 4 0
    .next s (x.setU f.dst.toNat ((x.tv f.srca.toNat i).setWidth 64) (x.tp f.srca.toNat i))
/-- UBC: tD from uA[31:0] in every active lane. -/
def execUbc (g : GIssue) (f : Fields) (s : State) : Host.Outcome State Fault Refusal :=
  .next <| s.gIssue g f { noG with dst := .t, a := .u } [] fun _ s x b =>
    let v := (x.uv f.srca.toNat).setWidth 32
    .next s (x.setLanes f.dst.toNat b.mask (fun _ => v) fun _ => x.uPois.getLsbD f.srca.toNat)
/-- VOTE: uD is the mask of active lanes whose tA is not zero. -/
def execVote (g : GIssue) (f : Fields) (s : State) : Host.Outcome State Fault Refusal :=
  .next <| s.gIssue g f { noG with dst := .u, a := .t } [] fun _ s x b =>
    let m : Word := maskBy 64 fun i => decide (i < 32) && b.mask.getLsbD i && decide (x.tv f.srca.toNat i ≠ 0#32)
    .next s (x.setU f.dst.toNat m ((List.range 32).any fun i => b.mask.getLsbD i && x.tp f.srca.toNat i))
/-- SHFL: tD from tA of lane B mod 32, active or not. -/
def execShfl (g : GIssue) (f : Fields) (s : State) : Host.Outcome State Fault Refusal :=
  .next <| s.gIssue g f useAB [] fun _ s x b =>
    let from_ (i : Nat) : Nat := (x.bv f i).toNat % 32
    .next s (x.setLanes f.dst.toNat b.mask (fun i => x.tv f.srca.toNat (from_ i)) fun i =>
      x.bp f i || x.tp f.srca.toNat (from_ i))

/-! GMMA (R474 to R477). -/

/-- The lane that holds row i, column c of an operand, and which of its two elements (R474). -/
def mmaLane (i c : Nat) : Nat := 8 * (i / 2) + c

/-- Element (i, c) of an FP16 operand; an inactive lane supplies +0 (R474, R476). -/
def GroupCtx.half (x : GroupCtx) (mask : BitVec 32) (r i c : Nat) : Num :=
  let l := mmaLane i c
  if mask.getLsbD l then
    let v := (x.tv r l).toNat
    unpack fmt16 (if i % 2 = 0 then v % 65536 else v / 65536)
  else .fin false 0 0

/-- The sum of a list by a fixed pairwise tree; fuel bounds its depth (R475). -/
def mmaSum : Nat → List (Nat × FpFlags) → Nat × FpFlags
  | _, [] => (0, 0#5)
  | _, [x] => x
  | 0, x :: _ => x
  | fuel + 1, l =>
    let n := l.length / 2
    let a := mmaSum fuel (l.take n)
    let b := mmaSum fuel (l.drop n)
    let r := fpAdd fmt32 modeIeee (unpack fmt32 a.1) (unpack fmt32 b.1)
    (r.1, a.2 ||| b.2 ||| r.2)

/-- Element (i, j) of D with its flags (R475). -/
def GroupCtx.mma (x : GroupCtx) (mask : BitVec 32) (ra rb rc i j : Nat) : Nat × FpFlags :=
  let prods := (List.range 8).map fun m => fpMul fmt32 modeIeee (x.half mask ra i m) (x.half mask rb m j)
  let sum := mmaSum 3 prods
  let l := mmaLane i j
  let c := if mask.getLsbD l then (x.tv (rc + i % 2) l).toNat else 0
  let r := fpAdd fmt32 modeIeee (unpack fmt32 sum.1) (unpack fmt32 c)
  (r.1, sum.2 ||| r.2)

/-- Poison of element (i, j) of D: of any element that it is formed from (R383, R460). -/
def GroupCtx.mmaPois (x : GroupCtx) (mask : BitVec 32) (ra rb rc i j : Nat) : Bool :=
  ((List.range 8).any fun m =>
    (mask.getLsbD (mmaLane i m) && x.tp ra (mmaLane i m)) || (mask.getLsbD (mmaLane m j) && x.tp rb (mmaLane m j))) ||
    x.tp (rc + i % 2) (mmaLane i j)

/-- GMMA (R474 to R477). -/
def execGmma (g : GIssue) (f : Fields) (s : State) : Host.Outcome State Fault Refusal :=
  let d := f.dst.toNat
  let c := srcC f
  .next <| s.gIssue g f { dst := .t, a := .t, b := .t, c := .t, ib := false, rsv := ones 27 0 } [d + 1, c + 1] fun g s x b =>
    let n := g.core.val
    let part := decide (b.mask ≠ BitVec.allOnes 32)
    if d % 2 = 1 ∨ c % 2 = 1 then .fault s gREG
    else if part && s.bit (offGX n) 0 then .fault s gPARTIAL
    else
      let s := if part then s.countReg (offGX n + 0x18) else s
      let a := f.srca.toNat
      let bb := f.srcb.toNat
      let out := ((List.range 64).map fun k => x.mma b.mask a bb c (k / 8) (k % 8)).toArray
      let el (h i : Nat) : Nat × FpFlags := out.getD ((2 * (i / 8) + h) * 8 + i % 8) (0, 0#5)
      let po (h i : Nat) : Bool := x.mmaPois b.mask a bb c (2 * (i / 8) + h) (i % 8)
      let fl := allFlags ((List.range 32).map fun i => if b.mask.getLsbD i then (el 0 i).2 ||| (el 1 i).2 else 0#5)
      let x1 := x.setLanes d b.mask (fun i => BitVec.ofNat 32 (el 0 i).1) (po 0)
      .next (s.raiseGroup n fl) (x1.setLanes (d + 1) b.mask (fun i => BitVec.ofNat 32 (el 1 i).1) (po 1))

/-! GSPEC (R457). -/

/-- GSPEC. -/
def execGspec (g : GIssue) (f : Fields) (s : State) : Host.Outcome State Fault Refusal :=
  let k := immBits f 3 0
  .next <| s.gIssue g f { noG with dst := if k = 0 then .t else .u, rsv := ones 33 4 } [] fun g s x b =>
    let n := g.core.val
    let u (v : Word) : GEff := .next s (x.setU f.dst.toNat v false)
    match k with
    | 0 => .next s (x.setLanes f.dst.toNat b.mask (fun i => BitVec.ofNat 32 i) fun _ => false)
    | 1 => u (BitVec.ofNat 64 x.index)
    | 2 => u (BitVec.ofNat 64 x.count)
    | 3 => u (BitVec.ofNat 64 x.launch)
    | 4 => u (s.ctx n x.owner).waveWord
    | 5 => u s.now
    | 6 => u (selfWord { core := g.core, ctx := x.owner })
    | _ => .fault s gILL

end Sys2Proof.Machine
end

