-- ==== Sys2Proof/Machine/GroupMem.lean ====
section
/-!
DEFINITION. GroupMem.lean: memory access of thread groups (R458 to R460, R478 to R482).
-/
namespace Sys2Proof.Machine

/-- Active lanes of a subgroup, ascending. -/
def activeLanes (b : Subgroup) : List Nat := (List.range 32).filter b.mask.getLsbD

/-- Whether OP[0] selects eight bytes (R458). -/
def wide (f : Fields) : Bool := immBit f 20

/-- Bytes of an access. -/
def gSize (f : Fields) : Nat := if wide f then 8 else 4

/-- The core store offset of a lane: tA + IMM20, in 32 bits (R458). -/
def GroupCtx.storeAt (x : GroupCtx) (f : Fields) (i : Nat) : Nat :=
  (x.tv f.srca.toNat i + BitVec.ofInt 32 (imm20 f)).toNat

/-- The device address of a lane: uA + zero-extended tB + IMM20 (R458). -/
def GroupCtx.cachedAt (x : GroupCtx) (f : Fields) (i : Nat) : Nat :=
  (x.uv f.srca.toNat + (x.tv f.srcb.toNat i).setWidth 64 + BitVec.ofInt 64 (imm20 f)).toNat

/-- The fault of core store accesses: misaligned, or beyond 0xF_FFFF (R458). -/
def storeFault (addrs : List Nat) (size : Nat) : Option Nat :=
  if addrs.any (· % size ≠ 0) then some gALIGN else if addrs.any (· > 0xFFFFF) then some gCSTORE else none

/-- The bytes that a lane stores from tD and, when wide, tD + 1. -/
def GroupCtx.dataOf (x : GroupCtx) (f : Fields) (i : Nat) : List Byte :=
  leBytes 4 (x.tv f.dst.toNat i).toNat ++ (if wide f then leBytes 4 (x.tv (f.dst.toNat + 1) i).toNat else [])

/-- The poison of that data, the context's taint included. -/
def GroupCtx.dataPois (x : GroupCtx) (f : Fields) (i : Nat) : Bool :=
  x.taint || x.tp f.dst.toNat i || (wide f && x.tp (f.dst.toNat + 1) i)

/-- The second register of a pair. -/
def pairOf (f : Fields) : List Nat := if wide f then [f.dst.toNat + 1] else []

/-- Operands of GLDS and GSTS: OP[3:1] and CLASS are reserved. -/
def useStore : GUse :=
  { dst := .t, a := .t, b := .unused, c := .unused, ib := false, rsv := gCC ||| gIB ||| gCLS ||| ones 23 21, lanes := true }
/-- Operands of GLDC and GSTC. -/
def useCached : GUse := { dst := .t, a := .u, b := .t, c := .unused, ib := false, rsv := gCC ||| gIB ||| ones 23 21, lanes := true }

/-- GLDS (R458, R460). -/
def execGlds (g : GIssue) (f : Fields) (s : State) : Host.Outcome State Fault Refusal :=
  .next <| s.gIssue g f useStore (pairOf f) fun g s x b =>
    let n := g.core.val
    let ls := activeLanes b
    if wide f && decide (f.dst.toNat % 2 = 1) then .fault s gREG
    else
      match storeFault (ls.map (x.storeAt f)) (gSize f) with
      | some c => .fault s c
      | none =>
        let x := x.taintIf (ls.any fun i => x.tp f.srca.toNat i)
        let (s, x) := ls.foldl (fun (acc : State × GroupCtx) i =>
          let r := acc.1.storeRead n (x.storeAt f i) (gSize f)
          let po := r.pois.any id || x.tp f.srca.toNat i
          let y := acc.2.setT f.dst.toNat i (BitVec.ofNat 32 (leNat (r.bytes.take 4))) po
          (r.s, if wide f then y.setT (f.dst.toNat + 1) i (BitVec.ofNat 32 (leNat (r.bytes.drop 4))) po else y)) (s, x)
        .next s x

/-- GSTS (R458, R460). -/
def execGsts (g : GIssue) (f : Fields) (s : State) : Host.Outcome State Fault Refusal :=
  .next <| s.gIssue g f useStore (pairOf f) fun g s x b =>
    let n := g.core.val
    let ls := activeLanes b
    if wide f && decide (f.dst.toNat % 2 = 1) then .fault s gREG
    else
      match storeFault (ls.map (x.storeAt f)) (gSize f) with
      | some c => .fault s c
      | none =>
        let x := x.taintIf (ls.any fun i => x.tp f.srca.toNat i)
        .next (ls.foldl (fun s i => s.storeWrite n (x.storeAt f i) (x.dataOf f i) (x.dataPois f i)) s) x

/-- The fault of cached accesses of lanes (R130, R131, R174, R458). -/
def State.cachedFault (s : State) (n : Nat) (addrs : List Nat) (size : Nat) (store red : Bool) : Option Nat :=
  if addrs.any (· % size ≠ 0) then some gALIGN
  else if addrs.any (fun a => !s.cachedOk n a size store red) then some gACCV
  else none

/-- Poison of a lane's address. -/
def GroupCtx.addrPois (x : GroupCtx) (f : Fields) (i : Nat) : Bool :=
  x.uPois.getLsbD f.srca.toNat || x.tp f.srcb.toNat i

/-- GLDC: one cached load per active lane (R458). -/
def execGldc (g : GIssue) (f : Fields) (s : State) : Host.Outcome State Fault Refusal :=
  .next <| s.gIssue g f useCached (pairOf f) fun g s x b =>
    let n := g.core.val
    let d := f.dst.toNat
    let ls := activeLanes b
    if wide f && decide (d % 2 = 1) then .fault s gREG
    else
      match s.cachedFault n (ls.map (x.cachedAt f)) (gSize f) false false with
      | some c => .fault (ls.foldl (fun s i => s.accvAt (x.cachedAt f i)) s) c
      | none =>
        let x := x.taintIf (ls.any (x.addrPois f))
        let s := ls.foldl (fun s i => s.pushReq (.grp n g.gctx.val) b.pc.toNat (.ld (.treg g.gctx.val i d) false (x.addrPois f i))
          (x.cachedAt f i) (gSize f) (immBits f 26 24)) s
        .next s { x with pend := x.pend ++ ls.flatMap fun i => (i * 64 + d) :: (pairOf f).map (i * 64 + ·) }

/-- GSTC: one cached store per active lane, ascending (R458). -/
def execGstc (g : GIssue) (f : Fields) (s : State) : Host.Outcome State Fault Refusal :=
  .next <| s.gIssue g f useCached (pairOf f) fun g s x b =>
    let n := g.core.val
    let ls := activeLanes b
    if wide f && decide (f.dst.toNat % 2 = 1) then .fault s gREG
    else
      match s.cachedFault n (ls.map (x.cachedAt f)) (gSize f) true false with
      | some c => .fault (ls.foldl (fun s i => s.accvAt (x.cachedAt f i)) s) c
      | none =>
        let x := x.taintIf (ls.any (x.addrPois f))
        .next (ls.foldl (fun s i => s.pushReq (.grp n g.gctx.val) b.pc.toNat (.st (x.dataOf f i) (quad (x.dataPois f i)))
          (x.cachedAt f i) (gSize f) (immBits f 26 24)) s) x

/-! Atomics (R478 to R482). -/

/-- One step of GATOM (R481): the new word and its flags. -/
def atomStep (op : Nat) (w b c : Lane) : Lane × FpFlags :=
  match op with
  | 0 => (w + b, 0#5)
  | 1 => laneOf (fpAdd fmt32 modeIeee (unpack fmt32 w.toNat) (unpack fmt32 b.toNat))
  | 2 => (if b.slt w then b else w, 0#5)
  | 3 => (if w.slt b then b else w, 0#5)
  | 4 => (w &&& b, 0#5)
  | 5 => (w ||| b, 0#5)
  | 6 => (w ^^^ b, 0#5)
  | 7 => (b, 0#5)
  | _ => (if w = b then c else w, 0#5)

/-- GATOM: the active lanes apply their operations in ascending order; each receives the word before its own step
(R458, R478 to R481). -/
def execGatom (g : GIssue) (f : Fields) (s : State) : Host.Outcome State Fault Refusal :=
  let op := immBits f 23 20
  let cas := decide (op = 8)
  .next <| s.gIssue g f { dst := .t, a := .t, b := .t, c := if cas then .t else .unused, ib := false,
                          rsv := gIB ||| gCLS ||| (if cas then 0 else gCC) } [] fun g s x b =>
    let n := g.core.val
    let ls := activeLanes b
    if op > 8 then .fault s gILL
    else
      match storeFault (ls.map (x.storeAt f)) 4 with
      | some c => .fault s c
      | none =>
        let x := x.taintIf (ls.any fun i => x.tp f.srca.toNat i)
        let (s, y) := ls.foldl (fun (acc : State × GroupCtx) i =>
          let a := x.storeAt f i
          let r := acc.1.storeRead n a 4
          let old : Lane := BitVec.ofNat 32 (leNat r.bytes)
          let rp := r.pois.any id
          let (new, fl) := atomStep op old (x.tv f.srcb.toNat i) (x.tv (srcC f) i)
          let po := x.taint || rp || x.tp f.srcb.toNat i || (cas && x.tp (srcC f) i)
          let s := (r.s.storeWrite n a (leBytes 4 new.toNat) po).raiseGroup n fl
          (s, acc.2.setT f.dst.toNat i old (rp || x.tp f.srca.toNat i))) (s, x)
        .next s y

/-- Combine the values of the lanes of one address, ascending: value, poison, saturated (R482). -/
def gredFold (ty op : Nat) : List (Lane × Bool) → Nat × Bool × Bool
  | [] => (0, false, false)
  | (v, p) :: rest => rest.foldl (fun (acc : Nat × Bool × Bool) x =>
      let (r, sat) := redElem ty op acc.1 x.1.toNat
      (r, acc.2.1 || x.2, acc.2.2 || sat)) (v.toNat, p, false)

/-- GRED: one RED per address, of the lanes' values combined in ascending order (R458, R482). -/
def execGred (g : GIssue) (f : Fields) (s : State) : Host.Outcome State Fault Refusal :=
  let op := immBits f 22 20
  let ty := if immBit f 23 then 2 else 0
  .next <| s.gIssue g f { dst := .unused, a := .u, b := .t, c := .t, ib := false, rsv := gIB } [] fun g s x b =>
    let n := g.core.val
    let ls := activeLanes b
    if op > 2 then .fault s gILL
    else
      match s.cachedFault n (ls.map (x.cachedAt f)) 4 true true with
      | some c => .fault (ls.foldl (fun s i => s.accvAt (x.cachedAt f i)) s) c
      | none =>
        let x := x.taintIf (ls.any (x.addrPois f))
        let addrs := (ls.map (x.cachedAt f)).eraseDups
        let s := addrs.foldl (fun s a =>
          let mine := (ls.filter fun i => decide (x.cachedAt f i = a)).map fun i =>
            (x.tv (srcC f) i, x.taint || x.tp (srcC f) i)
          let (v, po, sat) := gredFold ty op mine
          let r : RedOp := { off := a % 256, data := leBytes 4 v, ty := ty, op := op, pois := po, sat := sat,
                             cls := immBits f 26 24, core := n }
          s.pushReq (.grp n g.gctx.val) b.pc.toNat (.red r) a 4 (immBits f 26 24)) s
        .next s x

end Sys2Proof.Machine
end

