-- ==== Sys2Proof/Machine/HostCmd.lean ====
section
/-!
DEFINITION. HostCmd.lean: the host commands of R516 and R774, taken from the command log (R130, R132, R133, R143, R146, R149,
R252, R266 to R270, R286, R318 to R321, R351, R513 to R530, R541 to R544, R644, R650, R662, R677, R700, R709, R710, R744 to
R757, R772 to R776).
-/
namespace Sys2Proof.Machine

/-! Starting a command (R513, R514, R516, R542, R650). -/

/-- The first logged entry of a command that is not completed. -/
def State.entryOf (s : State) (c : HostCmd) : Option LogEntry := s.log.find? fun e => decide (e.cmd = c) && e.isOpen

/-- Whether it is a command's turn: earlier commands of its ring have started, or with FENCE have completed (R513, R514). -/
def State.turnOf (s : State) (c : HostCmd) : Bool :=
  let before := (s.log.takeWhile fun e => !(decide (e.cmd = c) && e.isOpen)).filter fun e => decide (e.cmd.sq = c.sq)
  before.all fun e => e.begun && !(c.fence && e.isOpen)

/-- The command is in progress. -/
def State.running (s : State) (c : HostCmd) : State :=
  { s with log := updateFirst (fun e => decide (e.cmd = c) && e.isOpen) (fun e => { e with stage := .running }) s.log }

/-- Whether words 1 to 7 hold nothing outside the masks of their operands, and the reserved fields of word 0 are zero
(R513, R516). -/
def cmdFits (c : HostCmd) (masks : List Nat) : Bool :=
  decide (c.rsv0 = 0#31) && ([c.w1, c.w2, c.w3, c.w4, c.w5, c.w6, c.w7].zipIdx.all fun x =>
    decide (x.1.toNat &&& (masks.getD x.2 0) = x.1.toNat))

/-- Commands that a port without the lease may give (R542). -/
def freeToAll (opc : Nat) : Bool := opc = 0x0A || opc = 0x0D || opc = 0x0F
/-- Commands that still run after the device has stopped its waves (R650). -/
def runsStopped (opc : Nat) : Bool := opc = 0x02 || opc = 0x0A || opc = 0x0D || opc = 0x0F

/-- A host command takes its turn: a port without the lease is refused, then a reserved field, then a stopped device; otherwise
the body runs with the command's entry. A command in progress goes on (R514, R516, R542, R650). -/
def State.hostCmd (s : State) (c : HostCmd) (opc : Nat) (masks : List Nat) (body : LogEntry → State → State) : State :=
  match s.entryOf c with
  | none => s
  | some e =>
    if !s.live || decide (c.opc.toNat ≠ opc) then s
    else if e.begun then body e s
    else if !s.turnOf c then s
    else if !freeToAll opc && decide (s.holder ≠ some e.port) then s.ends c 2 0#64
    else if !cmdFits c masks then s.ends c 1 0#64
    else if s.stopped && !runsStopped opc then s.ends c 3 0#64
    else body e s



/-! LOAD (R519, R252, R644, R677, R744 to R750). -/

/-- The positions that have a station or data of an image. -/
def imagePositions (g : Image) : List Nat :=
  g.programs.map (·.pos.val) ++ g.runs.map (·.pos.val) ++ g.kvSlots.map (·.1.val)

/-- Whether a run is covered by a record whose copies lie in different stacks or channels (R143, R146). -/
def BackRec.holdsRun (b : BackRec) (off len : Nat) : Bool :=
  decide (512 * b.foff ≤ off) && decide (off + len ≤ 512 * (b.foff + b.flen)) &&
    b.alt.any fun a => inDram b.baddr && inDram a && decide (ctlOf a ≠ ctlOf b.baddr)

/-- The records of a position once an image's BACK fills are done: one that fills the range of an old record replaces it (R150). -/
def State.recordsWith (s : State) (g : Image) (n : Nat) : List BackRec :=
  let fills := g.runs.filter fun r => decide (r.pos.val = n)
  (s.backsOf n).filter (fun b => !fills.any fun r => decide (r.foff = b.foff) && decide (r.len = b.flen)) ++
    fills.map fun r => { foff := r.foff, flen := r.len, baddr := r.src, alt := r.alt }

/-- Device memory that an image declares: base and length. -/
def imageMemory (g : Image) : List (Nat × Nat) :=
  g.ranges ++ g.buffers ++ [(g.poolBase.toNat, 16 * g.poolIds.toNat), (g.hpoolBase.toNat, 16384 * g.hpoolPages.toNat),
    (g.mapBase, 255 * g.mapStride + g.layers * g.groups * 0x10300)] ++ g.runs.map (fun r => (r.src, 512 * r.len)) ++
    g.runs.filterMap (fun r => r.alt.map fun a => (a, 512 * r.len)) ++
    g.streams.filterMap fun d => d.spill.map fun a => (a, 64 * d.cap)

/-- Whether two ranges meet. -/
def rangesMeet (x y : Nat × Nat) : Bool := decide (x.1 < y.1 + y.2) && decide (y.1 < x.1 + x.2)

/-- The range of R677. -/
def ownRange : Nat × Nat := (0x005F80000000, 0x80000000)

/-- The egress buffers and stations of a manifest obey R748. -/
def egressOk (g : Image) : Bool :=
  let bufs := g.buffers.zipIdx
  (g.buffers.all fun b => decide (b.1 + b.2 ≤ 0x005F80000000)) &&
    (bufs.all fun x => bufs.all fun y => decide (x.2 = y.2) || !rangesMeet x.1 y.1) &&
    g.egressPos.all fun x => g.programs.any fun p => decide (p.pos = x.1) && !p.egress.isEmpty

/-- Whether the image loads in sealed mode (R746, R747). -/
def loadsSealed (g : Image) : Bool := g.sealFlag || g.enc

/-- Whether the device may enter sealed mode (R270, R749). -/
def State.canSeal (s : State) : Bool :=
  ([Port.a, Port.b].all fun p => !s.portUp p || s.bit offSEAL (ideBit p)) &&
    (List.range 32).all fun k => !s.chunkLent k && !s.lendFilling k

/-- The chunks that an image declares. -/
def chunkList (g : Image) : List Nat := (List.range 32).filter fun k => g.chunks.getLsbD k

/-- The sections of an image in the order of R285. -/
def allSections : List ImageSection := [.header, .code, .runs, .streams, .pipes, .kernels, .vocab, .manifest, .signature]

/-- A stream's receive buffer has 2 to 16,384 flits, and lies in the core store where it lies there (R292). -/
def streamFits (d : StreamDef) : Bool :=
  decide (2 ≤ d.cap) && decide (d.cap ≤ 16384) &&
    (d.toPipe.isSome || d.spill.isSome || (decide (d.bufAt % 64 = 0) && decide (d.bufAt + 64 * d.cap ≤ 0x100000)))

/-- Why a LOAD fails before it writes anything (R519): a detail code. -/
def State.loadDetail (s : State) (g : Image) : Option Nat :=
  if s.hasImage then some 8
  else if !g.wellFormed || decide (g.sections ≠ allSections) || !g.streams.all streamFits then some 3
  else if !g.crcOk then some 9
  else if !g.sigOk then some 1
  else if g.enc && !g.decryptOk then some 2
  else if !g.manifestOk || !egressOk g then some 3
  else if g.minFprop.any (fun x => decide (s.fprop x.1.val < x.2)) then some 4
  else if (imagePositions g).any (fun n => isK12 n || !s.hasPos n) then some 5
  else if g.tileRuns.any (fun t => !(s.recordsWith g t.1.val).any fun b => b.holdsRun t.2.1 t.2.2) then some 6
  else if (chunkList g).any (fun k => s.chunkLent k || s.lendFilling k) then some 7
  else if (chunkList g).any (fun k => decide (s.chunkLen k = 0)) then some 13
  else if g.ckptBytes.any (fun b => decide (0x2000000 < b * g.maxWaves)) then some 10
  else if (imageMemory g).any (fun r => decide (0 < r.2) && rangesMeet r ownRange) then some 12
  else if loadsSealed g && !s.canSeal then some 11
  else none

/-- The BACK fill of a run as a descriptor, class 4 (R150, R254, R271, R285). -/
def fillDesc (r : RunFill) : Desc :=
  let w0 := 1 + 4 * 2 ^ 8 + 2 ^ 11 + flag r.alt.isSome * 2 ^ 14 + (2 * r.len - 1) * 2 ^ 32
  Desc.post { w0 := BitVec.ofNat 64 w0, w1 := BitVec.ofNat 64 r.src, w2 := BitVec.ofNat 64 (fieldKey r.pos.val (512 * r.foff)),
              w3 := BitVec.ofNat 64 (r.alt.getD 0), w4 := 0#64, w5 := 0#64, w6 := 0#64, w7 := 0#64 } none

/-- Carry out the BACK fills of an image; none when one is refused or loses a beat at both sources (R150, R256). -/
def State.fillRuns (s : State) : List RunFill → Option State
  | [] => some s
  | r :: rest =>
    let d := fillDesc r
    if s.descStatus d ≠ 0 then none
    else
      let (st, s) := s.backCopy (moverFor r.pos.val) d r.pos.val (512 * r.foff)
      if st ≠ 0 then none else (s.ownDone (moverFor r.pos.val)).fillRuns rest

/-- Programs, kernels and pipeline configurations are written to the core stores, and every core starts at its entry (R285, R380, R449). -/
def State.loadPrograms (s : State) (g : Image) : State :=
  let s := g.programs.foldl (fun s p => s.storeWrite p.pos.val p.codeAt p.code false) s
  let s := g.kernels.foldl (fun s k => k.cores.foldl (fun s n => s.storeWrite n.val k.entry.toNat k.code false) s) s
  let s := g.pipes.foldl (fun s x => s.storeWrite x.core.val x.offset (x.words.flatMap fun w => leBytes 8 w.toNat) false) s
  g.programs.foldl (fun s p => s.loadCore p.pos.val) { s with cores := [] }

/-- Store a digest in eight registers. -/
def State.putDigest (s : State) (off : Nat) (ws : List Word) : State :=
  (List.range 8).foldl (fun s j => s.setReg (off + 8 * j) (ws.getD j 0#64)) s

/-- The registers that a load sets: the pools, the budget, the wave status, the hints, the measurements (R318, R319, R321,
R375, R710, R759). -/
def State.loadRegs (s : State) (g : Image) : State :=
  let s := s.setReg (offATT + 0x10) (BitVec.ofNat 64 g.poolBase.toNat &&& maskOf 47 16)
  let s := s.setReg (offATT + 0x18) (BitVec.ofNat 64 g.poolIds.toNat)
  let s := s.setReg (offATT + 0x20) (BitVec.ofNat 64 g.hpoolBase.toNat &&& maskOf 47 14)
  let s := s.setReg (offATT + 0x28) (BitVec.ofNat 64 g.hpoolPages.toNat)
  let differs := decide (g.gmMeas ≠ s.grain.meas)
  let s := (s.setReg offWPER (BitVec.ofNat 64 (g.budget.toNat * 2 ^ 32))).putBit offWSTAT 50 g.budWarn
  let s := s.putBit offWSTAT 51 differs
  let s := ((s.setField (offPWR + 0x28) 5 0 0).setField (offPWR + 0x28) 13 8 0)
  let s := (s.putDigest (offSEAL + 0x100) g.ownerDigest).putDigest (offSEAL + 0x140) g.digest
  let s := { s with periods := [] }
  if differs then { s with measure := s.measure ++ [(0#64, 16, true)] }
  else { s.clearBit offWSTAT 49 with degCl := [] }

/-- Every page ID and every slot is free, and the page records say so (R351). -/
def State.loadPool (s : State) (g : Image) : State :=
  let s := s.zeroRange (s.field (offATT + 0x10) 47 16 * 2 ^ 16) (16 * g.poolIds.toNat)
  { s with pageIds := List.range g.poolIds.toNat, slots := (g.kvSlots.map fun x => (x.1.val, x.2)).foldl slotInsert [],
           prefixes := [], stuck := 0, hpages := [], freeNext := [], slotNext := [], pipes := [] }

/-- Sealed mode begins: HDM windows close, and only what the manifest names may leave the device (R750, R751, R753). -/
def State.enterSeal (s : State) (g : Image) : State :=
  let s := (s.setBit offSEAL 0).putBit offSEAL 1 g.enc
  State.refreshTotals { s with trust := { s.trust with windowsClosed := true, bufs := g.buffers, peers := g.peers,
                                                       egress := g.egressPos } }

/-- A placement image is loaded. -/
def State.loadImage (s : State) (g : Image) : State :=
  let s := if loadsSealed g then s.enterSeal g else s
  let s : State := { s with image := some g, streams := [] }
  ((s.loadRegs g).loadPool g).loadPrograms g

/-- LOAD: it waits until every declared chunk is online, until the sources of its fills are and may be read, and until no split change
is in progress (R132, R179, R251, R252, R271, R276, R519). -/
def execHostLoad (c : HostCmd) (img : Image) (readOk : Bool) (s : State) : Host.Outcome State Fault Refusal :=
  .next <| s.hostCmd c 0x01 [anyWord, anyWord] fun _ s =>
    if !readOk then s.ends c 11 0#64
    else
      match s.loadDetail img with
      | some d => s.ends c 5 (BitVec.ofNat 64 d)
      | none =>
        let late (a len : Nat) : Bool := decide (s.moverAccess a len = .waits)
        let go (r : RunFill) (a : Nat) : Bool := s.mayRead (moverOf (moverFor r.pos.val)) 4 a (512 * r.len)
        if (chunkList img).any (fun k => !s.chunkOnline k) || !s.splits.isEmpty ||
            img.runs.any (fun r => !go r r.src || !r.alt.all (go r)) || img.runs.any (fun r => late r.src (512 * r.len) || r.alt.any fun a => late a (512 * r.len)) then s.running c
        else
          match s.fillRuns img.runs with
          | none => s.ends c 5 6#64
          | some t => (t.loadImage img).ends c 0 0#64

/-! UNLOAD (R318, R351, R520, R757). -/

/-- The loaded image goes: cores return to their reset state, no page survives, and a stop ends. -/
def State.dropImage (s : State) : State :=
  let s := ((s.clearBit offERR 5).setField offWSTAT 51 49 0).setReg offWPER 0#64
  let s := (s.putDigest (offSEAL + 0x100) []).putDigest (offSEAL + 0x140) []
  { s with image := none, cores := [], streams := [], pipes := [], reqs := s.reqs.filter fun r => decide (r.who = .other),
           pageIds := [], slots := [], freeNext := [], slotNext := [], hpages := [], stuck := 0, prefixes := [],
           waves := [], regen := [], regenPos := [], regenBad := [], resume := [], periods := [], measure := [], degCl := [],
           stopped := false }

/-- What a sealed UNLOAD fills with zeros: fields, image shadow, HBM, declared chunks, and the checkpoints, histories and
records of the system areas; no cached line is left. -/
def State.zeroSealed (s : State) (g : Image) : State :=
  let m := s.mem.erase (fieldKey 0 0) (fieldKey 624 0)
  let m := (m.erase 0 0x006000000000).erase (sysKey 0 0) (sysKey 4 0)
  let m := (chunkList g).foldl (fun m k => m.erase (0x010000000000 + k * 2 ^ 38) (0x010000000000 + (k + 1) * 2 ^ 38)) m
  { s with mem := m, cmem := Store.empty, lines := [], evicts := [], fills := [], ctls := [], backs := [], dumpGone := true }

/-- Sealed mode ends and the windows open again. -/
def State.leaveSeal (s : State) : State :=
  let s := (s.clearBit offSEAL 0).clearBit offSEAL 1
  { s with trust := { s.trust with windowsClosed := false, bufs := [], peers := [], egress := [] } }

/-- The end of an UNLOAD, once no sequence is left. -/
def State.unloaded (s : State) (c : HostCmd) : State :=
  let s :=
    if s.isSealed then
      match s.image with
      | some g => ((s.dropImage).zeroSealed g).leaveSeal
      | none => s
    else s.dropImage
  s.ends c 0 0#64

/-- An UNLOAD goes on once no wave is in flight, or the waves have been stopped: every sequence ends with CLOSED, and when the
END records are written the image goes. -/
def State.unloading (s : State) (c : HostCmd) : State :=
  let s := { s with trust := { s.trust with bufs := [] } }
  if !s.waves.isEmpty && !s.stopped then s
  else
    let s : State := { s with waves := [] }
    let s := (s.seqs.map (·.1)).foldl (fun s i => s.endSeq i 4) s
    let s := s.boundary
    if s.seqs.isEmpty then s.unloaded c else s

/-- UNLOAD (R520, R757). -/
def execHostUnload (c : HostCmd) (s : State) : Host.Outcome State Fault Refusal :=
  .next <| s.hostCmd c 0x02 [1] fun e s =>
    if e.begun then s.unloading c
    else if !s.hasImage then s.ends c 4 0#64
    else if !bitOf c.w1 0 && !s.openSeqs.isEmpty then s.ends c 3 0#64
    else (s.running c).unloading c

/-! Sequences (R517, R521 to R525, R530). -/

/-- OPEN (R521): it takes effect at the next wave boundary, at once where no wave is in flight (R304). A sequence number whose last
sequence has ended is open again only once that one is gone. -/
def execHostOpen (c : HostCmd) (s : State) : Host.Outcome State Fault Refusal :=
  .next <| s.hostCmd c 0x03 openMasks fun e s =>
    if s.waves.isEmpty then s.openNow c
    else if e.begun then s
    else
      match s.openCheck c with
      | some st => s.ends c st 0#64
      | none => s.running c

/-- Refuse a sequence command without an image or an open sequence (R517, R521). -/
def State.withSeq (s : State) (c : HostCmd) (f : Sequence → State → State) : State :=
  if !s.hasImage then s.ends c 4 0#64
  else
    match s.openSeq? c.seq.toNat with
    | none => s.ends c 7 0#64
    | some q => f q s

/-- CLOSE: it takes effect at the next wave boundary and completes after the END record (R524). -/
def execHostClose (c : HostCmd) (s : State) : Host.Outcome State Fault Refusal :=
  .next <| s.hostCmd c 0x04 [] fun e s =>
    if e.begun then s
    else s.withSeq c fun q s =>
      if q.closing.isSome then s
      else State.running (s.setSeq c.seq.toNat { q with closing := some (c.sq.val, c.cid.toNat) }) c

/-- Token numbers cut or padded to a buffer of n. -/
def padTokens (n : Nat) (l : List (BitVec 32)) : List (BitVec 32) := (l ++ List.replicate n 0#32).take n

/-- Tokens of a sequence with those of its FEEDs that wait. -/
def Sequence.fedLen (q : Sequence) : Nat := q.hist.length + total (q.feeds.map fun f => f.tokens.length)

/-- FEED: the tokens are appended at the next wave boundary. In byte mode the buffer is read as UTF-8, and its tokens are
what the tokeniser of the image makes of it (R359, R523, R530). -/
def execHostFeed (c : HostCmd) (data : List Byte) (readOk : Bool) (tokens : List (BitVec 32)) (s : State) :
    Host.Outcome State Fault Refusal :=
  let len := fieldOf c.w2 23 0
  let bytes := bitOf c.w2 32
  let last := bitOf c.w2 33
  .next <| s.hostCmd c 0x05 [anyWord, ones 23 0 ||| ones 33 32] fun e s =>
    if e.begun then s
    else if !bytes && decide (len % 4 ≠ 0) then s.ends c 1 0#64
    else s.withSeq c fun q s =>
      if !readOk then s.ends c 11 0#64
      else
        let vocab := s.image.elim 0 (·.vocab)
        let u := utf8Of (q.inHeld ++ padTo len data)
        let closes := last && !u.held.isEmpty
        let toks :=
          if bytes then Config.tokenise (s.image.elim [] (·.tokTable)) (u.chars.flatten ++ if closes then replChar else [])
          else padTokens (len / 4) tokens
        let bad (t : BitVec 32) : Bool := decide (vocab ≤ t.toNat)
        if toks.any bad then s.ends c 1 0#64
        else if 1048576 < q.fedLen + toks.length then s.ends c 6 0#64
        else
          let repl := if bytes then u.repl + flag closes else 0
          let f : FeedRec := { tokens := toks, last := last, host := (c.sq.val, c.cid.toNat),
                               result := BitVec.ofNat 64 (toks.length + repl * 2 ^ 32) }
          let held := if bytes then (if last then [] else u.held) else q.inHeld
          State.running (s.setSeq c.seq.toNat { q with feeds := q.feeds ++ [f], inHeld := held }) c

/-- The lowest free prefix number (R525). -/
def State.freePrefix (s : State) : Option Nat := (List.range 1024).find? fun k => (tabGet? s.prefixes k).isNone

/-- SAVE: it waits until the pages of the tokens it names are written (R525). -/
def execHostSave (c : HostCmd) (s : State) : Host.Outcome State Fault Refusal :=
  let i := c.seq.toNat
  let n := fieldOf c.w1 20 0
  .next <| s.hostCmd c 0x0B [ones 20 0] fun _ s => s.withSeq c fun q s =>
    if n = 0 ∨ q.hist.length < n then s.ends c 1 0#64
    else
      match s.freePrefix with
      | none => s.ends c 9 0#64
      | some k =>
        if q.share.isSome || decide (q.filled < n) ||
            s.waves.any (fun w => w.lanes.any fun x => decide (x.2.1 = i) && decide (x.2.2 < n)) then s
        else
          let maps := s.prefixMaps i n
          let s := maps.foldl (fun s x => s.addRef x.2) s
          State.ends { s with prefixes := tabSet s.prefixes k { tokens := q.hist.take n, maps := maps } } c 0 (BitVec.ofNat 64 k)

/-- DROP releases the references of a saved prefix (R525). -/
def execHostDrop (c : HostCmd) (s : State) : Host.Outcome State Fault Refusal :=
  let k := fieldOf c.w1 9 0
  .next <| s.hostCmd c 0x0C [ones 9 0] fun _ s =>
    if !s.hasImage then s.ends c 4 0#64
    else
      match tabGet? s.prefixes k with
      | none => s.ends c 1 0#64
      | some x =>
        if s.seqs.any fun y => decide (y.2.share = some k) then s
        else
          let s := x.maps.foldl (fun s y => s.unref y.2) s
          State.ends { s with prefixes := tabErase s.prefixes k } c 0 0#64

/-! HINT, CAP, SETTIME, SYNC and LEASE. -/

/-- HINT (R516, R709). -/
def execHostHint (c : HostCmd) (s : State) : Host.Outcome State Fault Refusal :=
  .next <| s.hostCmd c 0x06 [ones 3 0 ||| ones 63 32] fun _ s =>
    let kind := fieldOf c.w1 3 0
    if 2 < kind then s.ends c 1 0#64 else (s.orderHint kind (BitVec.ofNat 32 (fieldOf c.w1 63 32))).ends c 0 0#64

/-- CAP: any value but 0 and 900 to 1,950 is invalid; the life record is written (R700, R701, R779). -/
def execHostCap (c : HostCmd) (s : State) : Host.Outcome State Fault Refusal :=
  .next <| s.hostCmd c 0x11 [0xFFFF] fun _ s =>
    let w := fieldOf c.w1 15 0
    if !capOk w then s.ends c 1 0#64 else ((s.orderCap false w).writeRecord 2).ends c 0 0#64

/-- SETTIME: the pair of host time and device time (R776, R779). -/
def execHostSettime (c : HostCmd) (s : State) : Host.Outcome State Fault Refusal :=
  .next <| s.hostCmd c 0x12 [anyWord] fun _ s =>
    let s := (s.setReg (offTIME + 0x10) c.w1).setReg (offTIME + 0x18) s.now
    (((s.setLife 97 c.w1.toNat).setLife 98 s.time).writeRecord 2).ends c 0 0#64

/-- SYNC: it completes once every earlier command of its ring has (R516). -/
def execHostSync (c : HostCmd) (s : State) : Host.Outcome State Fault Refusal :=
  .next <| s.hostCmd c 0x0F [] fun e s => if e.begun then s else (s.running c).settleCmds

/-- A LEASE command with one OP: the body answers the status. -/
def State.leaseCmd (s : State) (c : HostCmd) (op : Nat) (body : Port → State → Nat × State) : State :=
  if fieldOf c.w1 1 0 ≠ op then s
  else s.hostCmd c 0x0A [3] fun e s =>
    let (st, s) := body e.port s
    s.ends c st (s.reg offHQ)

/-- LEASE QUERY (R516). -/
def execHostLeaseQuery (c : HostCmd) (s : State) : Host.Outcome State Fault Refusal :=
  .next (s.leaseCmd c 0 fun _ s => (0, s))

/-- LEASE TAKE succeeds only while the lease is free (R543). -/
def execHostLeaseTake (c : HostCmd) (s : State) : Host.Outcome State Fault Refusal :=
  .next (s.leaseCmd c 1 fun p s => if s.holder.isNone then (0, s.moveLease (portCode p)) else (2, s))

/-- LEASE RELEASE from the holder frees the lease (R543). -/
def execHostLeaseRelease (c : HostCmd) (s : State) : Host.Outcome State Fault Refusal :=
  .next (s.leaseCmd c 2 fun p s => if s.holder = some p then (0, s.moveLease 0) else (2, s))

/-- LEASE RENEW from the holder restarts the timeout, as every command of the holder does (R543). -/
def execHostLeaseRenew (c : HostCmd) (s : State) : Host.Outcome State Fault Refusal :=
  .next (s.leaseCmd c 3 fun p s => if s.holder = some p then (0, s) else (2, s))

/-! TIER, LEND and RECLAIM (R266 to R270, R526, R527). -/

/-- TIER: descriptors for queue 0 of a mover (R527, R752). -/
def execHostTier (c : HostCmd) (descs : List DescWords) (readOk : Bool) (s : State) : Host.Outcome State Fault Refusal :=
  let n := fieldOf c.w2 5 0 + 1
  let m := Fin.ofNat 16 (fieldOf c.w2 11 8)
  .next <| s.hostCmd c 0x07 [anyWord, ones 5 0 ||| ones 11 8] fun e s =>
    if e.begun then s
    else if fieldOf c.w1 5 0 ≠ 0 then s.ends c 1 0#64
    else if s.isSealed then s.ends c 12 0#64
    else if !readOk || decide (descs.length < n) then s.ends c 11 0#64
    else
      let x := s.mover m.val
      let s := s.setMover m.val { x with
        waiting := x.waiting ++ (descs.take n).map fun w => Desc.post w (some (c.sq.val, c.cid.toNat)) }
      (s.running c).drainWaiting m

/-- The first address of a chunk. -/
def chunkBase (k : Nat) : Nat := 0x010000000000 + k * 2 ^ 38

/-- Whether a chunk holds a backing copy (R266). -/
def State.chunkBacks (s : State) (k : Nat) : Bool :=
  s.backs.any fun x =>
    let meets (a : Nat) : Bool := decide (a < chunkBase (k + 1)) && decide (chunkBase k < a + 512 * x.2.flen)
    meets x.2.baddr || x.2.alt.any meets

/-- The zero fill of a chunk for a command begins. -/
def State.startFill (s : State) (c : HostCmd) (k purpose : Nat) : State :=
  let s := if s.fillQ.any (fun x => decide (x.1 / 2 = k / 2)) then s else s.fillStarts (k / 2)
  let s := { s with fillQ := s.fillQ ++ [(k, purpose, some (c.sq.val, c.cid.toNat))] }
  ((s.setField (offCh (k / 2)) 10 8 2).setField (offCh (k / 2)) 7 0 0).running c

/-- Whether accesses to a chunk are still under way in the slices or at its controller (R267, R269). -/
def State.chunkBusy (s : State) (k : Nat) : Bool :=
  let inK (a : Nat) : Bool := decide (chunkBase k ≤ a) && decide (a < chunkBase (k + 1))
  let t := s.ctl (8 + k / 2)
  s.lineBusy (chunkBase k / 256) (chunkBase (k + 1) / 256) || t.reads.any (fun r => inK r.pa) || t.writes.any fun w => inK w.pa

/-- LEND: refused for a chunk that the image declares, that holds a backing copy or is not online, and while sealed; once the accesses
under way in it have ended, the chunk's cached lines go and it is filled (R266, R267, R270). -/
def execHostLend (c : HostCmd) (s : State) : Host.Outcome State Fault Refusal :=
  let k := fieldOf c.w1 4 0
  .next <| s.hostCmd c 0x08 [0x1F] fun e s =>
    if e.begun then s
    else if s.isSealed || !s.chunkOnline k || s.chunkBacks k || s.image.any (fun g => g.chunks.getLsbD k) then s.ends c 13 0#64
    else if s.chunkBusy k then s
    else ((s.dropRange (chunkBase k) (2 ^ 38)).clearBit (offDDR + 0x800) k).startFill c k 1

/-- RECLAIM of a lent chunk: it is withdrawn from the host while it is filled (R269, R270, R752). -/
def execHostReclaim (c : HostCmd) (s : State) : Host.Outcome State Fault Refusal :=
  let k := fieldOf c.w1 4 0
  .next <| s.hostCmd c 0x09 [0x1F] fun e s =>
    if e.begun then s
    else if s.isSealed || !s.chunkLent k || s.fillQ.any (fun x => decide (x.1 = k)) then s.ends c 13 0#64
    else s.startFill c k 2

/-! XREAD and XWRITE (R130, R149, R236, R251, R528, R638). -/

/-- Where an XREAD or XWRITE acts. -/
inductive XTarget where
  | store (n off : Nat)
  | field (n off : Nat)
  | mem (pa : Nat)
  deriving DecidableEq, Repr

/-- The target and length of an XREAD or XWRITE; none where an operand is out of range. -/
def xTarget (c : HostCmd) : Option (XTarget × Nat) :=
  let len := c.w3.toNat
  let pa := fieldOf c.w1 47 0
  let off := fieldOf c.w1 19 0
  let n := fieldOf c.w1 57 48
  let whole := decide (c.w1.toNat % 64 = 0) && decide (c.w2.toNat % 64 = 0) && decide (len % 64 = 0) && decide (len ≤ 2 ^ 24)
  if !whole then none
  else if bitOf c.w1 63 then
    if fieldOf c.w1 62 58 ≠ 0 ∨ fieldOf c.w1 47 20 ≠ 0 ∨ 624 ≤ n ∨ 0x100000 < off + len then none else some (.store n off, len)
  else if fieldOf c.w1 62 48 ≠ 0 then none
  else
    match fieldAt pa with
    | some (m, o) => some (.field m o, len)
    | none => some (.mem pa, len)

/-- How the device answers the access. -/
def State.xAccess (s : State) (t : XTarget) (len : Nat) : Access :=
  match t with
  | .store _ _ => .ok
  | .field n off =>
    if len = 0 then .ok
    else if s.moverAccess (fieldKey n off) len = .ok ∧ s.restoreWaits n off len then .waits
    else s.moverAccess (fieldKey n off) len
  | .mem pa => if len = 0 then .ok else if oneTarget pa len then rangeAccess s.anyAccess pa len else .refused

/-- A refused access leaves an error record, and at a field ACCV (R130). -/
def State.xRefused (s : State) (c : HostCmd) (t : XTarget) : State :=
  let s := match t with
    | .field n _ => s.accv n
    | _ => s
  (s.errRec 11 0 0#64 (fieldOf c.w1 47 0)).ends c 10 0#64

/-- Read memory through the home slices, 64 bytes at a time, class 0: bytes, and the poison of each flit (R217). -/
def State.cohReadMany (s : State) (pa : Nat) : Nat → List Byte × List Bool × State
  | 0 => ([], [], s)
  | k + 1 =>
    let (bs, po, s) := s.cohLoad hostOf 0 pa 64 false false
    let (rest, bad, s) := s.cohReadMany (pa + 64) k
    (bs ++ rest, po.any id :: bad, s)

/-- Write memory through the home slices, 64 bytes at a time, class 0. -/
def State.cohWriteMany (s : State) (pa : Nat) (bs : List Byte) : Nat → State
  | 0 => s
  | k + 1 => (s.cohStore hostOf 0 pa (bs.take 64) false false).cohWriteMany (pa + 64) (bs.drop 64) k

/-- Whether an access of the host to a range of memory may be performed now (R134, R271, R276). -/
def State.hostGo (s : State) (t : XTarget) (len : Nat) (store : Bool) : Bool :=
  match t with
  | .mem pa => (List.range (len / 64)).all fun i => s.cachedGo hostOf 0 (pa + 64 * i) 64 store false
  | _ => true

/-- What an XREAD reads: bytes, and the poison of each flit. -/
def State.xRead (s : State) (t : XTarget) (len : Nat) : List Byte × List Bool × State :=
  match t with
  | .store n off => let r := s.storeRead n off len; (r.bytes, r.pois, r.s)
  | .field n off => let r := s.fieldReadVia (s.downGroups n) n off len; (r.bytes, r.pois, r.s)
  | .mem pa => s.cohReadMany pa (len / 64)

/-- Write the flits of a read that are not poisoned to host memory (R638). -/
def State.hostPut (s : State) (a : Nat) (bs : List Byte) : List Bool → State
  | [] => s
  | p :: rest => (if p then s else { s with host := memWrite s.host a (bs.take 64) }).hostPut (a + 64) (bs.drop 64) rest

/-- XREAD: poisoned data never reaches host memory (R638); the command completes with OK all the same, since ACCESS is for refused
accesses and a single fault shows the host no failed command (R5, R517, notes/assumptions/86.md). -/
def execHostXread (c : HostCmd) (s : State) : Host.Outcome State Fault Refusal :=
  .next <| s.hostCmd c 0x0D [anyWord, anyWord, anyWord] fun _ s =>
    match xTarget c with
    | none => s.ends c 1 0#64
    | some (t, len) =>
      if s.isSealed then s.ends c 12 0#64
      else
        match s.xAccess t len with
        | .refused => s.xRefused c t
        | .waits => s.running c
        | .ok =>
          if !s.hostGo t len false then s.running c
          else
            let (bs, bad, s) := s.xRead t len
            (s.hostPut c.w2.toNat bs bad).ends c 0 0#64

/-- XWRITE (R149, R528). -/
def execHostXwrite (c : HostCmd) (data : List Byte) (readOk : Bool) (s : State) : Host.Outcome State Fault Refusal :=
  .next <| s.hostCmd c 0x0E [anyWord, anyWord, anyWord] fun _ s =>
    match xTarget c with
    | none => s.ends c 1 0#64
    | some (t, len) =>
      if s.isSealed then s.ends c 12 0#64
      else if !readOk then s.ends c 11 0#64
      else
        let bs := padTo len data
        match s.xAccess t len with
        | .refused => s.xRefused c t
        | .waits => s.running c
        | .ok =>
          if !s.hostGo t len true then s.running c
          else
          match t with
          | .store n off => (s.storeWrite n off bs false).ends c 0 0#64
          | .mem pa => (s.cohWriteMany pa bs (len / 64)).ends c 0 0#64
          | .field n off =>
            if s.backedIn n off len then ((s.bwr n).errRec 11 0 0#64 (fieldOf c.w1 47 0)).ends c 10 0#64
            else (s.fieldWrite n off bs false).ends c 0 0#64

/-! SELFTEST (R529, R662). -/

/-- The test: slices are written back; what fails is mapped out, and the number of units is the result. -/
def State.selftest (s : State) (failed : List Nat) (pipes : List Nat) (links : List (Fin 4 × Fin 17)) (bonds : List (Nat × Nat)) :
    Nat × State :=
  let s := s.cleanSlices fun _ => true
  let cores := failed.filter fun n => s.hasPos n
  let outs := pipes.filter fun q => !s.pipeOut q
  let cut := links.filter fun x => !(s.meshOut x.1).getLsbD x.2.val
  let lost := bonds.filter fun b => decide (bondCode (tabGetD s.grain.bonds b.1 0) < 4) && decide (bondCode b.2 = 4)
  let s := cores.foldl (fun s n => s.coreFails n false) s
  let s := outs.foldl State.pipeLost s
  let s := cut.foldl (fun s x => s.mapLink x.1 x.2.val) s
  let s := bonds.foldl (fun s b => s.testBond b.1 b.2) s
  (cores.length + outs.length + cut.length + lost.length, s)

/-- SELFTEST: BUSY with a sequence open unless DRAIN is 1; it runs once no wave is in flight. -/
def execHostSelftest (c : HostCmd) (failed : List (Fin 624)) (pipesFailed : List (Fin 96)) (links : List (Fin 4 × Fin 17))
    (bonds : List (Nat × Nat)) (s : State) : Host.Outcome State Fault Refusal :=
  .next <| s.hostCmd c 0x10 [1] fun e s =>
    if !e.begun && !bitOf c.w1 0 && !s.openSeqs.isEmpty then s.ends c 3 0#64
    else if !s.waves.isEmpty then s.running c
    else
      let (n, s) := s.selftest (failed.map (·.val)) (pipesFailed.map (·.val)) links bonds
      s.ends c 0 (BitVec.ofNat 64 n)

/-! DUMPREAD (R754, R771 to R774). -/

/-- A byte of the dump region: the header of an unsealed dump is in memory, and bytes 540 to 4,095 of a sealed dump are zero;
the other bytes of a dump have a layout or a key that the spec does not give (notes/assumptions/2.md). -/
def State.dumpAt (s : State) (off : Nat) : Byte :=
  let here := memByte s.mem.bytes (dumpBase + off)
  let plain := decide (memByte s.mem.bytes dumpBase ≠ 0#8)
  if s.dumpGone then 0#8
  else if plain then (if off < 128 then here else Config.dumpByte s.dumps off)
  else if 540 ≤ off ∧ off < 4096 then 0#8
  else Config.dumpByte s.dumps off

/-- DUMPREAD (R774). -/
def execHostDumpread (c : HostCmd) (s : State) : Host.Outcome State Fault Refusal :=
  let off := c.w1.toNat
  let len := c.w3.toNat
  .next <| s.hostCmd c 0x13 [anyWord, anyWord, anyWord] fun _ s =>
    if !s.bit offDUMP 63 || decide (off % 64 ≠ 0) || decide (c.w2.toNat % 64 ≠ 0) || decide (len % 64 ≠ 0) ||
        decide (2 ^ 30 < off + len) then s.ends c 1 0#64
    else State.ends { s with host := memWrite s.host c.w2.toNat ((List.range len).map fun i => s.dumpAt (off + i)) } c 0 0#64

end Sys2Proof.Machine
end

