-- ==== Sys2Proof/Machine/Registers.lean ====
section
/-!
DEFINITION. Registers.lean: writes of BAR0 registers (R9 to R14, R27, R117, R182, R222, R226, R227, R322, R443, R505, R542, R545,
R551 to R555, R579 to R588, R606, R617 to R622, R628, R629, R674, R685, R686, R720 to R732, R753, R765 to R767, R770, R771,
R778).
-/
namespace Sys2Proof.Machine

/-! Writes by access code (R12). -/

/-- The value of a register after a write under its access codes: RW and RWS fields take the value, RW1C bits written 1 clear,
every other bit stays. -/
def RegRow.written (r : RegRow) (old v : Word) : Word :=
  let rw := BitVec.ofNat 64 r.rw
  let w1c := BitVec.ofNat 64 r.rw1c
  (old &&& ~~~ (rw ||| w1c)) ||| (v &&& rw) ||| (old &&& w1c &&& ~~~ rw &&& ~~~ v)

/-- A write under the access codes alone; an offset without a register takes none, nor does one that only the lease holder
writes, from another port (R11, R12, R551, R622, R685, R686). -/
def State.regPlain (s : State) (p : Port) (off : Nat) (v : Word) : State :=
  match regRow? off with
  | none => s
  | some r => if r.lease && decide (s.holder ≠ some p) then s else s.setReg off (r.written (s.reg off) v)

/-! Where a register lies. -/

/-- The ring whose window holds an offset, and the offset within the window (R552). -/
def ringAt? (off : Nat) : Option (RingId × Nat) :=
  let o := off - offHQ
  if off < offHQ then none
  else if 0x100 ≤ o ∧ o < 0x140 then some (.ev (Fin.ofNat 2 ((o - 0x100) / 0x20)), o % 0x20)
  else if 0x1000 ≤ o ∧ o < 0x1800 then some (.sub (Fin.ofNat 64 ((o - 0x1000) / 0x20)), o % 0x20)
  else if 0x2000 ≤ o ∧ o < 0x2800 then some (.comp (Fin.ofNat 64 ((o - 0x2000) / 0x20)), o % 0x20)
  else if 0x4000 ≤ o ∧ o < 0x6000 then some (.out (Fin.ofNat 256 ((o - 0x4000) / 0x20)), o % 0x20)
  else none

/-- Position and window offset of an offset in the STN block (R89). -/
def stnAt? (off : Nat) : Option (Nat × Nat) :=
  if 0x400000 ≤ off ∧ off < 0x400000 + 0x270000 then some ((off - 0x400000) / 0x1000, off % 0x1000) else none

/-- Stack and window offset of an offset in the CACHE block. -/
def cacheAt? (off : Nat) : Option (Fin 4 × Nat) :=
  if 0x200000 ≤ off ∧ off < 0x300000 then some (Fin.ofNat 4 ((off - 0x200000) / 0x40000), (off - 0x200000) % 0x40000) else none

/-- Stack and window offset of an offset in the TIER block. -/
def tierAt? (off : Nat) : Option (Nat × Nat) :=
  if 0x100000 ≤ off ∧ off < 0x140000 then some ((off - 0x100000) / 0x10000, off % 0x10000) else none

/-- Unit and register number of an offset in the CHK block (R588). -/
def chkAt? (off : Nat) : Option (Nat × Nat) :=
  if offCHK ≤ off ∧ off < offCHK + 0x400 then some ((off - offCHK) / 0x40, (off - offCHK) % 0x40 / 8) else none

/-! Counter windows (R761 to R767). -/

/-- Counters in a bank; none for a bank that does not exist (R762). -/
def bankSize (b : Nat) : Option Nat :=
  if b = 0 then some 9
  else if 0x100 ≤ b ∧ b < 0x100 + 624 then some 10
  else if 0x400 ≤ b ∧ b < 0x400 + 96 then some 4
  else if 0x480 ≤ b ∧ b < 0x480 + 24 then some 16
  else if 0x500 ≤ b ∧ b < 0x500 + 624 then some 32
  else if 0x800 ≤ b ∧ b < 0x804 then some 8
  else if b = 0x900 then some 15
  else none

/-- Whether a counter is an error counter (R762). -/
def errCounter (b i : Nat) : Bool := decide (b = 0x900) || (decide (0x100 ≤ b) && decide (b < 0x370) && decide (i = 10))

/-- The bank and counter that an offset of a window shows (R765). -/
def State.windowAt? (s : State) (off : Nat) : Option (Nat × Nat) :=
  if offCNT + 0x1000 ≤ off ∧ off < offCNT + 0x1800 then some (s.field offCNT 11 0, (off - (offCNT + 0x1000)) / 8)
  else if offCNT + 0x1800 ≤ off ∧ off < offCNT + 0x2000 then some (s.field (offCNT + 8) 11 0, (off - (offCNT + 0x1800)) / 8)
  else none

/-- A write through a window: WRAP of the header and SAT of an error counter clear by 1, COUNT takes the value (R765, R766). -/
def State.windowWrite (s : State) (b i : Nat) (v : Word) : State :=
  match bankSize b with
  | none => s
  | some n =>
    if i = 0 then if bitOf v 63 then { s with cnt := { s.cnt with wrap := s.cnt.wrap.filter (· ≠ b) } } else s
    else if decide (i ≤ n) && errCounter b i then
      let k := b * 256 + i
      { s with cnt := { s.cnt with vals := tabSet s.cnt.vals k (fieldOf v 31 0),
                                   sat := if bitOf v 63 then s.cnt.sat.filter (· ≠ k) else s.cnt.sat } }
    else s

/-! Registers with an effect of their own. -/

/-- A write of STN_VMODE: a reserved RND leaves RND and is recorded (R117, R443). -/
def State.vmodeWrite (s : State) (n : Nat) (v : Word) : State :=
  let s' := s.setReg (offVMODE n) (vmodeOfHost (s.reg (offVMODE n)) v)
  if rndReserved v then s'.errRec 11 0 (posUnit 1 n 0) (0x0B0000000000 + offVMODE n) else s'

/-- A write of a check-value unit: CHK15 takes none; while BUSY it is ignored with REJ, and so is a WIDTH outside 8 to 64 (R581,
R582, R588). -/
def State.chkWrite (s : State) (p : Port) (n r : Nat) (v : Word) : State :=
  let o := offUnit n
  if n = 15 then s
  else if s.bit o 16 then s.setBit o 17
  else if r = 0 then
    let w := fieldOf v 6 0
    if decide (8 ≤ w) && decide (w ≤ 64) then s.regPlain p o v
    else (s.regPlain p o (putField v 6 0 (s.field o 6 0))).setBit o 17
  else s.regPlain p (o + 8 * r) v

/-- THM_CTL: a throttle point outside its range is ignored (R729). -/
def State.throttleWrite (s : State) (p : Port) (v : Word) : State :=
  let keep (lo hi a b : Nat) (w : Word) : Word :=
    if decide (lo ≤ fieldOf v hi (hi - 7)) && decide (fieldOf v hi (hi - 7) ≤ a) then w else putField w hi (hi - 7) b
  s.regPlain p offTHM
    (keep 70 15 105 (s.field offTHM 15 8) (keep 70 7 110 (s.field offTHM 7 0) v))

/-- Whether firmware runs from slot B (R620). -/
def State.runsB (s : State) : Bool := s.bit offBOOT 6

/-- A firmware slot. -/
def Flash.slot (f : Flash) (b : Bool) : FlashSlot := if b then f.b else f.a

/-- Change a firmware slot. -/
def Flash.setSlot (f : Flash) (b : Bool) (x : FlashSlot) : Flash := if b then { f with b := x } else { f with a := x }

/-- The result of a mailbox command (R629). -/
def State.mbxRes (s : State) (res : Nat) : State := s.setField (offMBX + 8) 1 0 res

/-- The bytes of the mailbox buffer (R617). -/
def State.mbxBytes (s : State) (len : Nat) : List Byte :=
  ((List.range ((len + 7) / 8)).flatMap fun i => leBytes 8 (s.reg (offMBX + 0x8000 + 8 * i)).toNat).take len

/-- Bytes of a firmware slot (R608). -/
def slotSize : Nat := 0x1000000

/-- WRITE: buffer bytes into the inactive slot, which then holds no verified image until a COMMIT (R617, R618, R629). -/
def State.mbxCopy (s : State) (v : Word) : State :=
  let len := fieldOf v 23 8 + 1
  let off := fieldOf v 63 40
  if decide (off % 256 ≠ 0) || decide (32768 < len) || decide (slotSize < off + len) then s.mbxRes 3
  else if s.flashHeld then s.mbxRes 2
  else
    let x := s.flash.slot !s.runsB
    { s with flash := s.flash.setSlot (!s.runsB) { bytes := memWrite x.bytes off (s.mbxBytes len), good := false } }.mbxRes 0

/-- COMMIT: the inactive slot is verified, and preferred from the next device reset on when it passes (R606, R618). -/
def State.mbxVerify (s : State) (verified : Bool) : State :=
  if s.flashHeld then s.mbxRes 2
  else
    let x := s.flash.slot !s.runsB
    let f := s.flash.setSlot (!s.runsB) { x with good := verified }
    if verified then { s with flash := { f with preferB := !s.runsB } }.mbxRes 0 else { s with flash := f }.mbxRes 1

/-- SELECT: the running slot is preferred again (R618). -/
def State.mbxRunning (s : State) : State :=
  if s.flashHeld then s.mbxRes 2 else { s with flash := { s.flash with preferB := s.runsB } }.mbxRes 0

/-- A mailbox command of the lease holder; code 0 commands nothing (R617, R618). -/
def State.mailbox (s : State) (p : Port) (v : Word) (verified : Bool) : State :=
  if decide (s.holder ≠ some p) then s
  else if s.bit (offMBX + 8) 8 then s.setBit (offMBX + 8) 9
  else
    match fieldOf v 1 0 with
    | 1 => s.mbxCopy v
    | 2 => s.mbxVerify verified
    | 3 => s.mbxRunning
    | _ => s

/-- CNT_WDOG: with DUMP = 1 from the lease holder the device freezes, dumps and recovers (R770, R774). -/
def State.wdogWrite (s : State) (p : Port) (v : Word) : State :=
  let s := s.regPlain p (offCNT + 0x10) v
  if bitOf v 63 && decide (s.holder = some p) && s.live then s.freeze 2 else s

/-- A write of a cache register of a stack: the region table and a flush or probe as their rows say; the region table and the
classes are the same through every window (R222, R226 to R228). -/
def State.cacheWrite (s : State) (p : Port) (st : Fin 4) (w : Nat) (v : Word) : State :=
  let off := offCACHE st.val + w
  if 0x1000 ≤ w ∧ w < 0x1100 then s.regionWrite st.val (Fin.ofNat 16 ((w - 0x1000) / 0x10)) (decide (w % 0x10 = 8)) v
  else if w = 0x18 then
    let s := s.regPlain p off v
    if s.live then s.runProbe st (256 * fieldOf v 47 8) else s
  else if w = 0x38 then if fieldOf v 1 0 = 0 then s else s.startFlush st v (fieldOf v 1 0)
  else s.regPlain p off v

/-- A write of STN_Ee_SKEW: MAXSKEW starts again from the value written, and the lead of now is seen at once (R93). -/
def State.skewWrite (s : State) (p : Port) (n e : Nat) (v : Word) : State :=
  (s.regPlain p (offENG n e + 0x18) v).skewSeen n e ((s.core n).eng e).skew

/-- A write of a station register of a position (R93, R168, R443). -/
def State.stnWrite (s : State) (p : Port) (n w : Nat) (v : Word) : State :=
  if w = 0x10 then s.vmodeWrite n v
  else if w = 0x880 then s.splitWrite n v
  else if w = 0x818 then s.skewWrite p n 0 v
  else if w = 0x858 then s.skewWrite p n 1 v
  else s.regPlain p (offSTN n + w) v

/-- A write of a register of the HQ block (R505, R551 to R555). -/
def State.hqWrite (s : State) (p : Port) (off : Nat) (v : Word) : State :=
  match ringAt? off with
  | some (r, 0) => s.baseWrite r v
  | some (r, 8) => s.cfgWrite r v
  | _ => s.regPlain p off v

/-- A write of a register with an effect beyond its access codes, or of any other register; verified serves COMMIT. -/
def State.regEffect (s : State) (p : Port) (off : Nat) (v : Word) (verified : Bool) : State :=
  match stnAt? off, cacheAt? off, tierAt? off, chkAt? off, s.windowAt? off with
  | some (n, w), _, _, _, _ => s.stnWrite p n w v
  | _, some (st, w), _, _, _ => s.cacheWrite p st w v
  | _, _, some (st, w), _, _ =>
    if 0x40 ≤ w ∧ w < 0x80 then s.regPlain p (offTIER 0 + w) v else s.regPlain p (offTIER st + w) v
  | _, _, _, some (n, r), _ => if r < 5 then s.chkWrite p n r v else s
  | _, _, _, _, some (b, i) => s.windowWrite b i v
  | _, _, _, _, _ =>
    if offHQ ≤ off ∧ off < offHQ + 0x10000 then s.hqWrite p off v
    else if off = offMBX then s.mailbox p v verified
    else if off = offTHM then s.throttleWrite p v
    else if off = offCNT + 0x10 then s.wdogWrite p v
    else if off = offLANE + 0x10 then (s.regPlain p off v).writeRecord 1
    else if off = offGRN + 0x800 then (s.regPlain p off v).setReg (offGRN + 0x808) (s.probeBond v)
    else if off = offTIME + 0x108 then s.traceCfg v
    else s.regPlain p off v

/-- Registers whose writes are ignored while sealed (R753). -/
def sealedIgnores (off : Nat) : Bool :=
  (stnAt? off).isSome || decide (off = offERR + 0x10) || decide (off = offERR + 0x18) || decide (off = offERR + 0x20)

/-- Whether an access is a single aligned 64-bit access (R10). -/
def wholeAccess (off bytes : Nat) : Bool := decide (bytes = 8) && decide (off % 8 = 0)

/-- The error record of a narrower or misaligned access (R10): kind 11, with the register's device address. -/
def State.narrowAccess (s : State) (off : Nat) : State := s.errRec 11 0 0#64 (0x0B0000000000 + off)

/-- A write access of BAR0 through a port: during a recovery only BOOT_CTL takes one; a narrower or misaligned access has no
effect and is recorded (R9, R10, R674, R753). -/
def State.regWrite (s : State) (p : Port) (off bytes : Nat) (v : Word) (verified : Bool) : State :=
  if !s.portUp p then s
  else if !wholeAccess off bytes then s.narrowAccess off
  else if s.boot.recovering then if off = offBOOT + 0x10 then s.regPlain p off v else s
  else if s.isSealed && sealedIgnores off then s
  else s.regEffect p off v verified

/-! The commands. -/

/-- VMODE_WRITE (R117, R443). -/
def execVmodeWrite (port : Port) (core : Fin 624) (v : Word) (s : State) : Host.Outcome State Fault Refusal :=
  .next (s.regWrite port (offVMODE core.val) 8 v false)

/-- WAVE_CTL_WRITE: the value holds from the next decode wave boundary on (R322). -/
def execWaveCtlWrite (port : Port) (v : Word) (s : State) : Host.Outcome State Fault Refusal :=
  .next (s.regWrite port 0x100 8 v false)

/-- FLIP_ARM: ERR_FLIP_CTL is written with ARM = 1 (R686). -/
def execFlipArm (port : Port) (v : Word) (s : State) : Host.Outcome State Fault Refusal :=
  .next (s.regWrite port (offERR + 0x20) 8 (putField v 0 0 1) false)

/-- WDOG_DUMP: CNT_WDOG is written with DUMP = 1 (R770). -/
def execWdogDump (port : Port) (v : Word) (s : State) : Host.Outcome State Fault Refusal :=
  .next (s.regWrite port (offCNT + 0x10) 8 (putField v 63 63 1) false)

/-- DUMP_RELEASE: VALID of CNT_DUMP is cleared (R771). -/
def execDumpRelease (port : Port) (v : Word) (s : State) : Host.Outcome State Fault Refusal :=
  .next (s.regWrite port offDUMP 8 (putField v 63 63 1) false)

/-- MBX_WRITE: MBX_CMD with OP 1 (R617, R618). -/
def execMbxWrite (port : Port) (v : Word) (s : State) : Host.Outcome State Fault Refusal :=
  .next (s.regWrite port offMBX 8 (putField v 1 0 1) false)

/-- MBX_COMMIT: MBX_CMD with OP 2; verified says whether the inactive slot passes R606 (R618). -/
def execMbxCommit (port : Port) (v : Word) (verified : Bool) (s : State) : Host.Outcome State Fault Refusal :=
  .next (s.regWrite port offMBX 8 (putField v 1 0 2) verified)

/-- MBX_SELECT: MBX_CMD with OP 3 (R618). -/
def execMbxSelect (port : Port) (v : Word) (s : State) : Host.Outcome State Fault Refusal :=
  .next (s.regWrite port offMBX 8 (putField v 1 0 3) false)

/-- LANE_NEXT_WRITE (R585). -/
def execLaneNextWrite (port : Port) (v : Word) (s : State) : Host.Outcome State Fault Refusal :=
  .next (s.regWrite port (offLANE + 0x10) 8 v false)

/-- CHK_CONFIG_WRITE: register reg of unit n (R582, R588). -/
def execChkConfigWrite (port : Port) (n : Fin 16) (reg : Fin 5) (v : Word) (s : State) : Host.Outcome State Fault Refusal :=
  .next (s.regWrite port (offUnit n.val + 8 * reg.val) 8 v false)

/-- GRN_PROBE (R628). -/
def execGrnProbe (port : Port) (v : Word) (s : State) : Host.Outcome State Fault Refusal :=
  .next (s.regWrite port (offGRN + 0x800) 8 v false)

end Sys2Proof.Machine
end

