-- ==== Sys2Proof/Machine/RegRead.lean ====
section
/-!
DEFINITION. RegRead.lean: what a read of a BAR0 register returns: fields that follow from the rest of the state stand over the
stored value (R10 to R12, R27, R90 to R93, R169 to R173, R222 to R232, R279 to R284, R373 to R378, R441 to R444, R488 to R492,
R620 to R629, R674, R684 to R688, R720 to R733, R753, R758 to R760, R765, R775, R779).
-/
namespace Sys2Proof.Machine

/-- A stored register with one field replaced. -/
def State.shown (s : State) (off hi lo v : Nat) : Word := putField (s.reg off) hi lo v

/-! Stations and fields. -/

/-- PST or DST: idle, issuing, held or stopped (R441). -/
def Context.status (x : Context) : Nat :=
  if x.stopped then 3
  else
    match x.active, x.wait, x.held with
    | false, _, _ => 0
    | true, .wnext _, _ => 0
    | true, .none, false => 1
    | true, _, _ => 2

/-- STN_SEQ_STAT (R441). -/
def State.seqStat (s : State) (n : Nat) : Word :=
  let d := s.ctx n .d
  let p := s.ctx n .p
  BitVec.ofNat 64 (d.pc.toNat + p.pc.toNat * 2 ^ 24 + d.status * 2 ^ 48 + p.status * 2 ^ 50)

/-- STN_Ee_CFG (R90). -/
def Engine.cfgWord (e : Engine) : Word :=
  BitVec.ofNat 64 (e.cfg.wfmt.toNat + flag (e.hi && decide (e.cfg.afmt = 2#2)) * 8 + e.cfg.afmt.toNat * 16 +
    flag e.cfg.hold * 256 + flag e.cfg.biasc * 512)

/-- STATE of an engine (R91): 1 while an ELD is in progress, 2 while planes of a run enter, 3 for an EDR alone. The table
does not say what operations that only wait show, nor open tiles alone: an ELD that waits at the front of the queue shows 1,
an EDR that waits for a combine 3, and an engine with open tiles and nothing waiting 0 (DESIGN CHOICE,
notes/assumptions/79.md). -/
def Engine.stateCode (e : Engine) : Nat :=
  if e.eld.isSome then 1
  else if !e.runs.isEmpty then 2
  else
    match e.edr, e.queue with
    | none, .eld .. :: _ => 1
    | none, .eldStream .. :: _ => 1
    | none, .edr .. :: _ => 3
    | some _, _ => 3
    | none, _ => 0

/-- The largest number of open tiles in a column group (R91). -/
def Engine.openTiles (e : Engine) : Nat :=
  (List.range 8).foldl (fun m g => Nat.max m (e.tiles.filter fun t => !t.retired.getLsbD g).length) 0

/-- A row-group byte of STN_Ee_BGj (R173). -/
def State.bondByte (s : State) (n e g : Nat) : Nat :=
  if !s.hasPos n then 0 else
  let top := Bond.vport false (n / 13) (s.physOf n) e g
  let thr := Bond.vport true (n / 13) (s.physOf n) e g
  s.bondState top + flag (s.bondSusp top) * 8 + s.bondState thr * 16 + flag (s.bondSusp thr) * 128

/-- STN_FLD_STAT: the sticky bits and PEND as stored, the rest from the grain map (R169). -/
def State.fieldStat (s : State) (n : Nat) : Word :=
  let bonds := if s.hasPos n then positionBonds (n / 13) (s.physOf n) else []
  let half := (bonds.filter fun b => decide (s.bondState b = 3)).length
  let spare := (bonds.filter fun b => decide (s.bondState b = 1) || decide (s.bondState b = 2)).length
  s.reg (offFST n) ||| BitVec.ofNat 64 (half * 2 ^ 24 + spare * 2 ^ 16 +
    flag (isK12 n && (s.grain.clMap (n / 13)).getLsbD 52) * 16 + flag (bonds.any s.bondSusp) * 8 +
    flag (!s.hasPos n) * 4 + flag (isK12 n) * 2)

/-- STN_FLD_PPBG (R171). -/
def State.portGroups (s : State) (n : Nat) : Word :=
  if !s.hasPos n then 0#64 else BitVec.ofNat 64 (total ((List.range 16).map fun j =>
    let b := Bond.position (n / 13) (s.physOf n) j
    (s.bondState b + flag (s.bondSusp b) * 8) * 16 ^ j))

/-- STN_GX_STAT (R489). -/
def Core.groupStat (k : Core) : Word :=
  let bits (p : GroupCtx → Bool) : Nat := (maskBy 16 fun i => (k.groups.toList[i]?).any p).toNat
  BitVec.ofNat 64 (bits GroupCtx.busy + bits GroupCtx.killed * 2 ^ 16 +
    total (k.groups.toList.map fun g => g.subs.length) * 2 ^ 32)

/-- A register of an engine's window. -/
def State.engineRead (s : State) (n e w : Nat) : Option Word :=
  let g := (s.core n).eng e
  let o := offENG n e
  if w = 0 then some g.cfgWord
  else if w = 8 then
    some (s.reg (o + 8) ||| BitVec.ofNat 64 (g.poisL.toNat * 2 ^ 32 + g.openTiles * 256 + g.stateCode))
  else if w = 0x10 then some (BitVec.ofNat 64 (s.halfGroups n e).toNat)
  else if w = 0x18 then some (s.shown (o + 0x18) 12 8 g.skew)
  else if 0x20 ≤ w ∧ w < 0x40 then
    some (BitVec.ofNat 64 (total ((List.range 8).map fun i => s.bondByte n e (8 * ((w - 0x20) / 8) + i) * 256 ^ i)))
  else none

/-- A register of a station window. -/
def State.stnRead (s : State) (n w : Nat) : Option Word :=
  if w = 0 then some (s.seqStat n)
  else if w = 0x108 then some (s.core n).groupStat
  else if 0x800 ≤ w ∧ w < 0x840 then s.engineRead n 0 (w - 0x800)
  else if 0x840 ≤ w ∧ w < 0x880 then s.engineRead n 1 (w - 0x840)
  else if w = 0x888 then some (s.fieldStat n)
  else if w = 0x890 then some (BitVec.ofNat 64 (s.backs.filter fun x => decide (x.1 = n)).length)
  else if w = 0x898 then some (s.portGroups n)
  else none

/-! Caches, movers, pipelines. -/

/-- A register of a stack's cache window; the region and chuck tables read the same through every window (R222). -/
def State.cacheRead (s : State) (st : Fin 4) (w : Nat) : Option Word :=
  let off := offCACHE st.val + w
  if w = 8 then some (s.shown off 11 0 (s.stackSegs st.val))
  else if 0x1000 ≤ w ∧ w < 0x1100 then some (s.reg (offCACHE 0 + w))
  else if 0x2000 ≤ w ∧ w < 0x2400 then
    if w % 0x10 = 8 then some (s.shown (offCACHE 0 + w) 31 0 (s.chuckLines (BitVec.ofNat 6 ((w - 0x2000) / 0x10))))
    else some (s.reg (offCACHE 0 + w))
  else if 0x10000 ≤ w ∧ w < 0x10000 + 0x40 * 156 ∧ w % 0x40 = 0 then
    let n := 156 * st.val + (w - 0x10000) / 0x40
    some (putField (s.shown off 4 0 (s.segsOf n)) 16 16 (flag (isK12 n)))
  else none

/-- STATE of a pipeline: idle, scoring, attending, or waiting for staged pages or for space (R378). -/
def Pipe.stateCode (p : Pipe) : Nat :=
  match p.queue with
  | [] => 0
  | op :: _ =>
    if !op.begun then 0
    else if op.phase = 1 then 1
    else if op.phase = 2 then (if p.units.any fun u => u.done && !u.staged.isEmpty then 3 else 2)
    else if op.phase = 0 then 3
    else 0

/-- STATE that pipeline q shows: of its own work, else of that for which it serves; a mapped-out pipeline shows 0 (R368, R378). -/
def State.pipeState (s : State) (q : Nat) : Nat :=
  let all := ((List.range 96).filter fun p => decide (s.servedBy p = q)).map fun p => (s.pipe p).stateCode
  if s.pipeOut q then 0 else if (s.pipe q).stateCode ≠ 0 then (s.pipe q).stateCode else (all.find? fun c => decide (c ≠ 0)).getD 0

/-- A register of the ATT block (R376, R378). -/
def State.attRead (s : State) (off : Nat) : Option Word :=
  if off = offATT + 0x30 then some (putField (s.shown off 47 24 s.stuck) 23 0 s.pageIds.length)
  else if offATT + 0x8000 ≤ off ∧ off < offATT + 0x8000 + 0x40 * 96 ∧ off % 0x40 = 0 then
    let q := (off - (offATT + 0x8000)) / 0x40
    let n := if s.pipeOut q then 0 else (s.pipe q).reserve.length
    some (s.reg off ||| BitVec.ofNat 64 (n * 2 ^ 16 + flag (s.pipeOut q) * 2 ^ 11 + s.pipeState q))
  else none

/-! The grain map (R624 to R627). -/

/-- GRN_CLg_STAT (R627). -/
def State.clusterStat (s : State) (g : Nat) : Word :=
  let att := ([0, 1].flatMap fun a => (List.range 512).map fun i => Bond.att g a i) ++ (List.range 16).map fun i => .base g i
  let port := (List.range 64).map fun i => Bond.clusterPort g i
  let cnt (l : List Bond) (p : Nat → Bool) : Nat := (l.filter fun b => p (s.bondState b)).length
  BitVec.ofNat 64 (cnt att (· = 3) + cnt att (· = 4) * 2 ^ 16 + cnt port (fun x => decide (3 ≤ x)) * 2 ^ 32 +
    flag (s.grain.pipes.getLsbD (2 * g)) * 2 ^ 48 + flag (s.grain.pipes.getLsbD (2 * g + 1)) * 2 ^ 49)

/-- A register of the GRN block. -/
def State.grainRead (s : State) (off : Nat) : Option Word :=
  let o := off - offGRN
  if off < offGRN ∨ offGRN + 0x400 ≤ off then none
  else if o = 0 then some (BitVec.ofNat 64 (s.grain.gen.toNat * 256 + s.clSpare))
  else if o = 8 then
    some (BitVec.ofNat 64 (flag (decide (2 ≤ s.field offBOOT 3 0)) + flag (s.bit offBOOT 5) * 2 +
      flag (s.power.flashQ.contains 0) * 4))
  else if 0x10 ≤ o ∧ o < 0x50 then some (s.grain.meas.getD ((o - 0x10) / 8) 0#64)
  else if 0x50 ≤ o ∧ o < 0x70 then some (BitVec.ofNat 64 (s.meshOut (Fin.ofNat 4 ((o - 0x50) / 8))).toNat)
  else if 0x100 ≤ o ∧ o < 0x400 then
    let g := (o - 0x100) / 0x10
    some (if o % 0x10 = 8 then s.clusterStat g else (s.grain.clMap g).setWidth 64)
  else none

/-! Power, errors, seal, counters. -/

/-- SETP of a rail of a stack; VLNK, VAUX and VIO18 are reported under S0 only (R726). -/
def State.railSet (s : State) (st : Fin 4) (r : Nat) : Nat :=
  if r = 0 then s.setPoint st
  else if 5 ≤ r ∧ st ≠ 0 then 0
  else railNominal.getD r 0

/-- A register of the PWR block (R722, R726). -/
def State.powerRead (s : State) (off : Nat) : Option Word :=
  if off = offPSTAT then
    some (putField (putField (putField (s.shown off 5 0 s.power.duty) 11 8 s.skipSteps) 16 16 (flag s.power.divided)) 17 17
      (flag s.safety))
  else if offPWR + 0x100 ≤ off ∧ off < offPWR + 0x200 then
    let st := (off - (offPWR + 0x100)) / 0x40
    let r := (off - (offPWR + 0x100)) % 0x40 / 8
    some (if st ≠ 0 ∧ 5 ≤ r then 0#64 else s.shown off 47 32 (s.railSet (Fin.ofNat 4 st) r))
  else none

/-- ERR_STAT (R684). -/
def State.errStat (s : State) : Word :=
  let regen := s.waves.any fun w => w.regen.isSome
  let inRec := s.boot.recovering || !s.failed.isEmpty || !s.resume.isEmpty
  putField (s.shown offERR 2 2 (flag regen)) 0 0 (flag inRec)

/-- The bank header, counter or zero that a window shows; while sealed the counters of one unit or class are hidden and the
device's totals are those of the last refresh (R753, R765). -/
def State.windowRead (s : State) (b i : Nat) : Word :=
  match bankSize b with
  | none => 0#64
  | some n =>
    if i = 0 then BitVec.ofNat 64 (b + n * 2 ^ 16 + flag (s.cnt.wrap.contains b) * 2 ^ 63)
    else if n < i then 0#64
    else
      let v := tabGetD s.cnt.vals (b * 256 + i) 0
      if errCounter b i then BitVec.ofNat 64 (v + flag (s.cnt.sat.contains (b * 256 + i)) * 2 ^ 63)
      else if !s.isSealed then BitVec.ofNat 64 v
      else if b = 0 then BitVec.ofNat 64 (tabGetD s.cnt.shown i 0)
      else 0#64

/-- Whether a read returns zero while sealed (R753). -/
def State.sealedHides (s : State) (off : Nat) : Bool :=
  let errAddr := decide (offERR + 0x1000 ≤ off) && decide (off < offERR + 0x1800) && decide (off % 0x20 = 0x18)
  let kind := s.field (off - 0x18) 7 0
  (stnAt? off).isSome ||
    (cacheAt? off).any (fun x => decide (0x2000 ≤ x.2) && decide (x.2 < 0x2400) && decide (x.2 % 0x10 = 0)) ||
    (decide (offATT + 0x1000 ≤ off) && decide (off < offATT + 0x3000) && decide (off % 0x20 = 0)) ||
    decide (off = offATT + 0x10) || decide (off = offATT + 0x20) ||
    (errAddr && ((decide (1 ≤ kind) && decide (kind ≤ 11)) || decide (kind = 15)))

/-- The percentage of a chunk that its channel has filled, at 51.4 GB/s, which is 64.25 bytes in an A-cycle (R249, R282). -/
def State.fillPct (s : State) (d k : Nat) : Nat :=
  Nat.min 99 (6425 * (s.time - tabGetD s.fillAt d 0) / Nat.max 1 (s.chunkLen k))

/-- The status of a DDR5 channel, FILLPCT from its progress while it fills a chunk (R282). -/
def State.ddrShown (s : State) (d : Nat) : Word :=
  match s.fillQ.find? fun x => decide (x.1 / 2 = d) with
  | some x => if s.chState d = 2 then s.shown (offCh d) 7 0 (s.fillPct d x.1) else s.reg (offCh d)
  | none => s.reg (offCh d)

/-- The value of a register when no recovery and no seal hides it. -/
def State.regShown (s : State) (off : Nat) : Word :=
  match stnAt? off, cacheAt? off, tierAt? off, s.windowAt? off with
  | some (n, w), _, _, _ => (s.stnRead n w).getD (s.reg off)
  | _, some (st, w), _, _ => (s.cacheRead st w).getD (s.reg off)
  | _, _, some (st, w), _ =>
    if 0x40 ≤ w ∧ w < 0x80 then s.reg (offTIER 0 + w)
    else if 0x100 ≤ w ∧ w < 0x200 ∧ w % 0x10 = 0 then
      s.shown off 22 16 ((s.mover (4 * st + (w - 0x100) / 0x40)).q[Fin.ofNat 4 ((w - 0x100) % 0x40 / 0x10)]).length
    else s.reg off
  | _, _, _, some (b, i) => s.windowRead b i
  | _, _, _, _ =>
    if decide (offDDR ≤ off) && decide (off < offDDR + 0x400) && decide (off % 0x40 = 0) then s.ddrShown ((off - offDDR) / 0x40)
    else if off = offCLK then putField (s.shown off 11 0 s.boot.locks.toNat) 32 32 (flag s.pins.refclk)
    else if off = offERR then s.errStat
    else if off = offSEAL then s.shown off 39 32 s.trust.sessions.length
    else if off = offTIME then s.now
    else if offCNT + 0x400 ≤ off ∧ off < offCNT + 0x400 + 8 * 99 then
      let i := (off - (offCNT + 0x400)) / 8
      if i = 97 then s.reg (offTIME + 0x10) else if i = 98 then s.reg (offTIME + 0x18) else tabGetD s.cnt.life i 0#64
    else (((s.attRead off).or (s.grainRead off)).or (s.powerRead off)).getD (s.reg off)

/-- What a read access of BAR0 returns: zero for a narrower or misaligned access, zero outside the BOOT and ERR blocks during a
recovery, zero for what sealed mode hides (R10, R11, R674, R753). -/
def State.regRead (s : State) (off bytes : Nat) : Word :=
  let bootErr := (decide (offBOOT ≤ off) && decide (off < offBOOT + 0x10000)) || (decide (offERR ≤ off) && decide (off < offERR + 0x10000))
  if !wholeAccess off bytes then 0#64
  else if s.boot.recovering && !bootErr then 0#64
  else if s.isSealed && s.sealedHides off then 0#64
  else if s.isSealed && (cacheAt? off).any (fun x => decide (x.2 = 0x20)) then s.reg off &&& maskOf 63 63
  else s.regShown off

/-- A read access of BAR0 through a port: its value goes to the host; a narrower or misaligned one is recorded (R10). -/
def State.readAccess (s : State) (p : Port) (off bytes : Nat) : State :=
  if !s.portUp p then s
  else
    let s' := { s with outbox := { s.outbox with reads := s.outbox.reads ++ [(off, s.regRead off bytes)] } }
    if wholeAccess off bytes then s' else s'.narrowAccess off

/-- REGISTER_WRITE: an access of any size at any offset, a write or a read (notes/assumptions/72.md); a COMMIT written this way
passes or fails by a free value. -/
def execRegisterWrite (port : Port) (off : Nat) (bytes : Nat) (a : RegAccess) (s : State) : Host.Outcome State Fault Refusal :=
  .next <|
    match a with
    | .read => s.readAccess port off bytes
    | .write v =>
      if decide (off = offMBX) && decide (fieldOf v 1 0 = 2) then
        let (f, s) := s.takeFree
        s.regWrite port off bytes v (f.getLsbD 0)
      else s.regWrite port off bytes v false

end Sys2Proof.Machine
end

