-- ==== Sys2Proof/Machine/Hdm.lean ====
section
/-!
DEFINITION. Hdm.lean: host accesses through the HDM windows (R129, R217, R236, R268, R536, R537, R635, R677, R750, R751, R757).
-/
namespace Sys2Proof.Machine

/-- Where a host access goes: nowhere, to memory past the cache, or through the home slice (R537). -/
inductive HdmWay where
  | closed | memory | slice
  deriving DecidableEq, Repr

/-- The target of a host access at an address: the reserved 2 GiB is refused to the host; an HBM stack that is not online and a
chunk that is neither lent nor online are offline (R236, R537, R677). -/
def State.hdmTarget (s : State) (pa : Nat) : HdmWay :=
  match targetOf pa with
  | .hbm h => if 0x005F80000000 ≤ pa ∨ s.field (offHBM + 0x40 * h) 2 0 ≠ 2 then .closed else .slice
  | .ddr k off =>
    if s.chunkLen k ≤ off ∨ s.fillQ.any (fun x => decide (x.1 = k)) then .closed
    else if s.chunkLent k then .memory
    else if s.chunkOnline k then .slice
    else .closed
  | _ => .closed

/-- Whether a range lies in a declared egress buffer (R751). -/
def State.inEgress (s : State) (pa n : Nat) : Bool := s.trust.bufs.any fun b => decide (b.1 ≤ pa) && decide (pa + n ≤ b.1 + b.2)

/-- Where a host read goes; while the windows are closed only the egress buffers are served (R750, R751). -/
def State.hdmReadWay (s : State) (pa n : Nat) : HdmWay :=
  if s.trust.windowsClosed && !s.inEgress pa n then .closed else s.hdmTarget pa

/-- Where a host write goes (R750, R751). -/
def State.hdmWriteWay (s : State) (pa : Nat) : HdmWay := if s.trust.windowsClosed then .closed else s.hdmTarget pa

/-- n free bytes: data that goes with a poison indication. -/
def State.freeBytes (s : State) : Nat → List Byte × State
  | 0 => ([], s)
  | n + 1 =>
    let (f, s) := s.takeFree
    let (bs, s) := s.freeBytes n
    (f.setWidth 8 :: bs, s)

/-- Read n bytes of one flit: whether they carry the poison indication, and the bytes (R537, R635). -/
def State.hdmFlit (s : State) (pa n : Nat) : (Bool × List Byte) × State :=
  match s.hdmReadWay pa n with
  | .closed => let (bs, s) := s.freeBytes n; ((true, bs), s)
  | .memory => let r := s.memReadFor hostOf 0 pa n; ((r.pois.any id, r.bytes), r.s)
  | .slice => let (bs, po, s) := s.cohLoad hostOf 0 pa n false false; ((po.any id, bs), s)

/-- Read a range flit by flit; every flit is answered by itself. -/
def State.hdmRead (s : State) (pa len : Nat) : Nat → State
  | 0 => s
  | k + 1 =>
    if len = 0 then s
    else
      let n := Nat.min len (64 - pa % 64)
      let (x, s) := s.hdmFlit pa n
      State.hdmRead { s with outbox := { s.outbox with hdm := s.outbox.hdm ++ [x] } } (pa + n) (len - n) k

/-- The runs of bytes that a mask selects: first byte and length. -/
def hdmRuns (mask : BitVec 64) : List (Nat × Nat) :=
  (List.range 64).foldl (fun acc i =>
    if !mask.getLsbD i then acc
    else
      match acc.reverse with
      | (a, n) :: rest => if a + n = i then (rest.reverse ++ [(a, n + 1)]) else acc ++ [(i, 1)]
      | [] => [(i, 1)]) []

/-- Write bytes of one flit: a whole flit clears its poison (R217, R537, R635). -/
def State.hdmPut (s : State) (way : HdmWay) (pa : Nat) (bs : List Byte) : State :=
  match way with
  | .closed => s
  | .memory => s.memWriteFor hostOf 0 pa bs false
  | .slice => s.cohStore hostOf 0 pa bs false false

/-- A host write of the bytes of a flit that a mask selects; one that goes nowhere is dropped and recorded (R537). -/
def State.hdmWrite (s : State) (pa : Nat) (mask : BitVec 64) (data : List Byte) : State :=
  let way := s.hdmWriteWay pa
  if way = .closed then s.errRec 12 0 (ctlUnit (ctlOf pa)) pa
  else (hdmRuns mask).foldl (fun s x => s.hdmPut way (pa + x.1) ((padTo 64 data).drop x.1 |>.take x.2)) s

/-- Whether a host access may be performed now on the way that it takes (R134, R217, R268, R271, R276). -/
def State.hdmGo (s : State) (way : HdmWay) (pa n : Nat) (store : Bool) : Bool :=
  match way with
  | .closed => true
  | .memory => if store then s.mayWrite hostOf 0 pa n else s.mayRead hostOf 0 pa n
  | .slice => s.cachedGo hostOf 0 pa n store false

/-- The flits of a range: first byte and length of each part. -/
def flitParts (pa len : Nat) : List (Nat × Nat) :=
  (flitsOf pa len).map fun f =>
    let a := Nat.max pa (64 * f)
    (a, Nat.min (pa + len) (64 * f + 64) - a)

/-- HDM_READ: only HBM4 and DDR5 addresses decode; the answers go to the host when the memory serves them (R217, R536, R537, R635, R751). -/
def execHdmRead (port : Port) (pa : BitVec 48) (len : Nat) (s : State) : Host.Outcome State Fault Refusal :=
  let go := (flitParts pa.toNat len).all fun x => s.hdmGo (s.hdmReadWay x.1 x.2) x.1 x.2 false
  .next (if s.portUp port && s.live && inDram pa.toNat && go then s.hdmRead pa.toNat len (len / 64 + 2) else s)

/-- HDM_WRITE: bytes of the flit at pa, by mask (R217, R536, R537, R635, R751). -/
def execHdmWrite (port : Port) (pa : BitVec 48) (mask : BitVec 64) (data : List Byte) (s : State) :
    Host.Outcome State Fault Refusal :=
  let a := pa.toNat / 64 * 64
  .next (if s.portUp port && s.live && inDram pa.toNat && s.hdmGo (s.hdmWriteWay a) a 64 true then s.hdmWrite a mask data else s)

end Sys2Proof.Machine
end

