-- ==== Sys2Proof/Machine/MemCtl.lean ====
section
/-!
DEFINITION. MemCtl.lean: events of the home slices and of the memory controllers (R186, R191, R206 to R214, R219, R239, R244 to
R247, R271 to R277, R679, R813).
-/
namespace Sys2Proof.Machine

/-- After an event of a slice or a controller: the fills that waited for their class counts are asked for, and what waits for memory goes
on: the operations of the attention pipelines, and the cores that read a spilled stream (R271, R295). -/
def State.memEvent (s : State) : State :=
  let s := (s.askFills.pipes.map (·.1)).foldl (fun s q => if (s.pipe q).queue.isEmpty then s else s.pipeRun q) s.askFills
  (s.image.elim [] (·.streams)).foldl (fun s d => if d.spill.isSome then s.afterCore d.cons.val else s) s

/-! Requests at their home slices (R183 to R216, R236, R432 to R436). -/

/-- A request whose memory is no longer the device's is refused: a load returns zeros, a store changes nothing, and station code takes
the program or group fault of a refused access (R130, R236). -/
def State.refuseReq (s : State) (r : Req) : State :=
  let s := match r.kind with
    | .ld dst _ bad => s.deliver r dst (List.replicate r.size 0#8) [bad]
    | _ => s
  let s := match r.who with
    | .ctx n c => s.programFault n c fACCV r.pc
    | .grp n g => s.killGroup n (Fin.ofNat 16 g) gACCV r.pc
    | .other => s
  s.finishReq r.id

/-- Whether a request is refused when it arrives: its chunk is lent or gone, or a reduction has no home slice (R177, R236). -/
def State.reqRefused (s : State) (r : Req) : Bool :=
  decide (s.memAccess r.pa false = .refused) || ((s.home r.pa).isNone && match r.kind with | .red _ => true | _ => false)

/-- SLICE_REQUEST: a request on its way arrives at its home slice and is served, unless another is to be served before it (R206, R432
to R434), or it waits for its chunk, a split change or a takeover (R134, R215, R251). -/
def execSliceRequest (idx : Nat) (s : State) : Host.Outcome State Fault Refusal :=
  .next <|
    match s.reqs[idx]? with
    | none => s
    | some r =>
      if !s.live || decide (r.stage ≠ .sent) then s
      else if s.reqRefused r then s.refuseReq r
      else if s.reqHeld r then s
      else if s.reqBehind idx r then s.arrive r
      else ((s.arrive r).serve r).memEvent

/-- LINE_FILL: the data of a fill reaches its slice (R186, R191, R195, R207, R219). -/
def execLineFill (line : Nat) (s : State) : Host.Outcome State Fault Refusal :=
  .next <|
    match tabGet? s.fills line with
    | none => s
    | some f =>
      match f.data with
      | none => s
      | some bytes => if s.live then (s.fillLine line f bytes).memEvent else s

/-- RED_APPLY: the first queued reduction of a line is applied, its parity checked first (R207 to R209, R214, R219). -/
def execRedApply (line : Nat) (s : State) : Host.Outcome State Fault Refusal :=
  .next <|
    match tabGet? s.lines line with
    | none => s
    | some l =>
      match l.reds with
      | [] => s
      | (op, _) :: _ =>
        if !s.live || !s.redMay line l op then s
        else
          let s := s.checkLine line op.cls
          match tabGet? s.lines line with
          | none => s
          | some l =>
            match l.reds with
            | (op, who) :: rest => if l.state = 5#3 then s else (s.applyRed line l op who rest).memEvent
            | [] => s

/-- WRITE_BACK_ISSUE: the slice issues the write-back of an evicted line when its class count allows (R211, R212, R813). -/
def execWriteBackIssue (line : Nat) (s : State) : Host.Outcome State Fault Refusal :=
  .next <|
    match tabGet? s.evicts line with
    | none => s
    | some e =>
      if !s.live || e.issued || !s.mayIssue (sliceOf e.line.pos) e.line.cls (ctlOf (256 * line)) then s else s.issueBack line e

/-- WRITE_BACK_ACK: the controller takes the write-back into its queue and acknowledges it (R212, R246). -/
def execWriteBackAck (line : Nat) (s : State) : Host.Outcome State Fault Refusal :=
  .next (if s.live && (tabGet? s.evicts line).isSome then (s.ackBack line).memEvent else s)

/-! The controllers (R239, R244 to R247, R271 to R277, R679). -/

/-- MEMORY_READ: the controller performs the read that R275 chooses (R239, R246, R277). -/
def execMemoryRead (ctl : Fin 24) (idx : Nat) (s : State) : Host.Outcome State Fault Refusal :=
  .next <|
    match (s.ctl ctl.val).reads[idx]?, s.chosen ctl.val with
    | some r, some c => if !s.live || c.write || decide (c.idx ≠ idx) then s else (s.performRead ctl.val idx r).memEvent
    | _, _ => s

/-- MEMORY_WRITE: the controller performs the accepted write that R275 chooses (R244, R246, R277). -/
def execMemoryWrite (ctl : Fin 24) (idx : Nat) (s : State) : Host.Outcome State Fault Refusal :=
  let k := s.ctl ctl.val
  .next <|
    match k.writes[idx]?, s.chosen ctl.val with
    | some w, some c =>
      if !s.live || !c.write || decide (c.idx ≠ idx) then s
      else ((s.setCtl ctl.val { k with writes := k.writes.eraseIdx idx }).applyWrite w).memEvent
    | _, _ => s

/-- CONTROLLER_LEVEL_UPDATE: the controller takes its level from its queue's occupancy, and sends a change to its requesters (R272,
R273, notes/assumptions/14.md). -/
def execControllerLevelUpdate (ctl : Fin 24) (s : State) : Host.Outcome State Fault Refusal :=
  .next (s.changeCtl ctl.val fun k => { k with level := levelOf k.depth }).memEvent

/-- Whether the device's controllers hold a burst: also that of a lent chunk (R235, R247). -/
def State.burstHere (s : State) (pa : Nat) : Bool :=
  match targetOf pa with
  | .hbm _ => true
  | .ddr k off => decide (off < s.chunkLen k) && (s.chunkOnline k || s.chunkLent k) && !s.fillQ.any fun x => decide (x.1 = k)
  | _ => false

/-- PATROL_SCRUB: a controller reads a burst of its memory, class 6, when it is its turn; a corrected one is written back unless a
newer write to it is queued (R247, R275, R276, R636). A flit number names the burst. -/
def execPatrolScrub (flit : Nat) (s : State) : Host.Outcome State Fault Refusal :=
  let pa := 64 * flit
  let src := mgmtOf (ownerOf pa)
  .next <|
    if !s.ready || !s.burstHere pa || !s.mayRead src 6 pa 64 then s
    else
      let (d, s1) := s.readDram flit
      let queued := (s.ctl (ctlOf pa)).writes.any fun w => w.acked && decide (w.pa ≤ pa) && decide (pa < w.pa + 256) &&
        (List.range 64).any fun i => w.mask.getLsbD (pa - w.pa + i)
      let s1 := s1.performed src 6 pa 64 false
      if d.pois || queued || decide (s.eccOut s.mem pa 64 = .good) then s1
      else ({ s1 with mem := s1.mem.write pa d.bytes }).performed src 6 pa 64 true

/-- CALIBRATION_WINDOW_OPEN: at most one HBM4 controller and one DDR5 channel of a stack at a time; the controller reports BLACK
(R276, R679). -/
def execCalibrationWindowOpen (ctl : Fin 24) (s : State) : Host.Outcome State Fault Refusal :=
  .next <|
    if s.ctls.any (fun x => x.2.cal && ctlPeers ctl.val x.1) then s
    else s.changeCtl ctl.val fun k => { k with cal := true }

/-- CALIBRATION_WINDOW_CLOSE: the controller issues to memory again (R276). -/
def execCalibrationWindowClose (ctl : Fin 24) (s : State) : Host.Outcome State Fault Refusal :=
  .next (s.changeCtl ctl.val fun k => { k with cal := false }).memEvent

end Sys2Proof.Machine
end

