-- ==== Sys2Proof/Machine/Spdm.lean ====
section
/-!
DEFINITION. Spdm.lean: SPDM requests, measurements, sessions and IDE keys (R735 to R743, R755, R758).
-/
namespace Sys2Proof.Machine

/-- The number of a transport. -/
def spdmNum : SpdmPort → Nat
  | .doe .a => 0
  | .doe .b => 1
  | .mctp => 2

/-- Whether a request reaches the seal engine: DOE needs the port's link, MCTP the rails (R740). -/
def State.spdmHears (s : State) (t : SpdmPort) : Bool :=
  match t with
  | .doe p => s.portUp p
  | .mctp => s.boot.rails

/-- Whether the seal engine has regenerated its keys at stage 1 (R735, R738, R758). -/
def State.sealUp (s : State) : Bool := s.bit offSEAL 4 && decide (1 ≤ s.field offBOOT 3 0)

/-- Answer a request. -/
def State.reply (s : State) (t : SpdmPort) (r : SpdmReply) : State :=
  { s with outbox := { s.outbox with spdm := s.outbox.spdm ++ [(t, r)] } }

/-- How far the connection of a transport is. -/
def State.conn (s : State) (t : SpdmPort) : Nat := tabGetD s.trust.conn (spdmNum t) 0

/-- Set how far a connection is. -/
def State.setConn (s : State) (t : SpdmPort) (n : Nat) : State :=
  { s with trust := { s.trust with conn := tabSet s.trust.conn (spdmNum t) n } }

/-- A request: Busy while the seal engine restarts in a recovery, no answer before its first start, UnexpectedRequest before the
connection has come far enough (R735, R755). -/
def State.spdm (s : State) (t : SpdmPort) (need : Nat) (body : State → State) : State :=
  if !s.spdmHears t then s
  else if s.boot.recovering && !s.sealUp then s.reply t (.error .busy)
  else if !s.sealUp then s
  else if s.conn t < need then s.reply t (.error .unexpectedRequest)
  else body s

/-- A fresh RSA-4096 signature (R736). -/
def State.signature (s : State) : List Byte × State :=
  ((List.range 512).map fun i => Config.sealByte (1024 + s.freeCtr) i, s.takeFree.2)

/-! Measurements (R741, R742). -/

/-- Words as bytes. -/
def wordBytes (ws : List Word) : List Byte := ws.flatMap fun w => leBytes 8 w.toNat

/-- A digest of the loaded image, or 64 zero bytes while none is loaded (R741). -/
def State.imageDigest (s : State) (f : Image → List Word) : List Byte := padTo 64 (s.image.elim [] fun g => wordBytes (f g))

/-- A measurement block: the firmware digests stand for packages whose bytes the spec does not give (R741). -/
def State.measurement (s : State) (i : Nat) : List Byte :=
  let svn := s.reg (offSEAL + 0x180)
  match i with
  | 1 => (List.range 64).map fun j => Config.sealByte 1 (((fieldOf svn 31 0 * 2 + flag s.runsB) * 64) + j)
  | 2 => (List.range 64).map fun j => Config.sealByte 2 (fieldOf svn 63 32 * 64 + j)
  | 3 => wordBytes s.grain.meas
  | 4 => s.imageDigest Image.digest
  | 5 => s.imageDigest Image.manifestDigest
  | 6 => s.imageDigest Image.ownerDigest
  | 7 => (List.range Config.certLength).map fun j => Config.sealByte 3 j
  | _ => leBytes 8 (s.shown offSEAL 39 32 s.trust.sessions.length).toNat

/-- The blocks that an index asks for: one, or all with 0xFF. -/
def blocksFor (i : Nat) : List Nat := if i = 255 then (List.range 8).map (· + 1) else [i]

/-! Requests (R740). -/

/-- GET_VERSION begins a connection. -/
def execGetVersion (t : SpdmPort) (s : State) : Host.Outcome State Fault Refusal :=
  .next (s.spdm t 0 fun s => (s.setConn t 1).reply t .version)

/-- GET_CAPABILITIES. -/
def execGetCapabilities (t : SpdmPort) (s : State) : Host.Outcome State Fault Refusal :=
  .next (s.spdm t 1 fun s => (s.setConn t (Nat.max 2 (s.conn t))).reply t .capabilities)

/-- NEGOTIATE_ALGORITHMS: the asymmetric algorithm and hash of R740 must be offered. -/
def execNegotiateAlgorithms (t : SpdmPort) (a : SpdmAlgs) (s : State) : Host.Outcome State Fault Refusal :=
  .next (s.spdm t 2 fun s =>
    if a.rsassa4096 && a.sha512 then (s.setConn t 3).reply t .algorithms else s.reply t (.error .unsupportedRequest))

/-- GET_DIGESTS: the digest of the chain in slot 0 (R737). -/
def execGetDigests (t : SpdmPort) (s : State) : Host.Outcome State Fault Refusal :=
  .next (s.spdm t 3 fun s => s.reply t (.digests ((List.range 64).map fun j => Config.sealByte 4 j)))

/-- Bytes of the flash region that holds the certificate chain (R608). -/
def chainSize : Nat := 0x40000

/-- GET_CERTIFICATE: a part of the chain in slot 0 (R737). -/
def execGetCertificate (t : SpdmPort) (slot : BitVec 8) (off : Nat) (len : Nat) (s : State) : Host.Outcome State Fault Refusal :=
  .next (s.spdm t 3 fun s =>
    if slot ≠ 0#8 then s.reply t (.error .unsupportedRequest)
    else if chainSize ≤ off then s.reply t (.error .invalidRequest)
    else s.reply t (.certificate ((List.range (Nat.min len (chainSize - off))).map fun j => Config.sealByte 5 (off + j))))

/-- CHALLENGE: a signed answer for slot 0. -/
def execChallenge (t : SpdmPort) (slot : BitVec 8) (nonce : List Byte) (s : State) : Host.Outcome State Fault Refusal :=
  .next (s.spdm t 3 fun s =>
    if slot ≠ 0#8 then s.reply t (.error .unsupportedRequest)
    else
      let (sig, s) := s.signature
      s.reply t (.challengeAuth nonce sig))

/-- GET_MEASUREMENTS: the number of blocks, one block, or all; blocks 3 and 8 are read as the response is signed (R741, R742). -/
def execGetMeasurements (t : SpdmPort) (idx : BitVec 8) (nonce : List Byte) (s : State) : Host.Outcome State Fault Refusal :=
  .next (s.spdm t 3 fun s =>
    let i := idx.toNat
    if i = 0 then s.reply t (.blockCount 8)
    else if 8 < i ∧ i ≠ 255 then s.reply t (.error .invalidRequest)
    else
      let blocks := (blocksFor i).map fun j => (j, s.measurement j)
      let (sig, s) := s.signature
      s.reply t (.measurements blocks nonce sig))

/-- KEY_EXCHANGE: a session opens; four are held at once over all transports (R740). -/
def execKeyExchange (t : SpdmPort) (group : SpdmGroup) (slot : BitVec 8) (s : State) : Host.Outcome State Fault Refusal :=
  .next (s.spdm t 3 fun s =>
    if group = .other ∨ slot ≠ 0#8 then s.reply t (.error .unsupportedRequest)
    else if 4 ≤ s.trust.sessions.length then s.reply t (.error .sessionLimit)
    else
      let (sig, s) := s.signature
      let i := s.trust.nextId
      let s : State := { s with trust := { s.trust with
        sessions := s.trust.sessions ++ [{ id := i, port := t, secure := false }], nextId := i + 1 } }
      s.reply t (.keyExchange i sig))

/-- A session of a transport with its handshake complete or not. -/
def State.hasSession (s : State) (t : SpdmPort) (sid : Nat) (secure : Bool) : Bool :=
  s.trust.sessions.any fun x => decide (x.id = sid) && decide (x.port = t) && decide (x.secure = secure)

/-- A session ends. -/
def State.dropSession (s : State) (sid : Nat) : State :=
  { s with trust := { s.trust with sessions := s.trust.sessions.filter fun x => decide (x.id ≠ sid) } }

/-- A request within a session. -/
def State.inSession (s : State) (t : SpdmPort) (sid : Nat) (secure : Bool) (body : State → State) : State :=
  s.spdm t 3 fun s => if s.hasSession t sid secure then body s else s.reply t (.error .invalidRequest)

/-- FINISH: the handshake ends well, or the session is gone. -/
def execFinish (t : SpdmPort) (sid : Nat) (ok : Bool) (s : State) : Host.Outcome State Fault Refusal :=
  .next (s.inSession t sid false fun s =>
    if ok then
      State.reply { s with trust := { s.trust with
        sessions := s.trust.sessions.map fun x => if x.id = sid then { x with secure := true } else x } } t (.finished sid)
    else (s.dropSession sid).reply t (.error .decryptError))

/-- END_SESSION. -/
def execEndSession (t : SpdmPort) (sid : Nat) (s : State) : Host.Outcome State Fault Refusal :=
  .next (s.inSession t sid true fun s => (s.dropSession sid).reply t (.ended sid))

/-- KEY_UPDATE. -/
def execKeyUpdate (t : SpdmPort) (sid : Nat) (s : State) : Host.Outcome State Fault Refusal :=
  .next (s.inSession t sid true fun s => s.reply t (.keyUpdated sid))

/-- HEARTBEAT. -/
def execHeartbeat (t : SpdmPort) (sid : Nat) (s : State) : Host.Outcome State Fault Refusal :=
  .next (s.inSession t sid true fun s => s.reply t (.alive sid))

/-- VENDOR_DEFINED_REQUEST: IDE_KM programs the IDE keys of the port whose secured session carries it; with the keys of
CXL.cache and CXL.mem set, output held for IDE goes on (R743, R751, R758). -/
def execVendorDefinedRequest (t : SpdmPort) (sid : Nat) (cacheMemKeys : Bool) (s : State) : Host.Outcome State Fault Refusal :=
  .next (s.inSession t sid true fun s =>
    match t with
    | .mctp => s.reply t (.error .unsupportedRequest)
    | .doe p =>
      let s := s.reply t (.keysSet sid)
      if cacheMemKeys then (s.setBit offSEAL (ideBit p)).flushRings else s)

end Sys2Proof.Machine
end

