-- ==== Sys2Proof/Machine/Dispatch.lean ====
section
/-!
DEFINITION. Dispatch.lean: the effect of each command, one arm per constructor of Instr.
-/
namespace Sys2Proof.Machine

/-- The effect of a command on everything but the queue. -/
def exec (i : Instr) (s : State) : Host.Outcome State Fault Refusal :=
  match i with
  | .nop u f => Sys2Proof.Machine.execNop u f s
  | .br u f => Sys2Proof.Machine.execBr u f s
  | .beq u f => Sys2Proof.Machine.execBeq u f s
  | .bne u f => Sys2Proof.Machine.execBne u f s
  | .blt u f => Sys2Proof.Machine.execBlt u f s
  | .bge u f => Sys2Proof.Machine.execBge u f s
  | .bltu u f => Sys2Proof.Machine.execBltu u f s
  | .bgeu u f => Sys2Proof.Machine.execBgeu u f s
  | .bpz u f => Sys2Proof.Machine.execBpz u f s
  | .bpnz u f => Sys2Proof.Machine.execBpnz u f s
  | .jal u f => Sys2Proof.Machine.execJal u f s
  | .jr u f => Sys2Proof.Machine.execJr u f s
  | .fence u f => Sys2Proof.Machine.execFence u f s
  | .wnext u f => Sys2Proof.Machine.execWnext u f s
  | .wbar u f => Sys2Proof.Machine.execWbar u f s
  | .gap u f => Sys2Proof.Machine.execGap u f s
  | .hint u f => Sys2Proof.Machine.execHint u f s
  | .add u f => Sys2Proof.Machine.execAdd u f s
  | .sub u f => Sys2Proof.Machine.execSub u f s
  | .mul u f => Sys2Proof.Machine.execMul u f s
  | .mulh u f => Sys2Proof.Machine.execMulh u f s
  | .and u f => Sys2Proof.Machine.execAnd u f s
  | .or u f => Sys2Proof.Machine.execOr u f s
  | .xor u f => Sys2Proof.Machine.execXor u f s
  | .shl u f => Sys2Proof.Machine.execShl u f s
  | .shr u f => Sys2Proof.Machine.execShr u f s
  | .sra u f => Sys2Proof.Machine.execSra u f s
  | .slt u f => Sys2Proof.Machine.execSlt u f s
  | .sltu u f => Sys2Proof.Machine.execSltu u f s
  | .min u f => Sys2Proof.Machine.execMin u f s
  | .max u f => Sys2Proof.Machine.execMax u f s
  | .movh u f => Sys2Proof.Machine.execMovh u f s
  | .mrs u f => Sys2Proof.Machine.execMrs u f s
  | .msr u f => Sys2Proof.Machine.execMsr u f s
  | .vadd u f => Sys2Proof.Machine.execVadd u f s
  | .vsub u f => Sys2Proof.Machine.execVsub u f s
  | .vmul u f => Sys2Proof.Machine.execVmul u f s
  | .vfma u f => Sys2Proof.Machine.execVfma u f s
  | .vfms u f => Sys2Proof.Machine.execVfms u f s
  | .vdiv u f => Sys2Proof.Machine.execVdiv u f s
  | .vsqrt u f => Sys2Proof.Machine.execVsqrt u f s
  | .vmin u f => Sys2Proof.Machine.execVmin u f s
  | .vmax u f => Sys2Proof.Machine.execVmax u f s
  | .vminn u f => Sys2Proof.Machine.execVminn u f s
  | .vmaxn u f => Sys2Proof.Machine.execVmaxn u f s
  | .vrint u f => Sys2Proof.Machine.execVrint u f s
  | .vcmp u f => Sys2Proof.Machine.execVcmp u f s
  | .vexp2 u f => Sys2Proof.Machine.execVexp2 u f s
  | .vrcp u f => Sys2Proof.Machine.execVrcp u f s
  | .vrsq u f => Sys2Proof.Machine.execVrsq u f s
  | .vlog2 u f => Sys2Proof.Machine.execVlog2 u f s
  | .vcvt u f => Sys2Proof.Machine.execVcvt u f s
  | .viadd u f => Sys2Proof.Machine.execViadd u f s
  | .visub u f => Sys2Proof.Machine.execVisub u f s
  | .vimul u f => Sys2Proof.Machine.execVimul u f s
  | .vand u f => Sys2Proof.Machine.execVand u f s
  | .vor u f => Sys2Proof.Machine.execVor u f s
  | .vxor u f => Sys2Proof.Machine.execVxor u f s
  | .vshl u f => Sys2Proof.Machine.execVshl u f s
  | .vshr u f => Sys2Proof.Machine.execVshr u f s
  | .vsra u f => Sys2Proof.Machine.execVsra u f s
  | .vimin u f => Sys2Proof.Machine.execVimin u f s
  | .vimax u f => Sys2Proof.Machine.execVimax u f s
  | .vsel u f => Sys2Proof.Machine.execVsel u f s
  | .vmov u f => Sys2Proof.Machine.execVmov u f s
  | .vrsum u f => Sys2Proof.Machine.execVrsum u f s
  | .vrmax u f => Sys2Proof.Machine.execVrmax u f s
  | .vrmin u f => Sys2Proof.Machine.execVrmin u f s
  | .vperm u f => Sys2Proof.Machine.execVperm u f s
  | .vext u f => Sys2Proof.Machine.execVext u f s
  | .vins u f => Sys2Proof.Machine.execVins u f s
  | .plog u f => Sys2Proof.Machine.execPlog u f s
  | .pset u f => Sys2Proof.Machine.execPset u f s
  | .pget u f => Sys2Proof.Machine.execPget u f s
  | .eld u f => Sys2Proof.Machine.execEld u f s
  | .ews u f => Sys2Proof.Machine.execEws u f s
  | .edr u f => Sys2Proof.Machine.execEdr u f s
  | .ecf u f => Sys2Proof.Machine.execEcf u f s
  | .rcx u f => Sys2Proof.Machine.execRcx u f s
  | .ldf u f => Sys2Proof.Machine.execLdf u f s
  | .stf u f => Sys2Proof.Machine.execStf u f s
  | .ldc u f => Sys2Proof.Machine.execLdc u f s
  | .stc u f => Sys2Proof.Machine.execStc u f s
  | .red u f => Sys2Proof.Machine.execRed u f s
  | .chuck u f => Sys2Proof.Machine.execChuck u f s
  | .unchuck u f => Sys2Proof.Machine.execUnchuck u f s
  | .cwb u f => Sys2Proof.Machine.execCwb u f s
  | .lds u f => Sys2Proof.Machine.execLds u f s
  | .sts u f => Sys2Proof.Machine.execSts u f s
  | .hst u f => Sys2Proof.Machine.execHst u f s
  | .srx u f => Sys2Proof.Machine.execSrx u f s
  | .stx u f => Sys2Proof.Machine.execStx u f s
  | .swt u f => Sys2Proof.Machine.execSwt u f s
  | .hset u f => Sys2Proof.Machine.execHset u f s
  | .acfg u f => Sys2Proof.Machine.execAcfg u f s
  | .astart u f => Sys2Proof.Machine.execAstart u f s
  | .tmv u f => Sys2Proof.Machine.execTmv u f s
  | .gln u f => Sys2Proof.Machine.execGln u f s
  | .gwt u f => Sys2Proof.Machine.execGwt u f s
  | .gnop g f => Sys2Proof.Machine.execGnop g f s
  | .bra g f => Sys2Proof.Machine.execBra g f s
  | .bru g f => Sys2Proof.Machine.execBru g f s
  | .brd g f => Sys2Proof.Machine.execBrd g f s
  | .rcv g f => Sys2Proof.Machine.execRcv g f s
  | .gexit g f => Sys2Proof.Machine.execGexit g f s
  | .gfence g f => Sys2Proof.Machine.execGfence g f s
  | .iadd g f => Sys2Proof.Machine.execIadd g f s
  | .isub g f => Sys2Proof.Machine.execIsub g f s
  | .imul g f => Sys2Proof.Machine.execImul g f s
  | .groupAnd g f => Sys2Proof.Machine.execGroupAnd g f s
  | .groupOr g f => Sys2Proof.Machine.execGroupOr g f s
  | .groupXor g f => Sys2Proof.Machine.execGroupXor g f s
  | .groupShl g f => Sys2Proof.Machine.execGroupShl g f s
  | .groupShr g f => Sys2Proof.Machine.execGroupShr g f s
  | .groupSra g f => Sys2Proof.Machine.execGroupSra g f s
  | .imin g f => Sys2Proof.Machine.execImin g f s
  | .imax g f => Sys2Proof.Machine.execImax g f s
  | .umin g f => Sys2Proof.Machine.execUmin g f s
  | .umax g f => Sys2Proof.Machine.execUmax g f s
  | .seq g f => Sys2Proof.Machine.execSeq g f s
  | .sne g f => Sys2Proof.Machine.execSne g f s
  | .groupSlt g f => Sys2Proof.Machine.execGroupSlt g f s
  | .groupSltu g f => Sys2Proof.Machine.execGroupSltu g f s
  | .sel g f => Sys2Proof.Machine.execSel g f s
  | .mov g f => Sys2Proof.Machine.execMov g f s
  | .fadd g f => Sys2Proof.Machine.execFadd g f s
  | .fsub g f => Sys2Proof.Machine.execFsub g f s
  | .fmul g f => Sys2Proof.Machine.execFmul g f s
  | .ffma g f => Sys2Proof.Machine.execFfma g f s
  | .fmin g f => Sys2Proof.Machine.execFmin g f s
  | .fmax g f => Sys2Proof.Machine.execFmax g f s
  | .feq g f => Sys2Proof.Machine.execFeq g f s
  | .flt g f => Sys2Proof.Machine.execFlt g f s
  | .fle g f => Sys2Proof.Machine.execFle g f s
  | .fexp2 g f => Sys2Proof.Machine.execFexp2 g f s
  | .frcp g f => Sys2Proof.Machine.execFrcp g f s
  | .flog2 g f => Sys2Proof.Machine.execFlog2 g f s
  | .i2f g f => Sys2Proof.Machine.execI2f g f s
  | .f2i g f => Sys2Proof.Machine.execF2i g f s
  | .f2h g f => Sys2Proof.Machine.execF2h g f s
  | .h2f g f => Sys2Proof.Machine.execH2f g f s
  | .uadd g f => Sys2Proof.Machine.execUadd g f s
  | .usub g f => Sys2Proof.Machine.execUsub g f s
  | .umul g f => Sys2Proof.Machine.execUmul g f s
  | .uand g f => Sys2Proof.Machine.execUand g f s
  | .uor g f => Sys2Proof.Machine.execUor g f s
  | .uxor g f => Sys2Proof.Machine.execUxor g f s
  | .ushl g f => Sys2Proof.Machine.execUshl g f s
  | .ushr g f => Sys2Proof.Machine.execUshr g f s
  | .uslt g f => Sys2Proof.Machine.execUslt g f s
  | .umov g f => Sys2Proof.Machine.execUmov g f s
  | .uxt g f => Sys2Proof.Machine.execUxt g f s
  | .ubc g f => Sys2Proof.Machine.execUbc g f s
  | .vote g f => Sys2Proof.Machine.execVote g f s
  | .shfl g f => Sys2Proof.Machine.execShfl g f s
  | .glds g f => Sys2Proof.Machine.execGlds g f s
  | .gsts g f => Sys2Proof.Machine.execGsts g f s
  | .gldc g f => Sys2Proof.Machine.execGldc g f s
  | .gstc g f => Sys2Proof.Machine.execGstc g f s
  | .gatom g f => Sys2Proof.Machine.execGatom g f s
  | .gred g f => Sys2Proof.Machine.execGred g f s
  | .gmma g f => Sys2Proof.Machine.execGmma g f s
  | .gspec g f => Sys2Proof.Machine.execGspec g f s
  | .launchStart core => Sys2Proof.Machine.execLaunchStart core s
  | .planeEntry core e g => Sys2Proof.Machine.execPlaneEntry core e g s
  | .weightReread core e g => Sys2Proof.Machine.execWeightReread core e g s
  | .tileCombine core e => Sys2Proof.Machine.execTileCombine core e s
  | .tileRetire core e cg => Sys2Proof.Machine.execTileRetire core e cg s
  | .reduceTileArrival core src => Sys2Proof.Machine.execReduceTileArrival core src s
  | .flitArrival stream => Sys2Proof.Machine.execFlitArrival stream s
  | .creditReturn stream => Sys2Proof.Machine.execCreditReturn stream s
  | .beatRestoration core beat => Sys2Proof.Machine.execBeatRestoration core beat s
  | .fldSplitWrite port core v => Sys2Proof.Machine.execFldSplitWrite port core v s
  | .splitChangeComplete core => Sys2Proof.Machine.execSplitChangeComplete core s
  | .regionTableWrite port ix lim v => Sys2Proof.Machine.execRegionTableWrite port ix lim v s
  | .cacheProbe stack v => Sys2Proof.Machine.execCacheProbe stack v s
  | .flushWriteBack stack v => Sys2Proof.Machine.execFlushWriteBack stack v s
  | .flushWriteBackInvalidate stack v => Sys2Proof.Machine.execFlushWriteBackInvalidate stack v s
  | .flushInvalidate stack v => Sys2Proof.Machine.execFlushInvalidate stack v s
  | .flushComplete stack => Sys2Proof.Machine.execFlushComplete stack s
  | .sliceRequest idx => Sys2Proof.Machine.execSliceRequest idx s
  | .lineFill line => Sys2Proof.Machine.execLineFill line s
  | .redApply line => Sys2Proof.Machine.execRedApply line s
  | .skimDrop line => Sys2Proof.Machine.execSkimDrop line s
  | .writeBackIssue line => Sys2Proof.Machine.execWriteBackIssue line s
  | .writeBackAck line => Sys2Proof.Machine.execWriteBackAck line s
  | .memoryRead ctl idx => Sys2Proof.Machine.execMemoryRead ctl idx s
  | .memoryWrite ctl idx => Sys2Proof.Machine.execMemoryWrite ctl idx s
  | .controllerLevelUpdate ctl => Sys2Proof.Machine.execControllerLevelUpdate ctl s
  | .classStepDecay req cls => Sys2Proof.Machine.execClassStepDecay req cls s
  | .patrolScrub flit => Sys2Proof.Machine.execPatrolScrub flit s
  | .calibrationWindowOpen ctl => Sys2Proof.Machine.execCalibrationWindowOpen ctl s
  | .calibrationWindowClose ctl => Sys2Proof.Machine.execCalibrationWindowClose ctl s
  | .chunkFillComplete chunk => Sys2Proof.Machine.execChunkFillComplete chunk s
  | .descriptorStart m q => Sys2Proof.Machine.execDescriptorStart m q s
  | .descriptorCopy m q idx => Sys2Proof.Machine.execDescriptorCopy m q idx s
  | .descriptorRelease m q idx => Sys2Proof.Machine.execDescriptorRelease m q idx s
  | .descriptorFence m q idx => Sys2Proof.Machine.execDescriptorFence m q idx s
  | .peerw m q idx => Sys2Proof.Machine.execPeerw m q idx s
  | .descriptorComplete m q idx => Sys2Proof.Machine.execDescriptorComplete m q idx s
  | .wackTimeout m q idx => Sys2Proof.Machine.execWackTimeout m q idx s
  | .waveStart prefill => Sys2Proof.Machine.execWaveStart prefill s
  | .waveBoundary sampled => Sys2Proof.Machine.execWaveBoundary sampled s
  | .backfillIssue core e => Sys2Proof.Machine.execBackfillIssue core e s
  | .gapEnd core => Sys2Proof.Machine.execGapEnd core s
  | .checkpointCommit wave layer => Sys2Proof.Machine.execCheckpointCommit wave layer s
  | .layerReplay wave layer => Sys2Proof.Machine.execLayerReplay wave layer s
  | .pageRegeneration page => Sys2Proof.Machine.execPageRegeneration page s
  | .degradedMeasurement period => Sys2Proof.Machine.execDegradedMeasurement period s
  | .kvAppend q lane key val => Sys2Proof.Machine.execKvAppend q lane key val s
  | .stagedPageAttend q x => Sys2Proof.Machine.execStagedPageAttend q x s
  | .partialMerge q => Sys2Proof.Machine.execPartialMerge q s
  | .reserveTopUp q => Sys2Proof.Machine.execReserveTopUp q s
  | .pageDemotion cluster => Sys2Proof.Machine.execPageDemotion cluster s
  | .demotionComplete page => Sys2Proof.Machine.execDemotionComplete page s
  | .coreFailover core stall => Sys2Proof.Machine.execCoreFailover core stall s
  | .missedHeartbeat core => Sys2Proof.Machine.execMissedHeartbeat core s
  | .plannedFailover core => Sys2Proof.Machine.execPlannedFailover core s
  | .plannedFailoverSwitch cluster stall => Sys2Proof.Machine.execPlannedFailoverSwitch cluster stall s
  | .rotation cluster => Sys2Proof.Machine.execRotation cluster s
  | .fieldLoss core stall => Sys2Proof.Machine.execFieldLoss core stall s
  | .flitParityFailure path => Sys2Proof.Machine.execFlitParityFailure path s
  | .ringEdgeFailure edge => Sys2Proof.Machine.execRingEdgeFailure edge s
  | .coreReset core => Sys2Proof.Machine.execCoreReset core s
  | .baseLogicReset stack stall => Sys2Proof.Machine.execBaseLogicReset stack stall s
  | .forcedBaseLogicReset stack => Sys2Proof.Machine.execForcedBaseLogicReset stack s
  | .stackReset stack => Sys2Proof.Machine.execStackReset stack s
  | .wholeDeviceRecovery => Sys2Proof.Machine.execWholeDeviceRecovery s
  | .recoveryResume stall => Sys2Proof.Machine.execRecoveryResume stall s
  | .hang => Sys2Proof.Machine.execHang s
  | .churn c => Sys2Proof.Machine.execChurn c s
  | .lifeRecordWrite => Sys2Proof.Machine.execLifeRecordWrite s
  | .powerWindow m => Sys2Proof.Machine.execPowerWindow m s
  | .chatter stack => Sys2Proof.Machine.execChatter stack s
  | .chatterSkipEnd stack => Sys2Proof.Machine.execChatterSkipEnd stack s
  | .moduleLoss mdl => Sys2Proof.Machine.execModuleLoss mdl s
  | .thermalTrip die temp => Sys2Proof.Machine.execThermalTrip die temp s
  | .hintLeadExpiry => Sys2Proof.Machine.execHintLeadExpiry s
  | .flashWriteResume => Sys2Proof.Machine.execFlashWriteResume s
  | .flashRecordWrite settings => Sys2Proof.Machine.execFlashRecordWrite settings s
  | .pllLossOfLock loss => Sys2Proof.Machine.execPllLossOfLock loss s
  | .resetLAssert auxCycles => Sys2Proof.Machine.execResetLAssert auxCycles s
  | .resetLDeassert auxCycles => Sys2Proof.Machine.execResetLDeassert auxCycles s
  | .pwrgdInLow auxCycles => Sys2Proof.Machine.execPwrgdInLow auxCycles s
  | .pwrgdInHigh auxCycles => Sys2Proof.Machine.execPwrgdInHigh auxCycles s
  | .perstAssert port auxCycles => Sys2Proof.Machine.execPerstAssert port auxCycles s
  | .perstDeassert port auxCycles => Sys2Proof.Machine.execPerstDeassert port auxCycles s
  | .bringupStageComplete r => Sys2Proof.Machine.execBringupStageComplete r s
  | .hostLinkDown port => Sys2Proof.Machine.execHostLinkDown port s
  | .leaseTimeout => Sys2Proof.Machine.execLeaseTimeout s
  | .frameReceive quad frame => Sys2Proof.Machine.execFrameReceive quad frame s
  | .lackTimeout quad => Sys2Proof.Machine.execLackTimeout quad s
  | .retrainComplete quad ok rate width => Sys2Proof.Machine.execRetrainComplete quad ok rate width s
  | .submissionDoorbell ix w entries => Sys2Proof.Machine.execSubmissionDoorbell ix w entries s
  | .completionDoorbell ix w => Sys2Proof.Machine.execCompletionDoorbell ix w s
  | .outputDoorbell ix w => Sys2Proof.Machine.execOutputDoorbell ix w s
  | .eventDoorbell ix w => Sys2Proof.Machine.execEventDoorbell ix w s
  | .ringEnable port r v => Sys2Proof.Machine.execRingEnable port r v s
  | .ringDisable port r v => Sys2Proof.Machine.execRingDisable port r v s
  | .traceRingEnable port v => Sys2Proof.Machine.execTraceRingEnable port v s
  | .hostLoad c img readOk => Sys2Proof.Machine.execHostLoad c img readOk s
  | .hostUnload c => Sys2Proof.Machine.execHostUnload c s
  | .hostOpen c => Sys2Proof.Machine.execHostOpen c s
  | .hostClose c => Sys2Proof.Machine.execHostClose c s
  | .hostFeed c data readOk tokens => Sys2Proof.Machine.execHostFeed c data readOk tokens s
  | .hostHint c => Sys2Proof.Machine.execHostHint c s
  | .hostTier c descs readOk => Sys2Proof.Machine.execHostTier c descs readOk s
  | .hostLend c => Sys2Proof.Machine.execHostLend c s
  | .hostReclaim c => Sys2Proof.Machine.execHostReclaim c s
  | .hostLeaseQuery c => Sys2Proof.Machine.execHostLeaseQuery c s
  | .hostLeaseTake c => Sys2Proof.Machine.execHostLeaseTake c s
  | .hostLeaseRelease c => Sys2Proof.Machine.execHostLeaseRelease c s
  | .hostLeaseRenew c => Sys2Proof.Machine.execHostLeaseRenew c s
  | .hostSave c => Sys2Proof.Machine.execHostSave c s
  | .hostDrop c => Sys2Proof.Machine.execHostDrop c s
  | .hostXread c => Sys2Proof.Machine.execHostXread c s
  | .hostXwrite c data readOk => Sys2Proof.Machine.execHostXwrite c data readOk s
  | .hostSync c => Sys2Proof.Machine.execHostSync c s
  | .hostSelftest c failed pipesFailed links bonds => Sys2Proof.Machine.execHostSelftest c failed pipesFailed links bonds s
  | .hostCap c => Sys2Proof.Machine.execHostCap c s
  | .hostSettime c => Sys2Proof.Machine.execHostSettime c s
  | .hostDumpread c => Sys2Proof.Machine.execHostDumpread c s
  | .bmcCap watts => Sys2Proof.Machine.execBmcCap watts s
  | .hdmRead port pa len => Sys2Proof.Machine.execHdmRead port pa len s
  | .hdmWrite port pa mask data => Sys2Proof.Machine.execHdmWrite port pa mask data s
  | .vmodeWrite port core v => Sys2Proof.Machine.execVmodeWrite port core v s
  | .waveCtlWrite port v => Sys2Proof.Machine.execWaveCtlWrite port v s
  | .flipArm port v => Sys2Proof.Machine.execFlipArm port v s
  | .wdogDump port v => Sys2Proof.Machine.execWdogDump port v s
  | .dumpRelease port v => Sys2Proof.Machine.execDumpRelease port v s
  | .mbxWrite port v => Sys2Proof.Machine.execMbxWrite port v s
  | .mbxCommit port v verified => Sys2Proof.Machine.execMbxCommit port v verified s
  | .mbxSelect port v => Sys2Proof.Machine.execMbxSelect port v s
  | .laneNextWrite port v => Sys2Proof.Machine.execLaneNextWrite port v s
  | .chkConfigWrite port n reg v => Sys2Proof.Machine.execChkConfigWrite port n reg v s
  | .grnProbe port v => Sys2Proof.Machine.execGrnProbe port v s
  | .registerWrite port off bytes a => Sys2Proof.Machine.execRegisterWrite port off bytes a s
  | .getVersion t => Sys2Proof.Machine.execGetVersion t s
  | .getCapabilities t => Sys2Proof.Machine.execGetCapabilities t s
  | .negotiateAlgorithms t a => Sys2Proof.Machine.execNegotiateAlgorithms t a s
  | .getDigests t => Sys2Proof.Machine.execGetDigests t s
  | .getCertificate t slot off len => Sys2Proof.Machine.execGetCertificate t slot off len s
  | .challenge t slot nonce => Sys2Proof.Machine.execChallenge t slot nonce s
  | .getMeasurements t idx nonce => Sys2Proof.Machine.execGetMeasurements t idx nonce s
  | .keyExchange t group slot => Sys2Proof.Machine.execKeyExchange t group slot s
  | .finish t sid ok => Sys2Proof.Machine.execFinish t sid ok s
  | .endSession t sid => Sys2Proof.Machine.execEndSession t sid s
  | .keyUpdate t sid => Sys2Proof.Machine.execKeyUpdate t sid s
  | .heartbeat t sid => Sys2Proof.Machine.execHeartbeat t sid s
  | .vendorDefinedRequest t sid cacheMemKeys => Sys2Proof.Machine.execVendorDefinedRequest t sid cacheMemKeys s
  | .refclkPresent => Sys2Proof.Machine.execRefclkPresent s
  | .hostLinkUp port => Sys2Proof.Machine.execHostLinkUp port s
  | .vauxLoss => Sys2Proof.Machine.execVauxLoss s
  | .msiXMessage vec => Sys2Proof.Machine.execMsiXMessage vec s
  | .hostSnoop port addr => Sys2Proof.Machine.execHostSnoop port addr s
  | .smbusFallback => Sys2Proof.Machine.execSmbusFallback s
  | .mctpFirmwareImage bytes => Sys2Proof.Machine.execMctpFirmwareImage bytes s
  | .mctpMessageCollect => Sys2Proof.Machine.execMctpMessageCollect s

end Sys2Proof.Machine
end

