-- ==== Sys2Proof/Machine/Step.lean ====
section
/-!
DEFINITION. Step.lean: one step of the block: the front command of the queue, or one tick of device time.
-/
namespace Sys2Proof.Machine

/-- One tick of 1.25 ns: device time advances while REFCLK is present (R775, notes/assumptions/1.md). -/
def State.tick (s : State) : State := if s.pins.refclk then { s with time := s.time + 1 } else s

/-- Take the command at the front of the queue and run it on the state with the queue's rest; on an empty
queue the block idles for one tick. -/
def step (s : State) : Host.Outcome State Fault Refusal :=
  match s.pending with
  | [] => .next s.tick
  | c :: rest => exec c { s with pending := rest }

/-- The state with the command that a word spells put at the front of the queue. -/
def State.withFetchWord (s : State) (nbits w : Nat) : State :=
  match decodeTableWord nbits w with
  | some c => { s with pending := c :: s.pending }
  | none => s

end Sys2Proof.Machine
end

