-- ==== Sys2Proof/Safety.lean ====
section
/-!
DEFINITION. Safety.lean: what a safe run is, the invariant of the state, and the words in which the claims are stated.
-/
namespace Sys2Proof.Machine

/-- Every memory of the state is in canonical form. -/
abbrev State.memOk (s : State) : Prop :=
  Memory.wf s.mem.bytes ∧ Memory.wf s.mem.flips ∧ Memory.wf s.mem.chk ∧
  Memory.wf s.cmem.bytes ∧ Memory.wf s.cmem.flips ∧ Memory.wf s.cmem.chk ∧ Memory.wf s.host

/-- A step is safe when it answers a next state. -/
def safeStep (s : State) : Prop := ∃ t, step s = .next t

/-! Station code. -/

/-- The operands of each station-code instruction as R388 to R424 give them: what DST, SRCA and SRCB name and which
bits of IMM must be zero. -/
def useOf : Instr → Option (Issue × Fields × Use)
  | .nop u f => some (u, f, noUse)
  | .br u f => some (u, f, { noUse with rsv := 0 })
  | .beq u f | .bne u f | .blt u f | .bge u f | .bltu u f | .bgeu u f =>
    some (u, f, { noUse with a := .scalar, b := .scalar, rsv := 0 })
  | .bpz u f | .bpnz u f => some (u, f, { noUse with a := .pred, rsv := 0 })
  | .jal u f => some (u, f, { noUse with dst := .scalar, rsv := 0 })
  | .jr u f => some (u, f, { noUse with a := .scalar })
  | .fence u f => some (u, f, { noUse with rsv := ones 33 3 })
  | .wnext u f => some (u, f, { noUse with dst := .scalar })
  | .wbar u f => some (u, f, { noUse with rsv := ones 32 8 })
  | .gap u f => some (u, f, { noUse with rsv := ones 33 16 })
  | .hint u f => some (u, f, { noUse with rsv := ones 33 32 })
  | .add u f | .sub u f | .mul u f | .mulh u f | .and u f | .or u f | .xor u f | .shl u f | .shr u f | .sra u f
  | .slt u f | .sltu u f | .min u f | .max u f | .movh u f => some (u, f, aluUse f)
  | .mrs u f => some (u, f, { noUse with dst := .scalar, rsv := ones 33 8 })
  | .msr u f => some (u, f, { noUse with a := .scalar, rsv := ones 33 8 })
  | .vadd u f | .vsub u f | .vmul u f | .vdiv u f | .vmin u f | .vmax u f | .vminn u f | .vmaxn u f =>
    some (u, f, fpUse f 2)
  | .vfma u f | .vfms u f => some (u, f, fpUse f 3)
  | .vsqrt u f | .vrint u f | .vexp2 u f | .vrcp u f | .vrsq u f | .vlog2 u f => some (u, f, fpUse f 1)
  | .vcmp u f => some (u, f, { noUse with dst := .pred, a := .vector, b := kindB f, rsv := ones 17 0 ||| ones 27 22 })
  | .vcvt u f => some (u, f, cvtUse f)
  | .viadd u f | .visub u f | .vimul u f | .vand u f | .vor u f | .vxor u f | .vshl u f | .vshr u f | .vsra u f
  | .vimin u f | .vimax u f | .vsel u f | .vperm u f =>
    some (u, f, { noUse with dst := .vector, a := .vector, b := kindB f, rsv := ones 20 0 ||| ones 27 22 })
  | .vmov u f =>
    some (u, f, { noUse with dst := .vector, a := if immBit f 21 then .unused else .vector,
                             b := if immBit f 21 then .scalar else .unused, rsv := ones 20 0 ||| ones 27 22 })
  | .vrsum u f | .vrmax u f | .vrmin u f =>
    some (u, f, { noUse with dst := .vector, a := .vector, rsv := ones 20 0 ||| ones 27 22 })
  | .vext u f => some (u, f, { noUse with dst := .scalar, a := .vector, rsv := ones 20 6 ||| ones 27 22 })
  | .vins u f => some (u, f, { noUse with dst := .vector, b := .scalar, rsv := ones 20 6 ||| ones 27 22 })
  | .plog u f => some (u, f, { noUse with dst := .pred, a := .pred, b := .pred, rsv := ones 18 0 ||| ones 27 22 })
  | .pset u f => some (u, f, { noUse with dst := .pred, a := .scalar, rsv := ones 20 0 ||| ones 27 22 })
  | .pget u f => some (u, f, { noUse with dst := .scalar, a := .pred, rsv := ones 20 0 ||| ones 27 22 })
  | .eld u f =>
    some (u, f, { noUse with a := if immBit f 32 then .unused else .scalar,
                             rsv := if immBit f 32 then ones 19 0 else ones 23 20 })
  | .ews u f => some (u, f, { noUse with a := .scalar, rsv := ones 24 16 })
  | .edr u f => some (u, f, { noUse with dst := .vector, b := .vector, rsv := ones 32 0 })
  | .ecf u f => some (u, f, { noUse with rsv := ones 25 0 })
  | .rcx u f => some (u, f, { noUse with b := .vector, rsv := 1 })
  | .ldf u f => some (u, f, memUse true f (ones 30 30 ||| ones 28 28))
  | .stf u f => some (u, f, memUse false f (ones 30 30 ||| ones 28 28))
  | .ldc u f => some (u, f, memUse true f (ones 28 28))
  | .stc u f => some (u, f, memUse false f (ones 30 30 ||| ones 28 28))
  | .red u f => some (u, f, { noUse with a := .scalar, b := .vector, rsv := 0 })
  | .chuck u f => some (u, f, { noUse with dst := .scalar, a := .scalar, b := .scalar, rsv := ones 21 0 })
  | .unchuck u f => some (u, f, { noUse with rsv := ones 27 0 })
  | .cwb u f => some (u, f, { noUse with a := .scalar, b := .scalar, rsv := ones 33 2 })
  | .lds u f => some (u, f, memUse true f (ones 30 30 ||| ones 28 20))
  | .sts u f => some (u, f, memUse false f (ones 30 30 ||| ones 28 20))
  | .hst u f =>
    some (u, f, { noUse with a := .scalar, b := .vector,
                             rsv := ones 30 30 ||| ones 26 25 ||| (if immBit f 29 then ones 28 27 else 0) })
  | .srx u f => some (u, f, { noUse with dst := .vector, rsv := ones 27 0 })
  | .stx u f => some (u, f, { noUse with a := .vector, rsv := ones 27 0 })
  | .swt u f => some (u, f, { noUse with rsv := ones 29 14 })
  | .hset u f => some (u, f, { noUse with rsv := ones 28 16 })
  | .acfg u f => some (u, f, { noUse with a := .scalar, rsv := ones 32 20 })
  | .astart u f => some (u, f, { noUse with a := .scalar, rsv := ones 14 0 })
  | .tmv u f => some (u, f, { noUse with a := .scalar, rsv := ones 28 20 })
  | .gln u f => some (u, f, { noUse with dst := .scalar, a := .scalar, rsv := 0 })
  | .gwt u f => some (u, f, { noUse with dst := .scalar, a := .scalar })
  | _ => none

/-- The context may issue and the instruction's operands are in order: it is live, its encoding is legal and none of
its operands awaits a result (R387, R425 to R427). -/
def State.canIssue (s : State) (u : Issue) (f : Fields) (use : Use) : Prop :=
  s.coreLive u.core.val = true ∧ (s.at u).issuing = true ∧ use.fault f = none ∧ use.hazard f (s.at u) = false

/-- A station-code instruction that its context may issue now. -/
def State.issues (s : State) (i : Instr) : Prop :=
  match useOf i with
  | some (u, f, use) => s.canIssue u f use
  | none => False

/-- The address of the next instruction. -/
def State.nextPc (s : State) (u : Issue) : Int := (s.at u).pc.toNat + 8

/-- What follows the effect of every station-code instruction that completes: the issue is counted (R762), the PC is
set (R390), and the context's waits are looked at again (R427). -/
def State.afterIssue (t : State) (u : Issue) (pc : Int) : State :=
  ((t.count (0x100 + u.core.val) 9 1).goTo u.core.val u.ctx pc).settleCtx u.core.val u.ctx

/-! Thread groups. -/

/-- The operands of each group instruction as R453 to R458 give them, with the second registers of its pairs. -/
def groupUseOf : Instr → Option (GIssue × Fields × GUse × List Nat)
  | .gnop g f | .rcv g f | .gexit g f | .gfence g f => some (g, f, noG, [])
  | .bra g f => some (g, f, { noG with rsv := 0 }, [])
  | .bru g f => some (g, f, { noG with a := .u, rsv := 0 }, [])
  | .brd g f => some (g, f, { noG with a := .t, rsv := 0 }, [])
  | .iadd g f | .isub g f | .imul g f | .groupAnd g f | .groupOr g f | .groupXor g f | .groupShl g f | .groupShr g f
  | .groupSra g f | .imin g f | .imax g f | .umin g f | .umax g f | .seq g f | .sne g f | .groupSlt g f
  | .groupSltu g f | .fadd g f | .fsub g f | .fmul g f | .fmin g f | .fmax g f | .feq g f | .flt g f | .fle g f
  | .f2h g f | .shfl g f => some (g, f, useAB, [])
  | .sel g f | .ffma g f => some (g, f, useABC, [])
  | .mov g f => some (g, f, { useAB with a := .unused }, [])
  | .fexp2 g f | .frcp g f | .flog2 g f | .i2f g f | .f2i g f => some (g, f, useA, [])
  | .h2f g f => some (g, f, { useA with rsv := gCC ||| gIB ||| gCLS ||| ones 23 21 ||| gIMM }, [])
  | .uadd g f | .usub g f | .umul g f | .uand g f | .uor g f | .uxor g f | .ushl g f | .ushr g f | .uslt g f =>
    some (g, f, { noG with dst := .u, a := .u, b := .u, ib := true, rsv := gCC ||| gCLS ||| gOP ||| gIMM }, [])
  | .umov g f => some (g, f, { noG with dst := .u, b := .u, ib := true, rsv := gCC ||| gCLS ||| gOP ||| gIMM }, [])
  | .uxt g f => some (g, f, { noG with dst := .u, a := .t, rsv := ones 33 5 }, [])
  | .ubc g f => some (g, f, { noG with dst := .t, a := .u }, [])
  | .vote g f => some (g, f, { noG with dst := .u, a := .t }, [])
  | .glds g f | .gsts g f => some (g, f, useStore, pairOf f)
  | .gldc g f | .gstc g f => some (g, f, useCached, pairOf f)
  | .gatom g f =>
    some (g, f, { dst := .t, a := .t, b := .t, c := if immBits f 23 20 = 8 then .t else .unused, ib := false,
                  rsv := gIB ||| gCLS ||| (if immBits f 23 20 = 8 then 0 else gCC) }, [])
  | .gred g f => some (g, f, { dst := .unused, a := .u, b := .t, c := .t, ib := false, rsv := gIB }, [])
  | .gmma g f =>
    some (g, f, { dst := .t, a := .t, b := .t, c := .t, ib := false, rsv := ones 27 0 },
      [f.dst.toNat + 1, immBits f 33 28 + 1])
  | .gspec g f => some (g, f, { noG with dst := if immBits f 3 0 = 0 then .t else .u, rsv := ones 33 4 }, [])
  | _ => none

/-- The subgroup b of a live context may issue: it does not wait at its RCV, the requests before its GFENCE are
acknowledged (R459, R461, R469), and back-fill finds no decode work ready (R309). -/
def State.subgroupReady (s : State) (g : GIssue) (b : Subgroup) : Prop :=
  (s.grp g.core.val g.gctx).sub? g.lane = some b ∧ s.coreLive g.core.val = true ∧
  (s.grp g.core.val g.gctx).busy = true ∧ (s.grp g.core.val g.gctx).killed = false ∧ b.atRcv = false ∧
  (∀ id, b.fence = some id → s.storesBefore g.core.val g.gctx.val id = false) ∧
  ¬ (s.asBackfill g.core.val (s.grp g.core.val g.gctx).owner = true ∧ s.decodeReady g.core.val = true)

/-- A group instruction that its subgroup b may issue now: no fault of its encoding, and none of its registers awaits
a load. -/
def State.groupIssues (s : State) (i : Instr) (b : Subgroup) : Prop :=
  match groupUseOf i with
  | some (g, f, w, pairs) => s.subgroupReady g b ∧ w.fault f = none ∧
      ∀ r ∈ w.regs f pairs, ∀ l, l < 32 → l * 64 + r ∉ (s.grp g.core.val g.gctx).pend
  | none => False

/-- What follows the effect of every group instruction that goes on at a PC: the issue is counted (R762) and the
subgroup takes the PC. -/
def State.afterGroup (t : State) (g : GIssue) (b : Subgroup) (x : GroupCtx) (pc : Int) : State :=
  (t.count (0x100 + g.core.val) 8 1).putGroup g.core.val g.gctx
    (x.putSub g.lane { b with fence := none, pc := BitVec.ofInt 20 pc })

/-- What a bundle does (R472, R473): the leading subgroup of an instruction and then its partners that may still issue, each by itself,
give the state and the context that eff answers, or a group fault, and go on with the next instruction; the issue is counted once. -/
def State.runBundle (s : State) (i : Instr) (eff : State → GIssue → GroupCtx → Subgroup → (State × GroupCtx) ⊕ Nat) : State :=
  match groupUseOf i with
  | none => s
  | some (g, f, w, pairs) =>
    let one (first : Bool) (t : State) (h : GIssue) : State :=
      let x := t.grp g.core.val h.gctx
      match x.sub? h.lane with
      | none => t
      | some b =>
        if !first && (!t.coreLive g.core.val || !t.subReady g.core.val h.gctx b || ((w.fault f).isNone &&
            (w.regs f pairs).any fun r => (List.range 32).any fun l => x.pend.contains (l * 64 + r))) then t
        else
        match eff t h x b with
        | .inr code => t.killGroup g.core.val h.gctx code b.pc.toNat
        | .inl r => (if first then r.1.count (0x100 + g.core.val) 8 1 else r.1).putGroup g.core.val h.gctx
            (r.2.putSub h.lane { b with fence := none, pc := BitVec.ofInt 20 (b.pc.toNat + 8) })
    (s.partners g f w pairs).foldl (one false) (one true s g)

/-- The same for an instruction that changes the subgroups itself. -/
def State.afterSplit (t : State) (g : GIssue) (x : GroupCtx) : State :=
  (t.count (0x100 + g.core.val) 8 1).putGroup g.core.val g.gctx x

/-! Host commands (R513, R514, R516, R542, R650). -/

/-- A logged command e takes effect now: it is in progress, or it is its turn, its port may give it, its reserved fields are
zero, and the device has not stopped for it. -/
def State.cmdTakes (s : State) (c : HostCmd) (opc : Nat) (masks : List Nat) (e : LogEntry) : Prop :=
  s.entryOf c = some e ∧ s.live = true ∧ c.opc.toNat = opc ∧
  (e.begun = true ∨ (s.turnOf c = true ∧ (freeToAll opc = true ∨ s.holder = some e.port) ∧ cmdFits c masks = true ∧
    (s.stopped = false ∨ runsStopped opc = true)))

end Sys2Proof.Machine
end

