-- ==== Sys2Proof/Certificates/Slice0/Obligations.lean ====
section
/-!
DEFINITION. Obligations.lean: the statements for the provers. Each docstring names the rules it states; what rests on a
choice of the model says so.
-/
open Sys2Proof Sys2Proof.Machine

/-- A step takes the command at the front of the queue and runs it with the rest of the queue -/
def Obligations.StepRunsFrontCommand : Prop :=
  (∀ (c : Instr) (rest : List Instr) (s : State),
    step { s with pending := c :: rest } = exec c { s with pending := rest }) ∧
  (∀ (c : Instr) (s : State) (t : State), s.pending = [] → exec c s = .next t →
    step { s with pending := [c] } = .next t)

/-- With no command waiting, a step is one tick of device time while REFCLK is present; that the idle step is a tick is the model's choice (notes/assumptions/1.md) -/
def Obligations.IdleStepAdvancesDeviceTime : Prop :=
  ∀ s : State, s.pending = [] →
    (s.pins.refclk = true → step s = .next { s with time := s.time + 1 }) ∧
    (s.pins.refclk = false → step s = .next s)

/-- After reset every register holds the value of its table, device time is 0 and bring-up is at stage 0 -/
def Obligations.ResetRegisterValues : Prop :=
  (∀ off : Nat, State.reset.reg off = regReset off) ∧
  State.reset.reg 0x0 = 0x0000000401100830#64 ∧ State.reset.reg 0x8 = 0x00100834020C0D0C#64 ∧
  (∀ n : Fin 624, State.reset.reg (offVMODE n.val) = 0x10#64 ∧
    State.reset.field (offSTN n.val + 0x880) 4 0 = (if n.val % 13 = 12 then 0 else 12)) ∧
  State.reset.field offHQ 15 8 = 10 ∧ State.reset.field (offERR + 8) 2 0 = 2 ∧
  State.reset.reg (offPWR + 8) = 0x079E079E00000000#64 ∧ State.reset.time = 0 ∧ State.reset.boot.running = some 0

/-- After reset every memory is in canonical form and no command waits; zero contents are the model's choice (notes/assumptions/4.md) -/
def Obligations.ResetMemoriesCanonical : Prop :=
  State.reset.memOk ∧ State.reset.pending = [] ∧
  (∀ a : Nat, memByte State.reset.mem.bytes a = 0#8 ∧ memByte State.reset.cmem.bytes a = 0#8)

/-- Every step keeps every memory in canonical form -/
def Obligations.EveryStepKeepsMemoriesCanonical : Prop :=
  ∀ s t : State, s.memOk → step s = .next t → t.memOk

/-- Station code: decode of encode is the instruction, and encode of decode is the word -/
def Obligations.StationWordsDecodeBack : Prop :=
  ∀ (i : Instr) (u : Issue) (c : BitVec 12) (f : Fields), stationParts i = some (u, c, f) →
    decodeStation u (wordOf c f) = some i ∧ encodeStation i = some (wordOf c f) ∧
    ∀ (w : BitVec 64) (j : Instr), decodeStation u w = some j → encodeStation j = some w

/-- Group code: decode of encode is the instruction, and encode of decode is the word -/
def Obligations.GroupWordsDecodeBack : Prop :=
  ∀ (i : Instr) (g : GIssue) (c : BitVec 12) (f : Fields), groupParts i = some (g, c, f) →
    decodeGroup g (wordOf c f) = some i ∧ encodeGroup i = some (wordOf c f) ∧
    ∀ (w : BitVec 64) (j : Instr), decodeGroup g w = some j → encodeGroup j = some w

/-- The worked words of the specification decode to the instructions that they stand for -/
def Obligations.SpecWordsDecode : Prop :=
  ∀ u : Issue,
    decodeStation u 0x40000001FE300000#64 =
      some (.eld u { dst := 0#6, srca := 0#6, srcb := 0#6, imm := 0x1FE300000#34 }) ∧
    decodeStation u 0x40000003FE400000#64 =
      some (.eld u { dst := 0#6, srca := 0#6, srcb := 0#6, imm := 0x3FE400000#34 }) ∧
    decodeStation u 0x40100900BE004000#64 =
      some (.ews u { dst := 0#6, srca := 9#6, srcb := 0#6, imm := 0x0BE004000#34 }) ∧
    decodeStation u 0x40100902BE0040CC#64 =
      some (.ews u { dst := 0#6, srca := 9#6, srcb := 0#6, imm := 0x2BE0040CC#34 }) ∧
    decodeStation u 0x40400031800028BE#64 =
      some (.rcx u { dst := 0#6, srca := 0#6, srcb := 12#6, imm := 0x1800028BE#34 })

/-- A context that is idle, stopped, held, waiting or lacks an operand issues nothing -/
def Obligations.StationCodeHeldWhenNotIssuing : Prop :=
  ∀ (i : Instr) (u : Issue) (f : Fields) (use : Use) (s : State), useOf i = some (u, f, use) →
    (s.coreLive u.core.val = false ∨ (s.at u).active = false ∨ (s.at u).stopped = true ∨ (s.at u).held = true ∨
      (s.at u).wait ≠ .none ∨ (use.fault f = none ∧ use.hazard f (s.at u) = true)) →
    exec i s = .next s

/-- A nonzero unused operand is program fault ILL, a register number out of range program fault REG; that ILL comes first is the model's reading (notes/assumptions/8.md) -/
def Obligations.StationEncodingFaults : Prop :=
  ∀ (i : Instr) (u : Issue) (f : Fields) (use : Use) (s : State), useOf i = some (u, f, use) →
    s.coreLive u.core.val = true → (s.at u).issuing = true →
    let bad (k : RegKind) (r : BitVec 6) : Prop := (k = .scalar ∧ 32 ≤ r.toNat) ∨ (k = .pred ∧ 8 ≤ r.toNat)
    let unused : Prop := (use.dst = .unused ∧ f.dst ≠ 0#6) ∨ (use.a = .unused ∧ f.srca ≠ 0#6) ∨
      (use.b = .unused ∧ f.srcb ≠ 0#6) ∨ f.imm.toNat &&& use.rsv ≠ 0
    let large : Prop := bad use.dst f.dst ∨ bad use.a f.srca ∨ bad use.b f.srcb
    (unused → exec i s = .next (s.programFault u.core.val u.ctx 1 (s.at u).pc.toNat)) ∧
    (large → ¬ unused → exec i s = .next (s.programFault u.core.val u.ctx 2 (s.at u).pc.toNat)) ∧
    (¬ unused → ¬ large → use.fault f = none)

/-- A program fault stops its context alone and the first one is recorded in STN_SEQ_FLT and STN_SEQ_FLTW -/
def Obligations.ProgramFaultStopsContext : Prop :=
  ∀ (s : State) (n : Fin 624) (c : Ctx) (code pc : Nat), code < 16 → pc < 2 ^ 20 →
    (c, BitVec.ofNat 20 pc) ∉ (s.core n.val).faults →
    let t := s.programFault n.val c code pc
    (t.ctx n.val c).stopped = true ∧
    (∀ (m : Nat) (d : Ctx), (m, d) ≠ (n.val, c) → t.ctx m d = s.ctx m d) ∧
    (t.core n.val).faults = (s.core n.val).faults ++ [(c, BitVec.ofNat 20 pc)] ∧
    (s.bit (offSTN n.val + 8) 63 = true → t.reg (offSTN n.val + 8) = s.reg (offSTN n.val + 8) ∧
      t.reg (offSTN n.val + 0x18) = s.reg (offSTN n.val + 0x18)) ∧
    (s.bit (offSTN n.val + 8) 63 = false → t.bit (offSTN n.val + 8) 63 = true ∧
      t.field (offSTN n.val + 8) 35 32 = code ∧ t.field (offSTN n.val + 8) 19 0 = pc ∧
      t.bit (offSTN n.val + 8) 40 = decide (c = .p) ∧
      t.reg (offSTN n.val + 0x18) = BitVec.ofNat 64 (fieldOf (s.ctx n.val c).waveWord 47 0)) ∧
    (∀ off : Nat, off ≠ offSTN n.val + 8 → off ≠ offSTN n.val + 0x18 → t.reg off = s.reg off) ∧
    t.mem = s.mem ∧ t.cmem = s.cmem ∧ t.host = s.host ∧ t.waves = s.waves ∧ t.streams = s.streams

/-- What follows an instruction's effect moves the PC of its context and counts the issue, and nothing else -/
def Obligations.IssueAdvancesPcAndChangesNothingElse : Prop :=
  ∀ (t : State) (u : Issue) (pc : Int), (t.at u).pcOk pc = true → (t.at u).wait = .none → (t.at u).wbars = [] →
    tabGetD t.cnt.vals ((0x100 + u.core.val) * 256 + 9) 0 + 1 < 2 ^ 48 →
    let r := t.afterIssue u pc
    r.at u = { t.at u with pc := BitVec.ofInt 20 pc } ∧
    (∀ (m : Nat) (d : Ctx), (m, d) ≠ (u.core.val, u.ctx) → r.ctx m d = t.ctx m d) ∧
    tabGetD r.cnt.vals ((0x100 + u.core.val) * 256 + 9) 0 =
      tabGetD t.cnt.vals ((0x100 + u.core.val) * 256 + 9) 0 + 1 ∧
    r.regs = t.regs ∧ r.mem = t.mem ∧ r.cmem = t.cmem ∧ r.host = t.host ∧ r.streams = t.streams ∧
    r.waves = t.waves ∧ r.reqs = t.reqs ∧ r.lines = t.lines ∧ r.pipes = t.pipes ∧ r.movers = t.movers ∧
    r.seqs = t.seqs ∧ r.evLog = t.evLog ∧ r.outbox = t.outbox ∧ r.time = t.time ∧ r.pending = t.pending

/-- A PC outside the program region of its context, or not a multiple of 8, is program fault PC -/
def Obligations.PcOutsideProgramFaults : Prop :=
  ∀ (t : State) (n : Nat) (c : Ctx) (pc : Int),
    let m := t.setCtx n c { t.ctx n c with pc := BitVec.ofInt 20 pc }
    let x := t.ctx n c
    ((pc < x.lo ∨ (x.hi : Int) ≤ pc ∨ pc % 8 ≠ 0) →
      t.goTo n c pc = m.programFault n c 10 (BitVec.ofInt 20 pc).toNat) ∧
    ((x.lo : Int) ≤ pc → pc < x.hi → pc % 8 = 0 → t.goTo n c pc = m)

/-- a0 reads zero and p0 all ones whatever is written; every other register keeps what is written and its neighbours -/
def Obligations.HardwiredRegisters : Prop :=
  ∀ (x : Context) (v : Word) (po : Bool) (i : Nat), i < 32 →
    x.getA 0 = 0#64 ∧ x.poisA 0 = false ∧ x.setA 0 v po = x ∧ x.getP 0 = BitVec.allOnes 64 ∧ x.setP 0 v = x ∧
    (0 < i → (x.setA i v po).getA i = v ∧ (x.setA i v po).poisA i = po ∧
      ∀ j, j < 32 → j ≠ i → (x.setA i v po).getA j = x.getA j ∧ (x.setA i v po).poisA j = x.poisA j) ∧
    (0 < i → i < 8 → (x.setP i v).getP i = v ∧ ∀ j, j < 8 → j ≠ i → (x.setP i v).getP j = x.getP j)

/-- NOP, BR, the conditional branches, JAL and JR set the PC as their table says -/
def Obligations.BranchesAndJumps : Prop :=
  ∀ (u : Issue) (f : Fields) (s : State),
    let x := s.at u
    let a := x.getA f.srca.toNat
    let b := x.getA f.srcb.toNat
    let dest : Int := x.pc.toNat + 8 * f.imm.toInt
    let on : Int := x.pc.toNat + 8
    let s' := s.taintIf u (x.poisA f.srca.toNat || x.poisA f.srcb.toNat)
    (s.issues (.nop u f) → exec (.nop u f) s = .next (s.afterIssue u on)) ∧
    (s.issues (.br u f) → exec (.br u f) s = .next (s.afterIssue u dest)) ∧
    (s.issues (.beq u f) → exec (.beq u f) s = .next (s'.afterIssue u (if a = b then dest else on))) ∧
    (s.issues (.bne u f) → exec (.bne u f) s = .next (s'.afterIssue u (if a = b then on else dest))) ∧
    (s.issues (.blt u f) → exec (.blt u f) s = .next (s'.afterIssue u (if a.toInt < b.toInt then dest else on))) ∧
    (s.issues (.bge u f) → exec (.bge u f) s = .next (s'.afterIssue u (if a.toInt < b.toInt then on else dest))) ∧
    (s.issues (.bltu u f) → exec (.bltu u f) s = .next (s'.afterIssue u (if a.toNat < b.toNat then dest else on))) ∧
    (s.issues (.bgeu u f) → exec (.bgeu u f) s = .next (s'.afterIssue u (if a.toNat < b.toNat then on else dest))) ∧
    (s.issues (.bpz u f) → exec (.bpz u f) s =
      .next (s.afterIssue u (if x.getP f.srca.toNat = 0#64 then dest else on))) ∧
    (s.issues (.bpnz u f) → exec (.bpnz u f) s =
      .next (s.afterIssue u (if x.getP f.srca.toNat = 0#64 then on else dest))) ∧
    (s.issues (.jal u f) → exec (.jal u f) s =
      .next ((s.setCtx u.core.val u.ctx (x.setA f.dst.toNat (BitVec.ofInt 64 on) false)).afterIssue u dest)) ∧
    (s.issues (.jr u f) → exec (.jr u f) s =
      .next ((s.taintIf u (x.poisA f.srca.toNat)).afterIssue u (a.toNat : Int)))

/-- FENCE, WNEXT, WBAR and GAP issue and put their context in the wait that their rule gives -/
def Obligations.WaitingInstructionsIssue : Prop :=
  ∀ (u : Issue) (f : Fields) (s : State),
    let x := s.at u
    let n := u.core.val
    (s.issues (.fence u f) → exec (.fence u f) s =
      .next ((s.setCtx n u.ctx { x with wait := .fence (BitVec.ofNat 3 (f.imm.toNat % 8)) }).afterIssue u (s.nextPc u))) ∧
    (s.issues (.wnext u f) → exec (.wnext u f) s =
      .next ((s.setCtx n u.ctx { x with taint := false, wait := .wnext f.dst.toNat }).afterIssue u (s.nextPc u))) ∧
    (s.issues (.gap u f) → u.ctx = .d → 320 ≤ f.imm.toNat % 65536 → exec (.gap u f) s =
      .next ((s.setCtx n u.ctx { x with wait := .gap (f.imm.toNat % 65536) }).afterIssue u (s.nextPc u))) ∧
    (s.issues (.gap u f) → (u.ctx = .p ∨ f.imm.toNat % 65536 < 320) → exec (.gap u f) s =
      .next (s.programFault n u.ctx 1 x.pc.toNat)) ∧
    (s.issues (.wbar u f) →
      let t := s.keepSave n u.ctx (f.imm.toNat % 256) (s.ctxSave n u.ctx (x.pc + 8#20))
      exec (.wbar u f) s = .next ((t.setCtx n u.ctx
        (if f.imm.getLsbD 33 then { x with wait := .wbar (f.imm.toNat % 256) }
         else { x with wbars := x.wbars ++ [f.imm.toNat % 256] })).afterIssue u (s.nextPc u)))

/-- A FENCE, a GAP and a WNEXT hold their context until their condition holds, and WNEXT then writes the wave -/
def Obligations.WaitsEndWhenTheirConditionHolds : Prop :=
  ∀ (s : State) (n : Nat) (c : Ctx),
    let x := s.ctx n c
    let t := s.settleCtx n c
    x.stopped = false → x.held = false → x.wbars = [] →
    (∀ b : BitVec 3, x.wait = .fence b →
      (t.ctx n c).wait =
        if (b.getLsbD 0 = true ∧ s.loadsOpen n c = true) ∨ (b.getLsbD 1 = true ∧ s.storesOpen n c = true) ∨
          (b.getLsbD 2 = true ∧ s.sendsOpen n c = true) then .fence b else .none) ∧
    (∀ len : Nat, x.wait = .gap len →
      ((s.core n).gap = none → (t.ctx n c).wait = .none ∧ (t.core n).gap = some len) ∧
      ((s.core n).gap ≠ none → t = s)) ∧
    (∀ rd : Nat, x.wait = .wnext rd → 0 < rd → rd < 32 →
      (s.nextWaveOf n c = none → t = s) ∧
      (∀ w : Wave, s.nextWaveOf n c = some w → w ∈ s.waves ∧ w.prefill = decide (c = .p) ∧
        (x.inWave = true → fieldOf x.waveWord 47 0 < w.num.toNat) ∧
        let y := t.ctx n c
        y.wait = .none ∧ y.inWave = true ∧ y.getA rd = y.waveWord ∧ y.poisA rd = false ∧
        fieldOf y.waveWord 47 0 = w.num.toNat ∧ fieldOf y.waveWord 55 48 = w.mask.toNat ∧
        bitOf y.waveWord 56 = w.prefill ∧ fieldOf y.waveWord 63 57 = 0 ∧ y.pc = x.pc ∧
        ∀ j, j < 32 → j ≠ rd → y.getA j = x.getA j))

/-- A station HINT acts on power control from context D of S0.C0.K0 alone; reserved kinds are program fault ILL -/
def Obligations.StationHintActsOnPowerControl : Prop :=
  ∀ (u : Issue) (f : Fields) (s : State), s.issues (.hint u f) →
    let kind := f.imm.toNat / 2 ^ 28 % 16
    let lead := f.imm.toNat % 2 ^ 28
    let p := s.power
    (3 ≤ kind → exec (.hint u f) s = .next (s.programFault u.core.val u.ctx 1 (s.at u).pc.toNat)) ∧
    (kind < 3 → (u.core.val ≠ 0 ∨ u.ctx ≠ .d) → exec (.hint u f) s = .next (s.afterIssue u (s.nextPc u))) ∧
    (u.core.val = 0 → u.ctx = .d →
      (kind = 0 → exec (.hint u f) s = .next (State.afterIssue { s with power :=
          { p with idleShed := false, hintRaise := s.field (offPWR + 0x28) 23 16,
                   hintRise := some (s.time + 2 * lead + 8000) } } u (s.nextPc u))) ∧
      (kind = 1 → exec (.hint u f) s = .next (State.afterIssue { s with power :=
          { p with hintFall := some (s.time + lead) } } u (s.nextPc u))) ∧
      (kind = 2 → exec (.hint u f) s = .next (State.afterIssue { s with power :=
          { p with hintRaise := 0, hintRise := none, hintFall := none } } u (s.nextPc u))))

/-- Scalar arithmetic: aD from aA and aB or the sign-extended immediate, with the poison of its sources -/
def Obligations.ScalarArithmetic : Prop :=
  ∀ (u : Issue) (f : Fields) (s : State),
    let x := s.at u
    let a := x.getA f.srca.toNat
    let imm : Bool := f.imm.getLsbD 33
    let b : Word := if imm then (f.imm.setWidth 32).signExtend 64 else x.getA f.srcb.toNat
    let po : Bool := x.poisA f.srca.toNat || (!imm && x.poisA f.srcb.toNat)
    let put (v : Word) : Host.Outcome State Fault Refusal :=
      .next ((s.setCtx u.core.val u.ctx (x.setA f.dst.toNat v po)).afterIssue u (x.pc.toNat + 8))
    let k := b.toNat % 64
    (s.issues (.add u f) → exec (.add u f) s = put (a + b)) ∧
    (s.issues (.sub u f) → exec (.sub u f) s = put (a - b)) ∧
    (s.issues (.mul u f) → exec (.mul u f) s = put (a * b)) ∧
    (s.issues (.mulh u f) → exec (.mulh u f) s = put ((a.signExtend 128 * b.signExtend 128).extractLsb' 64 64)) ∧
    (s.issues (.and u f) → exec (.and u f) s = put (a &&& b)) ∧
    (s.issues (.or u f) → exec (.or u f) s = put (a ||| b)) ∧
    (s.issues (.xor u f) → exec (.xor u f) s = put (a ^^^ b)) ∧
    (s.issues (.shl u f) → exec (.shl u f) s = put (a <<< k)) ∧
    (s.issues (.shr u f) → exec (.shr u f) s = put (a >>> k)) ∧
    (s.issues (.sra u f) → exec (.sra u f) s = put (a.sshiftRight k)) ∧
    (s.issues (.slt u f) → exec (.slt u f) s = put (if a.toInt < b.toInt then 1#64 else 0#64)) ∧
    (s.issues (.sltu u f) → exec (.sltu u f) s = put (if a.toNat < b.toNat then 1#64 else 0#64)) ∧
    (s.issues (.min u f) → exec (.min u f) s = put (if a.toInt ≤ b.toInt then a else b)) ∧
    (s.issues (.max u f) → exec (.max u f) s = put (if a.toInt ≤ b.toInt then b else a)) ∧
    (s.issues (.movh u f) → exec (.movh u f) s = put (b.extractLsb' 0 32 ++ a.extractLsb' 0 32))

/-- MRS reads VMODE, WAVE, TIME and SELF, MSR writes VMODE; other numbers and a reserved rounding mode are ILL -/
def Obligations.SpecialRegisters : Prop :=
  ∀ (u : Issue) (f : Fields) (s : State),
    let x := s.at u
    let n := u.core.val
    let k := f.imm.toNat % 256
    let a := x.getA f.srca.toNat
    let put (v : Word) : Host.Outcome State Fault Refusal :=
      .next ((s.setCtx n u.ctx (x.setA f.dst.toNat v false)).afterIssue u (x.pc.toNat + 8))
    let ill : Host.Outcome State Fault Refusal := .next (s.programFault n u.ctx 1 x.pc.toNat)
    (s.issues (.mrs u f) →
      (k = 0 → exec (.mrs u f) s = put (s.reg (offSTN n + 0x10))) ∧
      (k = 1 → exec (.mrs u f) s = put x.waveWord) ∧
      (k = 2 → exec (.mrs u f) s = put (BitVec.ofNat 64 s.time)) ∧
      (k = 3 → exec (.mrs u f) s = put (BitVec.ofNat 64 (n + (if u.ctx = .p then 1024 else 0)))) ∧
      (3 < k → exec (.mrs u f) s = ill)) ∧
    (s.issues (.msr u f) →
      (k = 0 → a.toNat % 8 ≤ 4 → exec (.msr u f) s =
        .next ((s.setReg (offSTN n + 0x10) (a &&& 0x1F37#64)).afterIssue u (x.pc.toNat + 8))) ∧
      (k ≠ 0 ∨ 4 < a.toNat % 8 → exec (.msr u f) s = ill))

/-- Floating-point vector instructions write each active lane with the operation of their TYPE under VMODE -/
def Obligations.VectorFloatingPoint : Prop :=
  ∀ (u : Issue) (f : Fields) (s : State),
    let x := s.at u
    let va := x.getV f.srca.toNat
    let vc := x.getV (f.imm.toNat / 2 ^ 22 % 64)
    let bl : Nat → Lane := if f.imm.getLsbD 21 then fun _ => (x.getA f.srcb.toNat).setWidth 32
      else (x.getV f.srcb.toNat).lane
    let pb : BitVec 4 := if f.imm.getLsbD 21 then (if x.poisA f.srcb.toNat then 15#4 else 0#4)
      else (x.getV f.srcb.toNat).pois
    let ty := f.imm.toNat / 2 ^ 28 % 4
    let ill : Host.Outcome State Fault Refusal := .next (s.programFault u.core.val u.ctx 1 x.pc.toNat)
    let put (c : Nat → Lane) (b : Nat → Lane) (po : BitVec 4) (op : CodeOp) : Host.Outcome State Fault Refusal :=
      .next ((s.elemWise u f va.lane b c po (if ty = 1 then laneOp16 (s.mode16 u.core.val) op
        else laneOp32 (s.mode32 u.core.val) op)).afterIssue u (s.nextPc u))
    let one := put vc.lane (fun _ => 0#32) va.pois
    let two := put vc.lane bl (va.pois ||| pb)
    let three := put vc.lane bl (va.pois ||| pb ||| vc.pois)
    (s.issues (.vadd u f) → (ty < 2 → exec (.vadd u f) s =
      two (fun t md a b _ => fpAdd t md (unpack t a) (unpack t b))) ∧
      (2 ≤ ty → exec (.vadd u f) s = ill)) ∧
    (s.issues (.vsub u f) → (ty < 2 → exec (.vsub u f) s =
      two (fun t md a b _ => fpSub t md (unpack t a) (unpack t b))) ∧
      (2 ≤ ty → exec (.vsub u f) s = ill)) ∧
    (s.issues (.vmul u f) → (ty < 2 → exec (.vmul u f) s =
      two (fun t md a b _ => fpMul t md (unpack t a) (unpack t b))) ∧
      (2 ≤ ty → exec (.vmul u f) s = ill)) ∧
    (s.issues (.vfma u f) → (ty < 2 → exec (.vfma u f) s =
      three (fun t md a b c => fpFma t md (unpack t a) (unpack t b) (unpack t c))) ∧
      (2 ≤ ty → exec (.vfma u f) s = ill)) ∧
    (s.issues (.vfms u f) → (ty < 2 → exec (.vfms u f) s =
      three (fun t md a b c => fpFma t md (unpack t a) (unpack t b) (unpack t c).neg)) ∧
      (2 ≤ ty → exec (.vfms u f) s = ill)) ∧
    (s.issues (.vdiv u f) → (ty < 2 → exec (.vdiv u f) s =
      two (fun t md a b _ => fpDiv t md (unpack t a) (unpack t b))) ∧
      (2 ≤ ty → exec (.vdiv u f) s = ill)) ∧
    (s.issues (.vsqrt u f) → (ty < 2 → exec (.vsqrt u f) s =
      one (fun t md a _ _ => fpSqrt t md (unpack t a))) ∧
      (2 ≤ ty → exec (.vsqrt u f) s = ill)) ∧
    (s.issues (.vmin u f) → (ty < 2 → exec (.vmin u f) s =
      two (fun t _ a b _ => fpMinMax t false a b (unpack t a) (unpack t b))) ∧
      (2 ≤ ty → exec (.vmin u f) s = ill)) ∧
    (s.issues (.vmax u f) → (ty < 2 → exec (.vmax u f) s =
      two (fun t _ a b _ => fpMinMax t true a b (unpack t a) (unpack t b))) ∧
      (2 ≤ ty → exec (.vmax u f) s = ill)) ∧
    (s.issues (.vminn u f) → (ty < 2 → exec (.vminn u f) s =
      two (fun t _ a b _ => fpMinMaxNum t false a b (unpack t a) (unpack t b))) ∧
      (2 ≤ ty → exec (.vminn u f) s = ill)) ∧
    (s.issues (.vmaxn u f) → (ty < 2 → exec (.vmaxn u f) s =
      two (fun t _ a b _ => fpMinMaxNum t true a b (unpack t a) (unpack t b))) ∧
      (2 ≤ ty → exec (.vmaxn u f) s = ill)) ∧
    (s.issues (.vrint u f) → (ty < 2 → exec (.vrint u f) s =
      one (fun t md a _ _ => fpRint t md a (unpack t a))) ∧
      (2 ≤ ty → exec (.vrint u f) s = ill)) ∧
    (s.issues (.vexp2 u f) → (ty = 0 → exec (.vexp2 u f) s = one (fun _ md a _ _ => estExp2 md.sat a)) ∧
      (ty ≠ 0 → exec (.vexp2 u f) s = ill)) ∧
    (s.issues (.vrcp u f) → (ty = 0 → exec (.vrcp u f) s = one (fun _ md a _ _ => estRcp md.sat a)) ∧
      (ty ≠ 0 → exec (.vrcp u f) s = ill)) ∧
    (s.issues (.vrsq u f) → (ty = 0 → exec (.vrsq u f) s = one (fun _ _ a _ _ => estRsq a)) ∧
      (ty ≠ 0 → exec (.vrsq u f) s = ill)) ∧
    (s.issues (.vlog2 u f) → (ty = 0 → exec (.vlog2 u f) s = one (fun _ _ a _ _ => estLog2 a)) ∧
      (ty ≠ 0 → exec (.vlog2 u f) s = ill))

/-- An element-wise instruction writes active lanes only, poisons by quarter, and sets the sticky flags of active lanes; that a kept lane keeps its poison is the model's reading (notes/assumptions/10.md) -/
def Obligations.ElementWiseLanesPoisonAndFlags : Prop :=
  ∀ (u : Issue) (f : Fields) (s : State) (a b c : Nat → Lane) (po : BitVec 4) (op : LaneOp),
    let x := s.at u
    let m := predOf x f
    let old := x.getV f.dst.toNat
    let t := s.elemWise u f a b c po op
    let r := (t.at u).getV f.dst.toNat
    tabGetD s.cnt.vals ((0x100 + u.core.val) * 256 + 7) 0 + 1 < 2 ^ 48 →
    (∀ i, i < 64 → r.lane i = if m.getLsbD i then (op (a i) (b i) (c i)).1 else old.lane i) ∧
    (∀ j, j < 4 → r.pois.getLsbD j = (po.getLsbD j ||
      (old.pois.getLsbD j && (List.range 16).any fun i => !m.getLsbD (16 * j + i)))) ∧
    (∀ v, v ≠ f.dst.toNat → (t.at u).getV v = x.getV v) ∧
    (t.at u).a = x.a ∧ (t.at u).aPois = x.aPois ∧ (t.at u).p = x.p ∧ (t.at u).pc = x.pc ∧
    (∀ k, k < 5 → (t.bit (offSTN u.core.val + 0x10) (8 + k) = true ↔
      (s.bit (offSTN u.core.val + 0x10) (8 + k) = true ∨
        ∃ i, i < 64 ∧ m.getLsbD i = true ∧ (op (a i) (b i) (c i)).2.getLsbD k = true))) ∧
    (∀ k, k < 64 → ¬ (8 ≤ k ∧ k < 13) → t.bit (offSTN u.core.val + 0x10) k = s.bit (offSTN u.core.val + 0x10) k) ∧
    (∀ off, off ≠ offSTN u.core.val + 0x10 → t.reg off = s.reg off) ∧
    (∀ (n : Nat) (e : Ctx), (n, e) ≠ (u.core.val, u.ctx) → t.ctx n e = s.ctx n e) ∧
    t.mem = s.mem ∧ t.cmem = s.cmem ∧ t.host = s.host

/-- Integer, logic, select and move vector instructions compute on each lane as their table says -/
def Obligations.VectorIntegerAndSelect : Prop :=
  ∀ (u : Issue) (f : Fields) (s : State),
    let x := s.at u
    let va := x.getV f.srca.toNat
    let bl : Nat → Lane := if f.imm.getLsbD 21 then fun _ => (x.getA f.srcb.toNat).setWidth 32
      else (x.getV f.srcb.toNat).lane
    let pb : BitVec 4 := if f.imm.getLsbD 21 then (if x.poisA f.srcb.toNat then 15#4 else 0#4)
      else (x.getV f.srcb.toNat).pois
    let put (op : Lane → Lane → Lane) : Host.Outcome State Fault Refusal :=
      .next ((s.elemWise u f va.lane bl (fun _ => 0#32) (va.pois ||| pb) (fun a b _ => (op a b, 0#5))).afterIssue u
        (s.nextPc u))
    (s.issues (.viadd u f) → exec (.viadd u f) s = put (fun a b => a + b)) ∧
    (s.issues (.visub u f) → exec (.visub u f) s = put (fun a b => a - b)) ∧
    (s.issues (.vimul u f) → exec (.vimul u f) s = put (fun a b => a * b)) ∧
    (s.issues (.vand u f) → exec (.vand u f) s = put (fun a b => a &&& b)) ∧
    (s.issues (.vor u f) → exec (.vor u f) s = put (fun a b => a ||| b)) ∧
    (s.issues (.vxor u f) → exec (.vxor u f) s = put (fun a b => a ^^^ b)) ∧
    (s.issues (.vshl u f) → exec (.vshl u f) s = put (fun a b => a <<< (b.toNat % 32))) ∧
    (s.issues (.vshr u f) → exec (.vshr u f) s = put (fun a b => a >>> (b.toNat % 32))) ∧
    (s.issues (.vsra u f) → exec (.vsra u f) s = put (fun a b => a.sshiftRight (b.toNat % 32))) ∧
    (s.issues (.vimin u f) → exec (.vimin u f) s = put (fun a b => if a.toInt ≤ b.toInt then a else b)) ∧
    (s.issues (.vimax u f) → exec (.vimax u f) s = put (fun a b => if a.toInt ≤ b.toInt then b else a)) ∧
    (s.issues (.vsel u f) → exec (.vsel u f) s = .next (((s.setCtx u.core.val u.ctx (x.setV f.dst.toNat
      (VReg.ofFn (fun i => if (predOf x f).getLsbD i then va.lane i else bl i) (va.pois ||| pb)))).vecIssue u).afterIssue u
        (s.nextPc u))) ∧
    (s.issues (.vmov u f) → exec (.vmov u f) s = .next ((s.elemWise u f
      (if f.imm.getLsbD 21 then bl else va.lane) (fun _ => 0#32) (fun _ => 0#32)
      (if f.imm.getLsbD 21 then pb else va.pois) (fun a _ _ => (a, 0#5))).afterIssue u (s.nextPc u)))

/-- VPERM, VEXT, VINS, PLOG, PSET, PGET and VCMP complete and write what their table says under the predicate; that VEXT takes its quarter's poison and a kept lane keeps its own is the model's reading (notes/assumptions/10.md) -/
def Obligations.CrossLaneAndPredicates : Prop :=
  ∀ (u : Issue) (f : Fields) (s : State),
    let x := s.at u
    let n := u.core.val
    let m := predOf x f
    let d := f.dst.toNat
    let va := x.getV f.srca.toNat
    let vb := x.getV f.srcb.toNat
    let old := x.getV d
    let bl (j : Nat) : Lane := if f.imm.getLsbD 21 then (x.getA f.srcb.toNat).setWidth 32 else vb.lane j
    let pb : Prop := if f.imm.getLsbD 21 then x.poisA f.srcb.toNat = true else vb.pois ≠ 0#4
    let i := f.imm.toNat % 64
    let hit (w : Word) (j : Nat) : Prop := ∃ k, 16 * j ≤ k ∧ k < 16 * j + 16 ∧ w.getLsbD k = true
    let full (w : Word) (j : Nat) : Prop := ∀ k, 16 * j ≤ k → k < 16 * j + 16 → w.getLsbD k = true
    let room : Prop := tabGetD s.cnt.vals ((0x100 + n) * 256 + 7) 0 + 1 < 2 ^ 48
    let same (t : State) : Prop := (∀ (k : Nat) (c : Ctx), (k, c) ≠ (n, u.ctx) → t.ctx k c = s.ctx k c) ∧
      t.mem = s.mem ∧ t.cmem = s.cmem ∧ t.streams = s.streams ∧ t.reqs = s.reqs ∧ t.lines = s.lines ∧
      (room → t.host = s.host ∧ ∀ off, off ≠ offSTN n + 0x10 → t.reg off = s.reg off)
    let done (j : Instr) (y : Context) : Prop := ∃ t : State, exec j s = .next (t.afterIssue u (s.nextPc u)) ∧
      t.at u = y ∧ same t ∧ (room → t.reg (offSTN n + 0x10) = s.reg (offSTN n + 0x10))
    (s.issues (.vperm u f) → ∃ r : VReg, done (.vperm u f) (x.setV d r) ∧
      (∀ j, j < 64 → r.lane j = if m.getLsbD j then va.lane ((bl j).toNat % 64) else old.lane j) ∧
      (∀ j, j < 4 → (r.pois.getLsbD j = true ↔
        (hit m j ∧ (va.pois ≠ 0#4 ∨ pb)) ∨ (¬ full m j ∧ old.pois.getLsbD j = true)))) ∧
    (s.issues (.vext u f) → done (.vext u f) (x.setA d ((va.lane i).setWidth 64) (va.pois.getLsbD (i / 16)))) ∧
    (s.issues (.vins u f) → ∃ r : VReg, done (.vins u f) (x.setV d r) ∧
      (∀ j, j < 64 → r.lane j = if j = i ∧ m.getLsbD i = true then (x.getA f.srcb.toNat).setWidth 32 else old.lane j) ∧
      (∀ j, j < 4 → (r.pois.getLsbD j = true ↔ old.pois.getLsbD j = true ∨
        (j = i / 16 ∧ m.getLsbD i = true ∧ x.poisA f.srcb.toNat = true)))) ∧
    (∀ (j : Instr) (v : Word), (j = .plog u f ∧ (let a := x.getP f.srca.toNat
          let b := x.getP f.srcb.toNat
          let k := f.imm.toNat / 2 ^ 19 % 4
          (k = 0 → v = a &&& b) ∧ (k = 1 → v = a ||| b) ∧ (k = 2 → v = a &&& ~~~ b) ∧ (k = 3 → v = a ^^^ b)) ∨
        (j = .pset u f ∧ v = x.getA f.srca.toNat)) → s.issues j →
      ∃ w : Word, done j (x.setP d w) ∧
        ∀ k, k < 64 → w.getLsbD k = if m.getLsbD k then v.getLsbD k else (x.getP d).getLsbD k) ∧
    (s.issues (.pget u f) → done (.pget u f) (x.setA d (x.getP f.srca.toNat) false)) ∧
    (s.issues (.vcmp u f) →
      let ty := f.imm.toNat / 2 ^ 28 % 4
      let code := f.imm.toNat / 2 ^ 18 % 8
      let one (t : FpFmt) (p q : Nat) : Bool × FpFlags := fpCompare code (unpack t p) (unpack t q)
      let cmp (j : Nat) : Bool × FpFlags :=
        if ty = 1 then
          let lo := one fmt16 ((va.lane j).toNat % 65536) ((bl j).toNat % 65536)
          let hi := one fmt16 ((va.lane j).toNat / 65536) ((bl j).toNat / 65536)
          (lo.1 && hi.1, lo.2 ||| hi.2)
        else one fmt32 (va.lane j).toNat (bl j).toNat
      (ty < 2 → ∃ (t : State) (w : Word), exec (.vcmp u f) s = .next (t.afterIssue u (s.nextPc u)) ∧
        t.at u = x.setP d w ∧ same t ∧ (∀ j, j < 64 → w.getLsbD j = (m.getLsbD j && (cmp j).1)) ∧
        (room → ∀ k, k < 64 → (t.bit (offSTN n + 0x10) k = true ↔ s.bit (offSTN n + 0x10) k = true ∨
          (8 ≤ k ∧ k < 13 ∧ ∃ j, j < 64 ∧ m.getLsbD j = true ∧ (cmp j).2.getLsbD (k - 8) = true)))) ∧
      (2 ≤ ty → exec (.vcmp u f) s = .next (s.programFault n u.ctx 1 x.pc.toNat)))

/-- VRSUM, VRMAX and VRMIN reduce the active lanes pairwise into every lane of vd; with none active the value is free, the model's choice (notes/assumptions/11.md) -/
def Obligations.VectorReductions : Prop :=
  ∀ (u : Issue) (f : Fields) (s : State),
    let x := s.at u
    let n := u.core.val
    let m := predOf x f
    let va := x.getV f.srca.toNat
    let po : BitVec 4 := if va.pois = 0#4 then 0#4 else 15#4
    let leaves := (List.range 64).map fun i => if m.getLsbD i then some (va.lane i) else none
    let done (s' : State) (v : Lane) (fl : FpFlags) : Host.Outcome State Fault Refusal :=
      .next ((((s'.setCtx n u.ctx (x.setV f.dst.toNat (VReg.ofFn (fun _ => v) po))).raiseFlags n fl).vecIssue u).afterIssue
        u (s.nextPc u))
    let md : Nat := s.field (offVMODE n) 5 0
    (s.issues (.vrsum u f) →
      let r := treeReduce (lanePair (s.mode32 n) fun t md a b _ => fpAdd t md (unpack t a) (unpack t b)) 6 leaves
      (m = 0#64 → exec (.vrsum u f) s = done s (Config.emptyReduce 0 md ((List.range 64).map va.lane)) 0#5) ∧
      (m ≠ 0#64 → ∃ v, r.1 = some v ∧ exec (.vrsum u f) s = done s v r.2)) ∧
    (s.issues (.vrmax u f) →
      let r := treeReduce (lanePair (s.mode32 n) fun t _ a b _ => fpMinMax t true a b (unpack t a) (unpack t b)) 6 leaves
      (m = 0#64 → exec (.vrmax u f) s = done s (Config.emptyReduce 1 md ((List.range 64).map va.lane)) 0#5) ∧
      (m ≠ 0#64 → ∃ v, r.1 = some v ∧ exec (.vrmax u f) s = done s v r.2)) ∧
    (s.issues (.vrmin u f) →
      let r := treeReduce (lanePair (s.mode32 n) fun t _ a b _ => fpMinMax t false a b (unpack t a) (unpack t b)) 6 leaves
      (m = 0#64 → exec (.vrmin u f) s = done s (Config.emptyReduce 2 md ((List.range 64).map va.lane)) 0#5) ∧
      (m ≠ 0#64 → ∃ v, r.1 = some v ∧ exec (.vrmin u f) s = done s v r.2))

/-- VCVT converts every active element of its part and leaves the rest of the registers as they were -/
def Obligations.VectorConversion : Prop :=
  ∀ (u : Issue) (f : Fields) (s : State), s.issues (.vcvt u f) →
    let x := s.at u
    let n := u.core.val
    let m := predOf x f
    let src := fmtOf (f.imm.toNat / 2 ^ 18 % 8)
    let dst := fmtOf (f.imm.toNat / 2 ^ 15 % 8)
    let part := f.imm.toNat / 2 ^ 13 % 4
    let va := x.getV f.srca.toNat
    let bl : Nat → Lane := if f.imm.getLsbD 21 then fun _ => (x.getA f.srcb.toNat).setWidth 32
      else (x.getV f.srcb.toNat).lane
    let mul (e : Nat) : Nat := if cvtMul src dst && cvtExp src dst
      then ((x.getV (f.imm.toNat / 2 ^ 22 % 64)).lane e).toNat else (bl e).toNat
    let ex (e : Nat) : Nat := (x.getA f.srcb.toNat).toNat / 2 ^ (8 * (e / 32)) % 256
    let ps := sidePart src dst part
    let pd := sidePart dst src part
    (partOk src dst part = false → exec (.vcvt u f) s = .next (s.programFault n u.ctx 1 x.pc.toNat)) ∧
    (partOk src dst part = true → ∃ t : State, exec (.vcvt u f) s = .next (t.afterIssue u (s.nextPc u)) ∧
      (∀ i, i < 64 → m.getLsbD i = false → ((t.at u).getV f.dst.toNat).lane i = (x.getV f.dst.toNat).lane i) ∧
      ((dst ≠ .e8 ∨ src = .e8) → ∀ e, e < 64 → elemLane dst.width pd e < 64 → m.getLsbD (elemLane dst.width pd e) = true →
        elemGet ((t.at u).getV f.dst.toNat).lane dst.width pd e =
          (s.convertElem n src dst (elemGet va.lane src.width ps e) (mul e) (ex e)).1 % 2 ^ dst.width) ∧
      (dst = .e8 → src ≠ .e8 →
        let value (e : Nat) : Machine.Num :=
          withMul .a8 (srcValue src (elemGet va.lane src.width ps e) (mul e) (ex e)) (mul e)
        let code (k : Nat) : Nat := e8Code ((List.range 32).map fun j => value (32 * k + j)) 256 0
        (0 < f.srcb.toNat → f.srcb.toNat < 32 →
          (t.at u).getA f.srcb.toNat = BitVec.ofNat 64 (code 0 + code 1 * 256)) ∧
        ∀ e, e < 64 → m.getLsbD (elemLane 8 pd e) = true →
          elemGet ((t.at u).getV f.dst.toNat).lane 8 pd e = (e8Sig (code (e / 32)) (value e)).1 % 256) ∧
      (∀ v, v ≠ f.dst.toNat → (t.at u).getV v = x.getV v) ∧ (t.at u).p = x.p ∧ (t.at u).pc = x.pc ∧
      (∀ r, r < 32 → (r ≠ f.srcb.toNat ∨ dst ≠ .e8 ∨ src = .e8) → (t.at u).getA r = x.getA r) ∧
      (tabGetD s.cnt.vals ((0x100 + n) * 256 + 7) 0 + 1 < 2 ^ 48 → ∀ off, off ≠ offSTN n + 0x10 → t.reg off = s.reg off) ∧
      t.mem = s.mem ∧ t.cmem = s.cmem)

/-- ELD, EWS, EDR and ECF enter the queue of the engine that IMM[33] names, or fault on their operands -/
def Obligations.EngineInstructionsEnterTheirQueue : Prop :=
  (∀ (u : Issue) (f : Fields) (s : State),
    let x := s.at u
    let n := u.core.val
    let e : Nat := if f.imm.getLsbD 33 then 1 else 0
    let g := (s.core n).eng e
    let t := f.imm.toNat / 2 ^ 25 % 128 + 1
    let ap := s.apart n u.ctx e
    let ap' : Bool := decide (u.ctx = .p) && !g.backQ.isEmpty
    let cfg := g.cfgAfter ap
    let room (q : Bool) : Prop := (if q then g.backQ else g.queue).length < 8
    let enter (s' : State) (q gapped : Bool) (op : EngOp) : Host.Outcome State Fault Refusal :=
      let g' := (s'.core n).eng e
      let h : Engine := if q then { g' with backQ := g'.backQ ++ [op] } else
        { g' with queue := g'.queue ++ [op],
                  bfSince := if u.ctx = .d ∧ gapped = true ∧ g'.backBusy = true ∧ g'.bfSince = none then some s'.time
                    else g'.bfSince }
      let w := s'.setCore n ((s'.core n).setEng e h)
      .next (((if u.ctx = .d then w.endGap n else w).engRun n e).afterIssue u (s.nextPc u))
    let off := ((x.getA f.srca.toNat) + (f.imm.setWidth 20).setWidth 64).toNat
    let len := imageLen cfg.afmt t
    let s' := s.taintIf u (x.poisA f.srca.toNat)
    let base := (x.getA f.srca.toNat).toNat
    let addr := base + f.imm.toNat % 65536 * 512
    (s.issues (.eld u f) → room ap → f.imm.getLsbD 32 = false → off % 64 = 0 → off + len ≤ 0x100000 →
      let r := s'.storeRead n off len
      exec (.eld u f) s = enter r.s ap true
        (.eld u.ctx ap t (f.imm.getLsbD 24) r.bytes (s'.imageLanes n off len cfg.afmt))) ∧
    (s.issues (.eld u f) → room ap → f.imm.getLsbD 32 = true → ∀ (end_ : StreamEnd) (last : Bool),
      s.handle u (f.imm.toNat / 2 ^ 20 % 16) = some (end_, last) → end_.sending = false →
      exec (.eld u f) s =
        enter s ap true (.eldStream u.ctx ap t (f.imm.getLsbD 24) end_.idx last)) ∧
    (s.issues (.ews u f) → room ap → base % 512 = 0 → (cfg.hold = true → t = 1) →
      addr + runLen cfg.wfmt t ≤ s'.fieldLen n →
      exec (.ews u f) s = enter s' ap true (.ews u.ctx ap (f.imm.getLsbD 32) t addr)) ∧
    (s.issues (.edr u f) → room ap' → f.dst.toNat ≤ 60 → (∀ k, k < 4 → x.pendV.getLsbD (f.dst.toNat + k) = false) →
      exec (.edr u f) s = enter (s.setCtx n u.ctx { x with pendV := x.pendV ||| (15#64 <<< f.dst.toNat) }) ap' false
        (.edr u.ctx f.dst.toNat (x.getV f.srcb.toNat))) ∧
    (s.issues (.ecf u f) → room ap' → f.imm.toNat / 2 ^ 30 % 8 < 4 → f.imm.toNat / 2 ^ 28 % 4 < 3 →
      exec (.ecf u f) s = enter s ap' true (.ecf u.ctx
        { wfmt := BitVec.ofNat 3 (f.imm.toNat / 2 ^ 30 % 8), afmt := BitVec.ofNat 2 (f.imm.toNat / 2 ^ 28 % 4),
          hold := f.imm.getLsbD 27, biasc := f.imm.getLsbD 26 })) ∧
    (∀ (i : Instr) (q : Bool), (i, q) ∈ [(Instr.eld u f, ap), (.ews u f, ap), (.edr u f, ap'), (.ecf u f, ap')] →
      s.issues i → ¬ room q → (∃ c : Nat, exec i s = .next (s.programFault n u.ctx c x.pc.toNat)) ∨
        (∃ c : Nat, exec i s = .next (s'.programFault n u.ctx c x.pc.toNat)) ∨ exec i s = .next s)) ∧
  (∀ (u : Issue) (f : Fields) (s : State),
    let x := s.at u
    let n := u.core.val
    let e : Nat := if f.imm.getLsbD 33 then 1 else 0
    let cfg := ((s.core n).eng e).cfgAfter (s.apart n u.ctx e)
    let t := f.imm.toNat / 2 ^ 25 % 128 + 1
    let off := ((x.getA f.srca.toNat) + (f.imm.setWidth 20).setWidth 64).toNat
    let s' := s.taintIf u (x.poisA f.srca.toNat)
    let base := (x.getA f.srca.toNat).toNat
    let fault (w : State) (code : Nat) : Host.Outcome State Fault Refusal :=
      .next (w.programFault n u.ctx code x.pc.toNat)
    (s.issues (.eld u f) → f.imm.getLsbD 32 = false →
      (off % 64 ≠ 0 → exec (.eld u f) s = fault s' 3) ∧
      (off % 64 = 0 → 0x100000 < off + imageLen cfg.afmt t → exec (.eld u f) s = fault s' 8)) ∧
    (s.issues (.eld u f) → f.imm.getLsbD 32 = true → s.handle u (f.imm.toNat / 2 ^ 20 % 16) = none →
      exec (.eld u f) s = fault s 9) ∧
    (s.issues (.ews u f) →
      (base % 512 ≠ 0 → exec (.ews u f) s = fault s' 3) ∧
      (base % 512 = 0 → cfg.hold = true → t ≠ 1 → exec (.ews u f) s = fault s' 5) ∧
      (base % 512 = 0 → (cfg.hold = true → t = 1) →
        s'.fieldLen n < base + f.imm.toNat % 65536 * 512 + runLen cfg.wfmt t →
        exec (.ews u f) s = fault s' 5)) ∧
    (s.issues (.edr u f) → 60 < f.dst.toNat → exec (.edr u f) s = fault s 2) ∧
    (s.issues (.ecf u f) → (4 ≤ f.imm.toNat / 2 ^ 30 % 8 ∨ f.imm.toNat / 2 ^ 28 % 4 = 3) →
      exec (.ecf u f) s = fault s 1))

/-- LDS, STS, LDF and STF read and write the core store and the field at aA plus their offset, or fault -/
def Obligations.FieldAndCoreStoreAccess : Prop :=
  ∀ (u : Issue) (f : Fields) (s : State),
    let x := s.at u
    let n := u.core.val
    let po := x.poisA f.srca.toNat
    let s' := s.taintIf u po
    let size : Nat := if f.imm.getLsbD 29 then 256 else 8
    let pa := (x.getA f.srca.toNat + (f.imm.setWidth 28).signExtend 64).toNat
    let off := (x.getA f.srca.toNat + (f.imm.setWidth 20).setWidth 64).toNat
    let go (t : State) : Host.Outcome State Fault Refusal := .next (t.afterIssue u (s.nextPc u))
    let fault (w : State) (code : Nat) : Host.Outcome State Fault Refusal :=
      .next (w.programFault n u.ctx code x.pc.toNat)
    s'.memStall n u.ctx = false →
    (s.issues (.lds u f) →
      (off % size ≠ 0 → exec (.lds u f) s = fault s' 3) ∧
      (off % size = 0 → 0xFFFFF < off → exec (.lds u f) s = fault s' 8) ∧
      (off % size = 0 → off ≤ 0xFFFFF →
        let r := s'.storeRead n off size
        exec (.lds u f) s = go (r.s.loadResult u f r.bytes (r.pois.any id || po)))) ∧
    (s.issues (.sts u f) →
      (off % size ≠ 0 → exec (.sts u f) s = fault s' 3) ∧
      (off % size = 0 → 0xFFFFF < off → exec (.sts u f) s = fault s' 8) ∧
      (off % size = 0 → off ≤ 0xFFFFF → exec (.sts u f) s =
        go (s'.writeQuarters (2 ^ 48 + n * 2 ^ 20 + off) (storeBytes (s'.at u) f) (storeMarks (s'.at u) f)))) ∧
    (s.issues (.ldf u f) →
      (pa % size ≠ 0 → exec (.ldf u f) s = fault s' 3) ∧
      (pa % size = 0 → (s'.fieldGo pa size false).1 = .refused →
        exec (.ldf u f) s = fault (s'.fieldGo pa size false).2 4) ∧
      (pa % size = 0 → (s'.fieldGo pa size false).1 = .waits → exec (.ldf u f) s = .next s) ∧
      (pa % size = 0 → (s'.fieldGo pa size false).1 = .ok → ∀ m o, targetOf pa = .field m o →
        (s'.restoreWaits m o size = true → exec (.ldf u f) s = .next s) ∧
        (s'.restoreWaits m o size = false →
          let r := s'.fieldReadVia (s'.upGroups n) m o size
          exec (.ldf u f) s = go (r.s.loadResult u f r.bytes (r.pois.any id || po))))) ∧
    (s.issues (.stf u f) →
      (pa % size ≠ 0 → exec (.stf u f) s = fault s' 3) ∧
      (pa % size = 0 → (s'.fieldGo pa size true).1 = .refused →
        exec (.stf u f) s = fault (s'.fieldGo pa size true).2 4) ∧
      (pa % size = 0 → (s'.fieldGo pa size true).1 = .waits → exec (.stf u f) s = .next s) ∧
      (pa % size = 0 → (s'.fieldGo pa size true).1 = .ok → exec (.stf u f) s =
        go (s'.writeQuarters pa (storeBytes (s'.at u) f) (storeMarks (s'.at u) f))))

/-- A store writes its 8 or 256 bytes at its address and every other byte of memory reads as before -/
def Obligations.StoresWriteTheirBytesAndNothingElse : Prop :=
  ∀ (s : State) (key : Nat) (bs : List Byte) (marks : List Bool),
    s.bit (offERR + 0x20) 0 = false → (bs.length = 8 ∧ marks.length = 1 ∨ bs.length = 256 ∧ marks.length = 4) →
    s.memOk →
    let t := s.writeQuarters key bs marks
    (∀ a, key ≤ a → a < key + bs.length → memByte t.mem.bytes a = bs.getD (a - key) 0#8) ∧
    (∀ a, (a < key ∨ key + bs.length ≤ a) → memByte t.mem.bytes a = memByte s.mem.bytes a) ∧
    t.memOk ∧ t.mem.pois = s.mem.pois ∧ t.cmem = s.cmem ∧ t.host = s.host ∧ t.cores = s.cores ∧ t.regs = s.regs ∧
    t.reqs = s.reqs ∧ t.lines = s.lines ∧ t.streams = s.streams ∧ t.waves = s.waves ∧ t.cnt = s.cnt

/-- LDC and STC enter the memory queue as requests of their context, or fault on alignment or a refused address -/
def Obligations.CachedInstructionsEnterTheMemoryQueue : Prop :=
  ∀ (u : Issue) (f : Fields) (s : State),
    let x := s.at u
    let n := u.core.val
    let po := x.poisA f.srca.toNat
    let s' := s.taintIf u po
    let y := s'.at u
    let size : Nat := if f.imm.getLsbD 29 then 256 else 8
    let pa := (x.getA f.srca.toNat + (f.imm.setWidth 28).signExtend 64).toNat
    let cls := f.imm.toNat / 2 ^ 31 % 8
    let fault (w : State) (code : Nat) : Host.Outcome State Fault Refusal :=
      .next (w.programFault n u.ctx code x.pc.toNat)
    let enter (w : State) (k : ReqKind) (a len : Nat) : Host.Outcome State Fault Refusal :=
      .next (State.afterIssue { w with nextReq := w.nextReq + 1, reqs := w.reqs ++
        [{ id := w.nextReq, who := .ctx n u.ctx, kind := k, pa := a, size := len, cls := cls, stage := .sent,
           pc := x.pc.toNat, arr := 0 }] }
          u (s.nextPc u))
    s'.memStall n u.ctx = false →
    (s.issues (.ldc u f) →
      (pa % size ≠ 0 → exec (.ldc u f) s = fault s' 3) ∧
      (pa % size = 0 → s'.cachedOk n pa size false false = false → exec (.ldc u f) s = fault (s'.accvAt pa) 4) ∧
      (pa % size = 0 → s'.cachedOk n pa size false false = true →
        (f.imm.getLsbD 29 = true → exec (.ldc u f) s = enter
          (s'.setCtx n u.ctx { y with pendV := y.pendV ||| BitVec.twoPow 64 f.dst.toNat })
          (.ld (.vreg f.dst.toNat) (f.imm.getLsbD 30) po) pa 256) ∧
        (f.imm.getLsbD 29 = false → exec (.ldc u f) s = enter
          (if f.dst = 0#6 then s' else s'.setCtx n u.ctx { y with pendA := y.pendA ||| BitVec.twoPow 32 f.dst.toNat })
          (.ld (.areg f.dst.toNat) (f.imm.getLsbD 30) po) pa 8))) ∧
    (s.issues (.stc u f) →
      (pa % size ≠ 0 → exec (.stc u f) s = fault s' 3) ∧
      (pa % size = 0 → s'.cachedOk n pa size true false = false → exec (.stc u f) s = fault (s'.accvAt pa) 4) ∧
      (pa % size = 0 → s'.cachedOk n pa size true false = true → exec (.stc u f) s = enter s'
        (.st (storeBytes y f) (if f.imm.getLsbD 29 then pois4 (storeMarks y f)
          else if (storeMarks y f).any id then 15#4 else 0#4)) pa size))

/-- RED enters the memory queue; CHUCK, UNCHUCK and CWB act on the lines of their range -/
def Obligations.ReductionsChucksAndWriteBacks : Prop :=
  ∀ (u : Issue) (f : Fields) (s : State),
    let x := s.at u
    let n := u.core.val
    let fault (w : State) (code : Nat) : Host.Outcome State Fault Refusal :=
      .next (w.programFault n u.ctx code x.pc.toNat)
    let go (t : State) : Host.Outcome State Fault Refusal := .next (t.afterIssue u (s.nextPc u))
    let a := (x.getA f.srca.toNat).toNat
    let b := (x.getA f.srcb.toNat).toNat
    let pa := (x.getA f.srca.toNat + (f.imm.setWidth 25).signExtend 64).toNat
    let sz := f.imm.toNat / 2 ^ 29 % 4
    let size := 4 * 2 ^ sz
    let ty := f.imm.toNat / 2 ^ 27 % 4
    let op := f.imm.toNat / 2 ^ 25 % 4
    let s1 := s.taintIf u (x.poisA f.srca.toNat)
    let s2 := s.taintIf u (x.poisA f.srca.toNat || x.poisA f.srcb.toNat)
    (s.issues (.red u f) →
      ((sz = 3 ∨ ty = 3 ∨ op = 3) → exec (.red u f) s = fault s 1) ∧
      (¬ (sz = 3 ∨ ty = 3 ∨ op = 3) → s1.memStall n u.ctx = false →
        (pa % size ≠ 0 → exec (.red u f) s = fault s1 3) ∧
        (pa % size = 0 → s1.cachedOk n pa size true true = false → exec (.red u f) s = fault (s1.accvAt pa) 4) ∧
        (pa % size = 0 → s1.cachedOk n pa size true true = true → exec (.red u f) s = go (s1.pushReq (.ctx n u.ctx) x.pc.toNat
          (.red { off := pa % 256, data := (x.getV f.srcb.toNat).bytes.take size, ty := ty, op := op,
                  pois := (s1.at u).taint || (x.getV f.srcb.toNat).pois.getLsbD 0, sat := false,
                  cls := f.imm.toNat / 2 ^ 31 % 8, core := n }) pa size (f.imm.toNat / 2 ^ 31 % 8))))) ∧
    (s.issues (.chuck u f) → s2.memStall n u.ctx = false →
      let po := x.poisA f.srca.toNat || x.poisA f.srcb.toNat
      let r := s2.chuckRange (a / 256) b (BitVec.ofNat 6 (f.imm.toNat / 2 ^ 28 % 64)) (f.imm.toNat / 2 ^ 25 % 8)
        (f.imm.toNat / 2 ^ 22 % 8) (x.chuck.getD (0, 0))
      let y := r.2.at u
      (∀ v : Word, r.1 = .inl v →
        exec (.chuck u f) s = go ((r.2.setCtx n u.ctx { y with chuck := none }).putA u f.dst v po)) ∧
      (∀ k : Nat × Nat, r.1 = .inr k → exec (.chuck u f) s = .next (r.2.setCtx n u.ctx { y with chuck := some k }))) ∧
    (s.issues (.unchuck u f) → s.memStall n u.ctx = false →
      exec (.unchuck u f) s = go (s.unchuckRegion (BitVec.ofNat 6 (f.imm.toNat / 2 ^ 28 % 64)))) ∧
    (s.issues (.cwb u f) → s2.memStall n u.ctx = false →
      let on : Prop := s2.lineBusy (a / 256) (a / 256 + b) = false ∧
        s2.flushGo (a / 256) (a / 256 + b) (f.imm.toNat % 4) (fun _ => true) = true
      (on → exec (.cwb u f) s = go (s2.flushRange (a / 256) (a / 256 + b) (f.imm.toNat % 4) none fun _ => true)) ∧
      (¬ on → exec (.cwb u f) s = .next s))

/-- HST writes a register or one quarter to a declared egress range of host memory; poison never leaves the device -/
def Obligations.HostStore : Prop :=
  ∀ (u : Issue) (f : Fields) (s : State), s.issues (.hst u f) →
    let x := s.at u
    let n := u.core.val
    let a := (x.getA f.srca.toNat + (f.imm.setWidth 25).setWidth 64).toNat
    let s' := s.taintIf u (x.poisA f.srca.toNat)
    let whole := f.imm.getLsbD 29
    let q := f.imm.toNat / 2 ^ 27 % 4
    let v := x.getV f.srcb.toNat
    let len : Nat := if whole then 256 else 64
    let po : Bool := (s'.at u).taint || (if whole then decide (v.pois ≠ 0#4) else v.pois.getLsbD q)
    s'.memStall n u.ctx = false →
    (a % len ≠ 0 → exec (.hst u f) s = .next (s'.programFault n u.ctx 3 x.pc.toNat)) ∧
    (a % len = 0 → s'.hstOk n a len = false → exec (.hst u f) s = .next (s'.programFault n u.ctx 6 x.pc.toNat)) ∧
    (a % len = 0 → s'.hstOk n a len = true → po = true →
      exec (.hst u f) s = .next ((s'.egressPoison n u.ctx).afterIssue u (s.nextPc u))) ∧
    (a % len = 0 → s'.hstOk n a len = true → po = false → (s'.portUp .a = true ∨ s'.portUp .b = true) →
      let bs := if whole then v.bytes else (v.bytes.drop (64 * q)).take 64
      exec (.hst u f) s = .next (State.afterIssue { s' with host := memWrite s'.host a bs } u (s.nextPc u))) ∧
    (a % len = 0 → s'.hstOk n a len = true → po = false → s'.portUp .a = false → s'.portUp .b = false →
      exec (.hst u f) s = .next s)

/-- SRX, STX, SWT and HSET act on the stream that their handle is bound to; a misused handle is program fault HANDLE -/
def Obligations.StreamInstructions : Prop :=
  ∀ (u : Issue) (f : Fields) (s : State),
    let x := s.at u
    let n := u.core.val
    let h := f.imm.toNat / 2 ^ 30 % 16
    let cnt := f.imm.toNat / 2 ^ 28 % 4 + 1
    let bad : Host.Outcome State Fault Refusal := .next (s.programFault n u.ctx 9 x.pc.toNat)
    let go (t : State) : Host.Outcome State Fault Refusal := .next (t.afterIssue u (s.nextPc u))
    let queued (w : State) (o : StreamOp) : State :=
      (w.setCore n { w.core n with streamQ := (w.core n).streamQ ++ [o] }).streamRun n
    let flit (q : Nat) : Flit := Flit.of (((x.getV f.srca.toNat).bytes.drop (64 * q)).take 64)
      (x.taint || (x.getV f.srca.toNat).pois.getLsbD q)
    (s.issues (.srx u f) →
      (s.handle u h = none → exec (.srx u f) s = bad) ∧
      (∀ e last, s.handle u h = some (e, last) →
        ((e.sending = true ∨ e.sd.cap < cnt) → exec (.srx u f) s = bad) ∧
        (e.sending = false → cnt ≤ e.sd.cap → (s.core n).streamQ.length < 16 → exec (.srx u f) s =
          go (queued (s.setCtx n u.ctx { x with pendV := x.pendV ||| BitVec.twoPow 64 f.dst.toNat })
            (.srx u.ctx f.dst.toNat e.idx cnt last))))) ∧
    (s.issues (.stx u f) →
      (s.handle u h = none → exec (.stx u f) s = bad) ∧
      (∀ e last, s.handle u h = some (e, last) →
        ((e.sending = false ∨ e.sd.cap < cnt) → exec (.stx u f) s = bad) ∧
        (e.sending = true → cnt ≤ e.sd.cap → (s.core n).streamQ.length < 16 → exec (.stx u f) s =
          go (queued s (.stx u.ctx e.idx ((List.range cnt).map flit)))))) ∧
    (s.issues (.swt u f) →
      (s.handle u h = none → exec (.swt u f) s = bad) ∧
      (∀ e last, s.handle u h = some (e, last) →
        let k := f.imm.toNat % 16384
        ((k = 0 ∨ e.sd.cap < k) → exec (.swt u f) s = bad) ∧
        (k ≠ 0 → k ≤ e.sd.cap → exec (.swt u f) s =
          go (s.setCtx n u.ctx { x with wait := .swt e.idx (!e.sending) k })))) ∧
    (s.issues (.hset u f) → ∃ y : Context, exec (.hset u f) s = go (s.setCtx n u.ctx y) ∧
      (∀ i : Fin 16, y.h[i] = if i.val = h
        then some { entry := f.imm.setWidth 16, last := f.imm.getLsbD 29 } else x.h[i]) ∧
      { y with h := x.h } = x)

/-- RCX arms the reduce unit with its engines, input and output handles, tiles and scale register -/
def Obligations.ColumnReduceIsArmed : Prop :=
  ∀ (u : Issue) (f : Fields) (s : State), s.issues (.rcx u f) →
    let x := s.at u
    let n := u.core.val
    let k := s.core n
    let root := f.imm.getLsbD 33
    let engs := BitVec.ofNat 2 (f.imm.toNat / 2 ^ 31 % 4)
    let hs := (List.range 16).filter fun i => f.imm.getLsbD (15 + i)
    let out0 := f.imm.toNat / 2 ^ 11 % 16
    let nout := f.imm.toNat / 2 ^ 8 % 8 + 1
    let outs := (List.range nout).map (out0 + ·)
    let fault (code : Nat) : Host.Outcome State Fault Refusal := .next (s.programFault n u.ctx code x.pc.toNat)
    let sends (i : Nat) : Prop := ∃ e last, s.handle u i = some (e, last) ∧ e.sending = true
    let receives (i : Nat) : Prop := ∃ e last, s.handle u i = some (e, last) ∧ e.sending = false
    ((hs = [] ∧ engs = 0#2 ∨ root = false ∧ nout ≠ 1) → exec (.rcx u f) s = fault 1) ∧
    (¬ (hs = [] ∧ engs = 0#2 ∨ root = false ∧ nout ≠ 1) →
      (16 < out0 + nout → exec (.rcx u f) s = fault 2) ∧
      (out0 + nout ≤ 16 → ¬ ((∀ i ∈ hs, receives i) ∧ (∀ i ∈ outs, sends i)) → exec (.rcx u f) s = fault 9) ∧
      (out0 + nout ≤ 16 → (∀ i ∈ hs, receives i) → (∀ i ∈ outs, sends i) → k.rcx.length < 4 →
        exec (.rcx u f) s = .next (State.afterIssue (s.setCore n { k with rcx := k.rcx ++
          [{ c := u.ctx, root := root, engs := engs,
             ins := hs.filterMap fun i => (s.handle u i).map fun e => (i, e.1.idx),
             outs := outs.filterMap fun i => (s.handle u i).map fun e => e.1.idx,
             tiles := f.imm.toNat / 2 % 128 + 1,
             scale := if x.taint then { x.getV f.srcb.toNat with pois := 15#4 } else x.getV f.srcb.toNat,
             got := [], sums := [], sent := 0 }] }) u (s.nextPc u))))

/-- ACFG, ASTART and TMV enter the queues of the attention pipeline and the tier mover, or fault -/
def Obligations.AttentionTierAndGroupLaunchInstructions : Prop :=
  ∀ (u : Issue) (f : Fields) (s : State),
    let x := s.at u
    let n := u.core.val
    let po := x.poisA f.srca.toNat
    let s' := s.taintIf u po
    let q := 2 * (n / 13) + (if f.imm.getLsbD 33 then 1 else 0)
    let off := (x.getA f.srca.toNat + (f.imm.setWidth 20).setWidth 64).toNat
    let a := (x.getA f.srca.toNat).toNat
    let go (t : State) : Host.Outcome State Fault Refusal := .next (t.afterIssue u (s.nextPc u))
    let fault (w : State) (code : Nat) : Host.Outcome State Fault Refusal :=
      .next (w.programFault n u.ctx code x.pc.toNat)
    let r := s'.storeRead n off 64
    let phase := f.imm.toNat / 2 ^ 31 % 4
    let inH := s.handle u (f.imm.toNat / 2 ^ 19 % 16)
    let outH := s.handle u (f.imm.toNat / 2 ^ 15 % 16)
    (s.issues (.acfg u f) → (s'.pipe q).queue.length < 4 →
      (off % 64 ≠ 0 → exec (.acfg u f) s = fault s' 3) ∧
      (off % 64 = 0 → 0xFFFFF < off → exec (.acfg u f) s = fault s' 8) ∧
      (off % 64 = 0 → off ≤ 0xFFFFF → cfgOk (wordsOf r.bytes) = false → exec (.acfg u f) s = fault r.s 7) ∧
      (off % 64 = 0 → off ≤ 0xFFFFF → cfgOk (wordsOf r.bytes) = true → exec (.acfg u f) s = go (r.s.pushAtt q
        { core := n, c := u.ctx, phase := 4, wave := s'.waveNum u, mask := 0#8, inS := none, outS := none, addr := off,
          cfg := wordsOf r.bytes, bad := r.pois.any id || po, begun := false }))) ∧
    (s.issues (.astart u f) →
      (phase = 3 → exec (.astart u f) s = fault s 1) ∧
      (phase ≠ 3 → (s'.pipe q).queue.length < 4 →
        (phase ≠ 0 → 0xFFFFF < a → exec (.astart u f) s = fault s' 8) ∧
        (∀ inE outE, phase = 2 → a ≤ 0xFFFFF → inH = some inE → inE.1.sending = false → outH = some outE →
          outE.1.sending = true → exec (.astart u f) s = go (s'.pushAtt q
            { core := n, c := u.ctx, phase := 2, wave := s'.waveNum u, mask := BitVec.ofNat 8 (f.imm.toNat / 2 ^ 23),
              inS := some (inE.1.idx, inE.2), outS := some outE.1.idx, addr := a, cfg := [], bad := po,
              begun := false })) ∧
        (∀ inE, phase = 1 → a ≤ 0xFFFFF → inH = some inE → inE.1.sending = false →
          exec (.astart u f) s = go (s'.pushAtt q
            { core := n, c := u.ctx, phase := 1, wave := s'.waveNum u, mask := BitVec.ofNat 8 (f.imm.toNat / 2 ^ 23),
              inS := some (inE.1.idx, inE.2), outS := none, addr := a, cfg := [], bad := po, begun := false })) ∧
        (phase = 0 → exec (.astart u f) s = go (s'.pushAtt q
            { core := n, c := u.ctx, phase := 0, wave := s'.waveNum u, mask := BitVec.ofNat 8 (f.imm.toNat / 2 ^ 23),
              inS := none, outS := none, addr := a, cfg := [], bad := po, begun := false })) ∧
        ((phase = 1 ∨ phase = 2) → a ≤ 0xFFFFF → inH = none → exec (.astart u f) s = fault s' 9))) ∧
    (s.issues (.tmv u f) → s'.storesOpen n u.ctx = false → (s'.core n).tierQ.length < 4 →
      (off % 64 ≠ 0 → exec (.tmv u f) s = fault s' 3) ∧
      (off % 64 = 0 → 0xFFFFF < off → exec (.tmv u f) s = fault s' 8) ∧
      (off % 64 = 0 → off ≤ 0xFFFFF →
        let w := if r.pois.any id then r.s.taintIf u true else r.s
        exec (.tmv u f) s = go ((w.setCore n { w.core n with tierQ := (w.core n).tierQ ++
          [(u.ctx, Fin.ofNat 16 (f.imm.toNat / 2 ^ 30), if f.imm.getLsbD 29 then 3 else 2, descOf r.bytes)] }).drainTier
            n 4)))

/-- GLN launches a kernel with its uniform block and answers the launch identifier; GWT waits for a launch; that an unknown kernel is ILL is the model's reading (notes/assumptions/30.md) -/
def Obligations.GroupLaunchAndWait : Prop :=
  ∀ (u : Issue) (f : Fields) (s : State),
    let x := s.at u
    let n := u.core.val
    let po := x.poisA f.srca.toNat
    let s' := s.taintIf u po
    let off := (x.getA f.srca.toNat + (f.imm.setWidth 20).setWidth 64).toNat
    let kern := f.imm.toNat / 2 ^ 20 % 1024
    let cnt := f.imm.toNat / 2 ^ 30 + 1
    let fault (code : Nat) : Host.Outcome State Fault Refusal := .next (s'.programFault n u.ctx code x.pc.toNat)
    let known : Prop := ∃ img k, s'.image = some img ∧ k ∈ img.kernels ∧ k.num = kern
    let r := s'.storeRead n off 256
    (s.issues (.gln u f) →
      (¬ known → exec (.gln u f) s = fault 1) ∧
      (known → off % 256 ≠ 0 → exec (.gln u f) s = fault 3) ∧
      (known → off % 256 = 0 → 0xFFFFF < off → exec (.gln u f) s = fault 8) ∧
      (known → off % 256 = 0 → off ≤ 0xFFFFF →
        ((s'.core n).launches.filter fun l => !l.started).length < 4 →
        ∃ t : State, exec (.gln u f) s = .next (t.afterIssue u (s.nextPc u)) ∧
          (t.core n).nextLaunch = (r.s.core n).nextLaunch + 1#16 ∧
          (t.core n).launches.getLast? = some
            { id := (r.s.core n).nextLaunch.toNat, c := u.ctx, kernel := kern, count := cnt, live := cnt, killed := 0,
              started := false, uniform := r.bytes, uniPois := maskBy 32 fun j => r.pois.getD (j / 8) false } ∧
          t.at u = ((r.s.at u).setA f.dst.toNat ((r.s.core n).nextLaunch.setWidth 64) po) ∧
          t.mem = r.s.mem ∧ t.regs = r.s.regs)) ∧
    (s.issues (.gwt u f) → exec (.gwt u f) s = .next (State.afterIssue (s.setCtx n u.ctx
      { x with wait := .gwt f.dst.toNat
                 (if (s.core n).recent (x.getA f.srca.toNat).toNat then (x.getA f.srca.toNat).toNat else 65536) po })
      u (s.nextPc u)))

/-- A subgroup that is not ready or lacks a register issues nothing, and a bad encoding kills its context -/
def Obligations.GroupCodeHeldOrFaulted : Prop :=
  ∀ (i : Instr) (g : GIssue) (f : Fields) (w : GUse) (pairs : List Nat) (s : State),
    groupUseOf i = some (g, f, w, pairs) →
    ((∀ b, ¬ s.subgroupReady g b) → exec i s = .next s) ∧
    (∀ b, s.subgroupReady g b →
      (∀ c, w.fault f = some c → exec i s = .next (s.runBundle i fun _ _ _ _ => .inr c)) ∧
      (∀ c, w.fault f = some c → s.partners g f w pairs = [] →
        exec i s = .next (s.killGroup g.core.val g.gctx c b.pc.toNat)) ∧
      (w.fault f = none → (∃ r ∈ w.regs f pairs, ∃ l, l < 32 ∧ l * 64 + r ∈ (s.grp g.core.val g.gctx).pend) →
        exec i s = .next s))

/-- Group encodings that fault, and what a group fault does to its context and leaves alone; that ILL comes before REG is the model's reading (notes/assumptions/8.md) -/
def Obligations.GroupEncodingFaults : Prop :=
  (∀ (w : GUse) (f : Fields),
    let k (i : Nat) : Nat := f.imm.toNat / 2 ^ i
    let imm : Bool := w.ib && f.imm.getLsbD 27
    let kb : GKind := if imm then .unused else w.b
    let unused : Prop := (w.dst = .unused ∧ f.dst ≠ 0#6) ∨ (w.a = .unused ∧ f.srca ≠ 0#6) ∨
      (kb = .unused ∧ f.srcb ≠ 0#6) ∨ (imm = false ∧ f.imm.toNat &&& w.rsv ≠ 0) ∨
      (imm = true ∧ k 20 % 2 ^ 14 * 2 ^ 20 &&& w.rsv ≠ 0)
    let large : Prop := (w.dst = .u ∧ 32 ≤ f.dst.toNat) ∨ (w.a = .u ∧ 32 ≤ f.srca.toNat) ∨ (kb = .u ∧ 32 ≤ f.srcb.toNat)
    (unused → w.fault f = some 1) ∧ (¬ unused → large → w.fault f = some 2) ∧
    (¬ unused → ¬ large → w.fault f = none)) ∧
  (∀ (s : State) (n : Fin 624) (g : Fin 16) (code pc : Nat), code < 16 → pc < 2 ^ 20 →
    let x := s.grp n.val g
    let o := offSTN n.val + 0x110
    let t := s.killGroup n.val g code pc
    x.kernel < 1024 → x.launch < 65536 → s.groupStores n.val g.val = true →
    t.grp n.val g = { x with killed := true, subs := [], stack := [], pend := [] } ∧
    (∀ h, h ≠ g → t.grp n.val h = s.grp n.val h) ∧ (∀ m, m ≠ n.val → t.core m = s.core m) ∧
    (s.bit o 63 = true → t.reg o = s.reg o) ∧
    (s.bit o 63 = false → t.bit o 63 = true ∧ t.field o 31 28 = code ∧ t.field o 27 24 = g.val ∧
      t.field o 19 0 = pc ∧ t.field o 57 48 = x.kernel ∧ t.field o 47 32 = x.launch) ∧
    (∀ r ∈ s.reqs, r ∈ t.reqs ∨ (r.who = .grp n.val g.val ∧ ∃ a b c, r.kind = .ld a b c)) ∧
    (∀ r ∈ t.reqs, r ∈ s.reqs) ∧ t.mem = s.mem ∧ t.host = s.host ∧ t.streams = s.streams ∧ t.waves = s.waves)

/-- Per-lane integer instructions of a group write the active lanes of tD from tA and B -/
def Obligations.GroupIntegerLanes : Prop :=
  ∀ (g : GIssue) (f : Fields) (s : State) (b : Subgroup),
    let imm : Bool := f.imm.getLsbD 27
    let a (x : GroupCtx) (i : Nat) : Lane := x.tv f.srca.toNat i
    let bl (x : GroupCtx) (i : Nat) : Lane := if imm then (f.imm.setWidth 20).signExtend 32 else x.tv f.srcb.toNat i
    let cl (x : GroupCtx) (i : Nat) : Lane := x.tv (f.imm.toNat / 2 ^ 28 % 64) i
    let ap (x : GroupCtx) (i : Nat) : Bool := x.tp f.srca.toNat i
    let bp (x : GroupCtx) (i : Nat) : Bool := !imm && x.tp f.srcb.toNat i
    let cp (x : GroupCtx) (i : Nat) : Bool := x.tp (f.imm.toNat / 2 ^ 28 % 64) i
    let lanes (i : Instr) (v : GroupCtx → Nat → Lane) (po : GroupCtx → Nat → Bool) : Host.Outcome State Fault Refusal :=
      .next (s.runBundle i fun t _ x c => .inl (t, x.setLanes f.dst.toNat c.mask (v x) (po x)))
    let put (i : Instr) (op : Lane → Lane → Lane) : Host.Outcome State Fault Refusal :=
      lanes i (fun x j => op (a x j) (bl x j)) fun x j => ap x j || bp x j
    (s.groupIssues (.iadd g f) b → exec (.iadd g f) s = put (.iadd g f) (fun p q => p + q)) ∧
    (s.groupIssues (.isub g f) b → exec (.isub g f) s = put (.isub g f) (fun p q => p - q)) ∧
    (s.groupIssues (.imul g f) b → exec (.imul g f) s = put (.imul g f) (fun p q => p * q)) ∧
    (s.groupIssues (.groupAnd g f) b → exec (.groupAnd g f) s = put (.groupAnd g f) (fun p q => p &&& q)) ∧
    (s.groupIssues (.groupOr g f) b → exec (.groupOr g f) s = put (.groupOr g f) (fun p q => p ||| q)) ∧
    (s.groupIssues (.groupXor g f) b → exec (.groupXor g f) s = put (.groupXor g f) (fun p q => p ^^^ q)) ∧
    (s.groupIssues (.groupShl g f) b → exec (.groupShl g f) s = put (.groupShl g f) (fun p q => p <<< (q.toNat % 32))) ∧
    (s.groupIssues (.groupShr g f) b → exec (.groupShr g f) s = put (.groupShr g f) (fun p q => p >>> (q.toNat % 32))) ∧
    (s.groupIssues (.groupSra g f) b → exec (.groupSra g f) s = put (.groupSra g f) (fun p q => p.sshiftRight (q.toNat % 32))) ∧
    (s.groupIssues (.imin g f) b → exec (.imin g f) s = put (.imin g f) (fun p q => if p.toInt ≤ q.toInt then p else q)) ∧
    (s.groupIssues (.imax g f) b → exec (.imax g f) s = put (.imax g f) (fun p q => if p.toInt ≤ q.toInt then q else p)) ∧
    (s.groupIssues (.umin g f) b → exec (.umin g f) s = put (.umin g f) (fun p q => if p.toNat ≤ q.toNat then p else q)) ∧
    (s.groupIssues (.umax g f) b → exec (.umax g f) s = put (.umax g f) (fun p q => if p.toNat ≤ q.toNat then q else p)) ∧
    (s.groupIssues (.seq g f) b → exec (.seq g f) s = put (.seq g f) (fun p q => if p = q then 1#32 else 0#32)) ∧
    (s.groupIssues (.sne g f) b → exec (.sne g f) s = put (.sne g f) (fun p q => if p = q then 0#32 else 1#32)) ∧
    (s.groupIssues (.groupSlt g f) b → exec (.groupSlt g f) s = put (.groupSlt g f) (fun p q => if p.toInt < q.toInt then 1#32 else 0#32)) ∧
    (s.groupIssues (.groupSltu g f) b → exec (.groupSltu g f) s = put (.groupSltu g f) (fun p q => if p.toNat < q.toNat then 1#32 else 0#32)) ∧
    (s.groupIssues (.sel g f) b → exec (.sel g f) s = lanes (.sel g f)
      (fun x i => if cl x i = 0#32 then bl x i else a x i) fun x i => ap x i || bp x i || cp x i) ∧
    (s.groupIssues (.mov g f) b → exec (.mov g f) s = lanes (.mov g f) bl bp) ∧
    (s.groupIssues (.shfl g f) b → exec (.shfl g f) s = lanes (.shfl g f)
      (fun x i => a x ((bl x i).toNat % 32)) fun x i => bp x i || ap x ((bl x i).toNat % 32))

/-- A group instruction changes the active lanes of its destination and no other lane or register -/
def Obligations.GroupLaneWritesTouchActiveLanesOnly : Prop :=
  ∀ (x : GroupCtx) (r : Nat) (m : BitVec 32) (v : Nat → Lane) (po : Nat → Bool), r < 64 →
    let y := x.setLanes r m v po
    (∀ i, i < 32 → y.tv r i = (if m.getLsbD i then v i else x.tv r i) ∧
      y.tp r i = (if m.getLsbD i then po i else x.tp r i)) ∧
    (∀ k i, k ≠ r → y.tv k i = x.tv k i ∧ y.tp k i = x.tp k i) ∧
    y.u = x.u ∧ y.uPois = x.uPois ∧ y.subs = x.subs ∧ y.stack = x.stack ∧ y.taint = x.taint ∧ y.pend = x.pend ∧
    (∀ (k : Nat) (w : Word) (q : Bool), k < 32 → (x.setU k w q).uv k = w ∧ (x.setU k w q).uPois.getLsbD k = q ∧
      (x.setU k w q).t = x.t ∧ ∀ j, j ≠ k → (x.setU k w q).uv j = x.uv j)

/-- Per-lane FP32 instructions of a group round to nearest even, never saturate, and set STN_GX_FLAGS -/
def Obligations.GroupFloatingPointLanes : Prop :=
  ∀ (g : GIssue) (f : Fields) (s : State) (b : Subgroup),
    let imm : Bool := f.imm.getLsbD 27
    let a (x : GroupCtx) (i : Nat) : Lane := x.tv f.srca.toNat i
    let bl (x : GroupCtx) (i : Nat) : Lane := if imm then (f.imm.setWidth 20).signExtend 32 else x.tv f.srcb.toNat i
    let cl (x : GroupCtx) (i : Nat) : Lane := x.tv (f.imm.toNat / 2 ^ 28 % 64) i
    let ap (x : GroupCtx) (i : Nat) : Bool := x.tp f.srca.toNat i
    let bp (x : GroupCtx) (i : Nat) : Bool := !imm && x.tp f.srcb.toNat i
    let cp (x : GroupCtx) (i : Nat) : Bool := x.tp (f.imm.toNat / 2 ^ 28 % 64) i
    let put (i : Instr) (r : GroupCtx → Nat → Nat × FpFlags) (po : GroupCtx → Nat → Bool) : Host.Outcome State Fault Refusal :=
      .next (s.runBundle i fun t _ x c =>
        .inl (t.raiseGroup g.core.val (allFlags ((List.range 32).map fun j => if c.mask.getLsbD j then (r x j).2 else 0#5)),
          x.setLanes f.dst.toNat c.mask (fun j => BitVec.ofNat 32 (r x j).1) (po x)))
    let two (i : Instr) (op : Nat → Nat → Nat × FpFlags) :=
      put i (fun x j => op (a x j).toNat (bl x j).toNat) fun x j => ap x j || bp x j
    let one (i : Instr) (op : Nat → Nat × FpFlags) := put i (fun x j => op (a x j).toNat) ap
    (s.groupIssues (.fadd g f) b → exec (.fadd g f) s = two (.fadd g f) (fun p q => fpAdd fmt32 modeIeee (unpack fmt32 p) (unpack fmt32 q))) ∧
    (s.groupIssues (.fsub g f) b → exec (.fsub g f) s = two (.fsub g f) (fun p q => fpSub fmt32 modeIeee (unpack fmt32 p) (unpack fmt32 q))) ∧
    (s.groupIssues (.fmul g f) b → exec (.fmul g f) s = two (.fmul g f) (fun p q => fpMul fmt32 modeIeee (unpack fmt32 p) (unpack fmt32 q))) ∧
    (s.groupIssues (.fmin g f) b → exec (.fmin g f) s = two (.fmin g f) (fun p q => fpMinMax fmt32 false p q (unpack fmt32 p) (unpack fmt32 q))) ∧
    (s.groupIssues (.fmax g f) b → exec (.fmax g f) s = two (.fmax g f) (fun p q => fpMinMax fmt32 true p q (unpack fmt32 p) (unpack fmt32 q))) ∧
    (s.groupIssues (.feq g f) b → exec (.feq g f) s = two (.feq g f) (fun p q => laneCmp 0 p q)) ∧
    (s.groupIssues (.flt g f) b → exec (.flt g f) s = two (.flt g f) (fun p q => laneCmp 2 p q)) ∧
    (s.groupIssues (.fle g f) b → exec (.fle g f) s = two (.fle g f) (fun p q => laneCmp 3 p q)) ∧
    (s.groupIssues (.f2h g f) b → exec (.f2h g f) s = two (.f2h g f) (fun p q => ((toIeee fmt16 modeIeee (unpack fmt32 p)).1 + (toIeee fmt16 modeIeee (unpack fmt32 q)).1 * 65536,
        (toIeee fmt16 modeIeee (unpack fmt32 p)).2 ||| (toIeee fmt16 modeIeee (unpack fmt32 q)).2))) ∧
    (s.groupIssues (.fexp2 g f) b → exec (.fexp2 g f) s = one (.fexp2 g f) (fun p => estExp2 false p)) ∧
    (s.groupIssues (.frcp g f) b → exec (.frcp g f) s = one (.frcp g f) (fun p => estRcp false p)) ∧
    (s.groupIssues (.flog2 g f) b → exec (.flog2 g f) s = one (.flog2 g f) (fun p => estLog2 p)) ∧
    (s.groupIssues (.i2f g f) b → exec (.i2f g f) s = one (.i2f g f) (fun p => toIeee fmt32 modeIeee (numOfInt (signedOf 32 p)))) ∧
    (s.groupIssues (.f2i g f) b → exec (.f2i g f) s = one (.f2i g f) (fun p => toI32 .near (unpack fmt32 p))) ∧
    (s.groupIssues (.h2f g f) b → exec (.h2f g f) s =
      one (.h2f g f) (fun p => toIeee fmt32 modeIeee (unpack fmt16 (if f.imm.getLsbD 20 then p / 65536 else p % 65536)))) ∧
    (s.groupIssues (.ffma g f) b → exec (.ffma g f) s = put (.ffma g f) (fun x i => fpFma fmt32 modeIeee
      (unpack fmt32 (a x i).toNat) (unpack fmt32 (bl x i).toNat) (unpack fmt32 (cl x i).toNat))
      fun x i => ap x i || bp x i || cp x i)

/-- Uniform, vote and special instructions of a group write uD or broadcast to tD as their table says -/
def Obligations.GroupUniformInstructions : Prop :=
  ∀ (g : GIssue) (f : Fields) (s : State) (b : Subgroup),
    let x := s.grp g.core.val g.gctx
    let imm : Bool := f.imm.getLsbD 27
    let a := x.uv f.srca.toNat
    let q : Word := if imm then (f.imm.setWidth 20).signExtend 64 else x.uv f.srcb.toNat
    let ap := x.uPois.getLsbD f.srca.toNat
    let bp : Bool := !imm && x.uPois.getLsbD f.srcb.toNat
    let pc : Int := b.pc.toNat + 8
    let put (v : Word) (po : Bool) : Host.Outcome State Fault Refusal :=
      .next (s.afterGroup g b (x.setU f.dst.toNat v po) pc)
    let op (fn : Word → Word → Word) := put (fn a q) (ap || bp)
    let k := f.imm.toNat % 32
    let c := f.imm.toNat % 16
    let lanes (fn : Nat → Lane) (po : Nat → Bool) : Host.Outcome State Fault Refusal :=
      .next (s.afterGroup g b (x.setLanes f.dst.toNat b.mask fn po) pc)
    (s.groupIssues (.uadd g f) b → exec (.uadd g f) s = op (fun p q => p + q)) ∧
    (s.groupIssues (.usub g f) b → exec (.usub g f) s = op (fun p q => p - q)) ∧
    (s.groupIssues (.umul g f) b → exec (.umul g f) s = op (fun p q => p * q)) ∧
    (s.groupIssues (.uand g f) b → exec (.uand g f) s = op (fun p q => p &&& q)) ∧
    (s.groupIssues (.uor g f) b → exec (.uor g f) s = op (fun p q => p ||| q)) ∧
    (s.groupIssues (.uxor g f) b → exec (.uxor g f) s = op (fun p q => p ^^^ q)) ∧
    (s.groupIssues (.ushl g f) b → exec (.ushl g f) s = op (fun p q => p <<< (q.toNat % 64))) ∧
    (s.groupIssues (.ushr g f) b → exec (.ushr g f) s = op (fun p q => p >>> (q.toNat % 64))) ∧
    (s.groupIssues (.uslt g f) b → exec (.uslt g f) s = op (fun p q => if p.toInt < q.toInt then 1#64 else 0#64)) ∧
    (s.groupIssues (.umov g f) b → exec (.umov g f) s = put q bp) ∧
    (s.groupIssues (.uxt g f) b → exec (.uxt g f) s = put ((x.tv f.srca.toNat k).setWidth 64) (x.tp f.srca.toNat k)) ∧
    (s.groupIssues (.ubc g f) b → exec (.ubc g f) s = lanes (fun _ => a.setWidth 32) fun _ => ap) ∧
    (s.groupIssues (.vote g f) b → ∃ v : Word, ∃ po : Bool, exec (.vote g f) s = put v po ∧
      (∀ i, v.getLsbD i = (decide (i < 32) && b.mask.getLsbD i && decide (x.tv f.srca.toNat i ≠ 0#32))) ∧
      (po = true ↔ ∃ i, i < 32 ∧ b.mask.getLsbD i = true ∧ x.tp f.srca.toNat i = true)) ∧
    (s.groupIssues (.gspec g f) b →
      (c = 0 → exec (.gspec g f) s = lanes (fun i => BitVec.ofNat 32 i) fun _ => false) ∧
      (c = 1 → exec (.gspec g f) s = put (BitVec.ofNat 64 x.index) false) ∧
      (c = 2 → exec (.gspec g f) s = put (BitVec.ofNat 64 x.count) false) ∧
      (c = 3 → exec (.gspec g f) s = put (BitVec.ofNat 64 x.launch) false) ∧
      (c = 4 → exec (.gspec g f) s = put (s.ctx g.core.val x.owner).waveWord false) ∧
      (c = 5 → exec (.gspec g f) s = put (BitVec.ofNat 64 s.time) false) ∧
      (c = 6 → exec (.gspec g f) s =
        put (BitVec.ofNat 64 (g.core.val + (if x.owner = .p then 1024 else 0))) false) ∧
      (6 < c → exec (.gspec g f) s = .next (s.killGroup g.core.val g.gctx 1 b.pc.toNat)))

/-- Group branches, divergence, reconvergence, GFENCE and GEXIT act on the subgroups and the stack as their rules say -/
def Obligations.GroupBranchesAndDivergence : Prop :=
  ∀ (g : GIssue) (f : Fields) (s : State) (b : Subgroup),
    let n := g.core.val
    let x := s.grp n g.gctx
    let on : Int := b.pc.toNat + 8
    let far : Int := b.pc.toNat + 8 * f.imm.toInt
    let dest : Int := b.pc.toNat + 8 * ((f.imm.extractLsb' 17 17).toInt)
    let rpc : BitVec 20 := BitVec.ofInt 20 (b.pc.toNat + 8 * ((f.imm.setWidth 17).toInt))
    let die (y : GroupCtx) (code pc : Nat) : Host.Outcome State Fault Refusal :=
      .next ((s.setGrp n g.gctx y).killGroup n g.gctx code pc)
    let jump (y : GroupCtx) (pc : Int) : Host.Outcome State Fault Refusal :=
      if y.pcOk pc then .next (s.afterGroup g b y pc) else
        .next (((s.count (0x100 + n) 8 1).setGrp n g.gctx y).killGroup n g.gctx 6 (BitVec.ofInt 20 pc).toNat)
    let xu := if x.uPois.getLsbD f.srca.toNat then { x with taint := true } else x
    let taken : BitVec 32 := maskBy 32 fun i => b.mask.getLsbD i && decide (x.tv f.srca.toNat i ≠ 0#32)
    let xt := if (List.range 32).any fun i => b.mask.getLsbD i && x.tp f.srca.toNat i then { x with taint := true } else x
    (s.groupIssues (.gnop g f) b → exec (.gnop g f) s = .next (s.afterGroup g b x on)) ∧
    (s.groupIssues (.bra g f) b → exec (.bra g f) s = jump x far) ∧
    (s.groupIssues (.bru g f) b → exec (.bru g f) s =
      if x.uv f.srca.toNat = 0#64 then .next (s.afterGroup g b xu on) else jump xu far) ∧
    (s.groupIssues (.brd g f) b →
      (taken = 0#32 → exec (.brd g f) s = .next (s.afterGroup g b xt on)) ∧
      (taken ≠ 0#32 → taken = b.mask → exec (.brd g f) s = jump xt dest) ∧
      (taken ≠ 0#32 → taken ≠ b.mask → 16 ≤ x.stack.length → exec (.brd g f) s = die xt 7 b.pc.toNat) ∧
      (taken ≠ 0#32 → taken ≠ b.mask → x.stack.length < 16 → xt.pcOk dest = true →
        ∃ (e : StackEntry) (y : GroupCtx), exec (.brd g f) s = .next (s.afterSplit g y) ∧
          e.mask = b.mask ∧ e.rpc = rpc ∧ e.parent = b.entry ∧ (∀ d ∈ x.stack, d.id ≠ e.id) ∧
          y.stack = x.stack ++ [e] ∧
          y.subs = (x.subs.filter fun z => !z.mask.getLsbD g.lane.val) ++
            [{ pc := BitVec.ofInt 20 dest, mask := taken, entry := some e.id, atRcv := b.atRcv, fence := none },
             { pc := b.pc + 8#20, mask := b.mask &&& ~~~ taken, entry := some e.id, atRcv := b.atRcv, fence := none }] ∧
          y.t = x.t ∧ y.u = x.u) ∧
      (taken ≠ 0#32 → taken ≠ b.mask → x.stack.length < 16 → xt.pcOk dest = false →
        exec (.brd g f) s = jump xt dest)) ∧
    (s.groupIssues (.rcv g f) b →
      ((∀ e ∈ x.stack, b.entry = some e.id → e.rpc ≠ b.pc) → exec (.rcv g f) s = .next (s.afterGroup g b x on)) ∧
      (∀ e, x.stack.find? (fun e => decide (b.entry = some e.id)) = some e → e.rpc = b.pc → exec (.rcv g f) s =
        .next (s.afterSplit g ((x.putSub g.lane { b with atRcv := true, fence := none }).mergeAt e)))) ∧
    (s.groupIssues (.gfence g f) b → exec (.gfence g f) s =
      .next (s.afterSplit g (x.putSub g.lane { b with fence := some s.nextReq, pc := b.pc + 8#20 }))) ∧
    (s.groupIssues (.gexit g f) b → ∃ y : GroupCtx, exec (.gexit g f) s = .next (s.afterSplit g y) ∧
      y.t = x.t ∧ y.u = x.u ∧ (∀ e ∈ y.stack, ∃ d ∈ x.stack, e.id = d.id ∧ e.rpc = d.rpc ∧
        e.mask = d.mask &&& ~~~ b.mask ∧ e.mask ≠ 0#32))

/-- GLDS and GSTS read and write the core store for each active lane, or kill the context with the fault of their rule -/
def Obligations.GroupStoreAccess : Prop :=
  ∀ (g : GIssue) (f : Fields) (s : State) (b : Subgroup),
    let n := g.core.val
    let w : Bool := f.imm.getLsbD 20
    let size : Nat := if w then 8 else 4
    let d := f.dst.toNat
    let ls (c : Subgroup) := (List.range 32).filter c.mask.getLsbD
    let at_ (x : GroupCtx) (i : Nat) : Nat := (x.tv f.srca.toNat i + (f.imm.setWidth 20).signExtend 32).toNat
    let y (x : GroupCtx) (c : Subgroup) := if (ls c).any fun i => x.tp f.srca.toNat i then { x with taint := true } else x
    let Eff := State → GIssue → GroupCtx → Subgroup → (State × GroupCtx) ⊕ Nat
    let faults (e : Eff) : Prop := ∀ (t : State) (h : GIssue) (x : GroupCtx) (c : Subgroup),
      (w = true → d % 2 = 1 → e t h x c = .inr 2) ∧
      ((w = true → d % 2 = 0) → (∃ j ∈ ls c, at_ x j % size ≠ 0) → e t h x c = .inr 3) ∧
      ((w = true → d % 2 = 0) → (∀ j ∈ ls c, at_ x j % size = 0) → (∃ j ∈ ls c, 0xFFFFF < at_ x j) → e t h x c = .inr 5)
    let ok (x : GroupCtx) (c : Subgroup) : Prop :=
      (w = true → d % 2 = 0) ∧ (∀ i ∈ ls c, at_ x i % size = 0) ∧ ∀ i ∈ ls c, at_ x i ≤ 0xFFFFF
    (s.groupIssues (.gsts g f) b → ∃ e : Eff, exec (.gsts g f) s = .next (s.runBundle (.gsts g f) e) ∧ faults e ∧
      ∀ (t : State) (h : GIssue) (x : GroupCtx) (c : Subgroup), h.core = g.core → ok x c →
        e t h x c = .inl ((ls c).foldl (fun t i => t.storeWrite n (at_ x i)
          (leBytes 4 (x.tv d i).toNat ++ (if w then leBytes 4 (x.tv (d + 1) i).toNat else []))
          ((y x c).taint || x.tp d i || (w && x.tp (d + 1) i))) t, y x c)) ∧
    (s.groupIssues (.glds g f) b → ∃ e : Eff, exec (.glds g f) s = .next (s.runBundle (.glds g f) e) ∧ faults e ∧
      ∀ (t : State) (h : GIssue) (x : GroupCtx) (c : Subgroup), h.core = g.core → ok x c → ∃ (u : State) (z : GroupCtx),
        e t h x c = .inl (u, z) ∧ z.u = x.u ∧ z.stack = x.stack ∧ z.subs = x.subs ∧ z.taint = (y x c).taint ∧
        (∀ k i, i < 32 → (i ∉ ls c ∨ (k ≠ d ∧ (w = false ∨ k ≠ d + 1))) → z.tv k i = x.tv k i ∧ z.tp k i = x.tp k i) ∧
        (t.memOk → ∀ i ∈ ls c, z.tv d i = BitVec.ofNat 32 (leNat (t.mem.read (2 ^ 48 + n * 2 ^ 20 + at_ x i) 4)) ∧
          (w = true → z.tv (d + 1) i =
            BitVec.ofNat 32 (leNat (t.mem.read (2 ^ 48 + n * 2 ^ 20 + at_ x i + 4) 4)))) ∧
        u.mem = t.mem ∧ u.cores = t.cores)

/-- GLDC, GSTC and GRED complete with requests for their active lanes, or kill the context with the fault of their rule -/
def Obligations.GroupCachedAccess : Prop :=
  ∀ (g : GIssue) (f : Fields) (s : State) (b : Subgroup),
    let n := g.core.val
    let x := s.grp n g.gctx
    let w : Bool := f.imm.getLsbD 20
    let size : Nat := if w then 8 else 4
    let d := f.dst.toNat
    let cls := f.imm.toNat / 2 ^ 24 % 8
    let ls := (List.range 32).filter b.mask.getLsbD
    let at_ (i : Nat) : Nat := (x.uv f.srca.toNat + (x.tv f.srcb.toNat i).setWidth 64 +
      (f.imm.setWidth 20).signExtend 64).toNat
    let ap (i : Nat) : Bool := x.uPois.getLsbD f.srca.toNat || x.tp f.srcb.toNat i
    let y := if ls.any ap then { x with taint := true } else x
    let pc : Int := b.pc.toNat + 8
    let op := f.imm.toNat / 2 ^ 20 % 8
    let ty : Nat := if f.imm.getLsbD 23 then 2 else 0
    let cv (i : Nat) : Lane := x.tv (f.imm.toNat / 2 ^ 28 % 64) i
    let cp (i : Nat) : Bool := y.taint || x.tp (f.imm.toNat / 2 ^ 28 % 64) i
    let bad (c : Nat) : Host.Outcome State Fault Refusal :=
      .next ((ls.foldl (fun s i => s.accvAt (at_ i)) s).killGroup n g.gctx c b.pc.toNat)
    let request (t : State) (k : ReqKind) (a len : Nat) : State := { t with nextReq := t.nextReq + 1, reqs := t.reqs ++
      [{ id := t.nextReq, who := .grp n g.gctx.val, kind := k, pa := a, size := len, cls := cls, stage := .sent,
         pc := b.pc.toNat, arr := 0 }] }
    let misaligned (len : Nat) : Prop := ∃ i ∈ ls, at_ i % len ≠ 0
    let allowed (len : Nat) (store red : Bool) : Prop :=
      (∀ i ∈ ls, at_ i % len = 0) ∧ ∀ i ∈ ls, s.cachedOk n (at_ i) len store red = true
    let refused (len : Nat) (store red : Bool) : Prop :=
      (∀ i ∈ ls, at_ i % len = 0) ∧ ∃ i ∈ ls, s.cachedOk n (at_ i) len store red = false
    (∀ i : Instr, (i = .gldc g f ∨ i = .gstc g f) → s.groupIssues i b → w = true → d % 2 = 1 →
      exec i s = .next (s.killGroup n g.gctx 2 b.pc.toNat)) ∧
    (s.groupIssues (.gldc g f) b → (w = true → d % 2 = 0) →
      (misaligned size → exec (.gldc g f) s = bad 3) ∧ (refused size false false → exec (.gldc g f) s = bad 4) ∧
      (allowed size false false → exec (.gldc g f) s = .next (State.afterGroup
        (ls.foldl (fun t i => request t (.ld (.treg g.gctx.val i d) false (ap i)) (at_ i) size) s)
        g b { y with pend := x.pend ++ ls.flatMap fun i =>
                (i * 64 + d) :: (if w then [i * 64 + (d + 1)] else []) } pc))) ∧
    (s.groupIssues (.gstc g f) b → (w = true → d % 2 = 0) →
      (misaligned size → exec (.gstc g f) s = bad 3) ∧ (refused size true false → exec (.gstc g f) s = bad 4) ∧
      (allowed size true false → exec (.gstc g f) s = .next (State.afterGroup
        (ls.foldl (fun t i => request t
          (.st (leBytes 4 (x.tv d i).toNat ++ (if w then leBytes 4 (x.tv (d + 1) i).toNat else []))
            (if y.taint || x.tp d i || (w && x.tp (d + 1) i) then 15#4 else 0#4)) (at_ i) size) s) g b y pc))) ∧
    (s.groupIssues (.gred g f) b →
      (2 < op → exec (.gred g f) s = .next (s.killGroup n g.gctx 1 b.pc.toNat)) ∧
      (op ≤ 2 → misaligned 4 → exec (.gred g f) s = bad 3) ∧ (op ≤ 2 → refused 4 true true → exec (.gred g f) s = bad 4) ∧
      (op ≤ 2 → allowed 4 true true →
        let comb (a : Nat) : Nat × Bool × Bool := match ls.filter (fun i => decide (at_ i = a)) with
          | [] => (0, false, false)
          | j :: r => r.foldl (fun (v : Nat × Bool × Bool) i =>
              let e := redElem ty op v.1 (cv i).toNat
              (e.1, v.2.1 || cp i, v.2.2 || e.2)) ((cv j).toNat, cp j, false)
        exec (.gred g f) s = .next (State.afterGroup ((ls.map at_).eraseDups.foldl (fun t a => request t
          (.red { off := a % 256, data := leBytes 4 (comb a).1, ty := ty, op := op, pois := (comb a).2.1,
                  sat := (comb a).2.2, cls := cls, core := n }) a 4) s) g b y pc)))

/-- GATOM reads the old word of each active lane into tD and writes the new one to the core store -/
def Obligations.GroupAtomics : Prop :=
  ∀ (g : GIssue) (f : Fields) (s : State) (b : Subgroup), s.groupIssues (.gatom g f) b →
    let n := g.core.val
    let x := s.grp n g.gctx
    let op := f.imm.toNat / 2 ^ 20 % 16
    let ls := (List.range 32).filter b.mask.getLsbD
    let at_ (i : Nat) : Nat := (x.tv f.srca.toNat i + (f.imm.setWidth 20).signExtend 32).toNat
    let die (code : Nat) : Host.Outcome State Fault Refusal := .next (s.killGroup n g.gctx code b.pc.toNat)
    (8 < op → exec (.gatom g f) s = die 1) ∧
    (op ≤ 8 → (∃ j ∈ ls, at_ j % 4 ≠ 0) → exec (.gatom g f) s = die 3) ∧
    (op ≤ 8 → (∀ j ∈ ls, at_ j % 4 = 0) → (∃ j ∈ ls, 0xFFFFF < at_ j) → exec (.gatom g f) s = die 5) ∧
    (op ≤ 8 → (∀ j ∈ ls, at_ j % 4 = 0) → (∀ j ∈ ls, at_ j ≤ 0xFFFFF) → ∃ (t : State) (z : GroupCtx),
      exec (.gatom g f) s = .next (t.afterGroup g b z (b.pc.toNat + 8)) ∧ z.u = x.u ∧ z.stack = x.stack ∧
      (∀ k i, i < 32 → (i ∉ ls ∨ k ≠ f.dst.toNat) → z.tv k i = x.tv k i ∧ z.tp k i = x.tp k i) ∧
      (s.memOk → s.bit (offERR + 0x20) 0 = false → ∀ i, ls = [i] →
        let old := BitVec.ofNat 32 (leNat (s.mem.read (2 ^ 48 + n * 2 ^ 20 + at_ i) 4))
        z.tv f.dst.toNat i = old ∧
        t.mem.read (2 ^ 48 + n * 2 ^ 20 + at_ i) 4 =
          leBytes 4 (atomStep op old (x.tv f.srcb.toNat i) (x.tv (f.imm.toNat / 2 ^ 28 % 64) i)).1.toNat ∧
        ∀ a, (a < 2 ^ 48 + n * 2 ^ 20 + at_ i ∨ 2 ^ 48 + n * 2 ^ 20 + at_ i + 4 ≤ a) →
          memByte t.mem.bytes a = memByte s.mem.bytes a))

/-- GMMA multiplies the 8 by 8 fragments of its registers into two registers of every active lane -/
def Obligations.GroupMatrixMultiply : Prop :=
  ∀ (g : GIssue) (f : Fields) (s : State) (b : Subgroup), s.groupIssues (.gmma g f) b →
    let n := g.core.val
    let x := s.grp n g.gctx
    let d := f.dst.toNat
    let c := f.imm.toNat / 2 ^ 28 % 64
    let part : Prop := b.mask ≠ 0xFFFFFFFF#32
    let die (code : Nat) : Host.Outcome State Fault Refusal := .next (s.killGroup n g.gctx code b.pc.toNat)
    let el (h i : Nat) : Nat × FpFlags := x.mma b.mask f.srca.toNat f.srcb.toNat c (2 * (i / 8) + h) (i % 8)
    ((d % 2 = 1 ∨ c % 2 = 1) → exec (.gmma g f) s = die 2) ∧
    (d % 2 = 0 → c % 2 = 0 → part → s.bit (offSTN n + 0x100) 0 = true → exec (.gmma g f) s = die 8) ∧
    (d % 2 = 0 → c % 2 = 0 → (b.mask = 0xFFFFFFFF#32 ∨ s.bit (offSTN n + 0x100) 0 = false) →
      ∃ (t : State) (z : GroupCtx), exec (.gmma g f) s = .next (t.afterGroup g b z (b.pc.toNat + 8)) ∧
        (∀ i, i < 32 → b.mask.getLsbD i = true → z.tv d i = BitVec.ofNat 32 (el 0 i).1 ∧
          z.tv (d + 1) i = BitVec.ofNat 32 (el 1 i).1) ∧
        (∀ k i, i < 32 → (b.mask.getLsbD i = false ∨ (k ≠ d ∧ k ≠ d + 1)) →
          z.tv k i = x.tv k i ∧ z.tp k i = x.tp k i) ∧
        (b.mask = 0xFFFFFFFF#32 → t.reg (offSTN n + 0x118) = s.reg (offSTN n + 0x118)) ∧
        (part → s.field (offSTN n + 0x118) 31 0 + 1 < 2 ^ 32 - 1 →
          t.field (offSTN n + 0x118) 31 0 = s.field (offSTN n + 0x118) 31 0 + 1) ∧
        z.u = x.u ∧ t.mem = s.mem ∧ t.cores = s.cores)

/-- Planes enter, weights are read again, and tiles combine and retire, as the engine rules say; the lane exponents of a hold bank are the model's choice (notes/assumptions/21.md), and which V-port group a T4 byte makes suspect is its reading (notes/assumptions/79.md) -/
def Obligations.EnginePlaneAndTileEvents : Prop :=
  (∀ (n : Fin 624) (e : Fin 2) (g : Fin 32) (s : State) (r : Run) (rs : List Run) (b : PlaneBuf) (bs : List PlaneBuf),
    let eng := (s.core n.val).eng e.val
    s.coreLive n.val = true → eng.runs = r :: rs → eng.feeders[g].buf = b :: bs → eng.mayEnter r g = true →
    ((b.bad = [] ∨ b.asRead = true) → exec (.planeEntry n e g) s = .next (s.enter n.val e.val g r b)) ∧
    (b.bad ≠ [] → b.asRead = false → ∃ t : State, exec (.planeEntry n e g) s = .next t ∧ t.mem = s.mem ∧
      ((t.core n.val).eng e.val).feeders[g] = { eng.feeders[g] with hold := .reread } ∧
      ((t.core n.val).eng e.val).tiles = eng.tiles ∧ t.bit (offENG n.val e.val + 8) 17 = true)) ∧
  (∀ (n : Fin 624) (e : Fin 2) (g : Fin 32) (s : State) (r : Run) (rs : List Run) (b : PlaneBuf),
    let eng := (s.core n.val).eng e.val
    let m := r.entered[g]
    let r' : Run := { r with entered := r.entered.set g (m + 1) }
    eng.runs = r :: rs → eng.badLanes g.val = 0#8 → r'.slowest ≠ r.t * r.planes →
    let t := s.enter n.val e.val g r b
    let eng' := (t.core n.val).eng e.val
    eng'.tiles = (eng.enterPlane r g (m / r.planes) (m % r.planes) b.bytes.toArray (b.asRead && !b.bad.isEmpty)).tiles ∧
    (∃ x ys, eng'.runs = x :: ys ∧ x.entered = r'.entered ∧ x.t = r.t ∧ x.addr = r.addr) ∧
    eng'.act = eng.act ∧ eng'.bank = eng.bank ∧ eng'.link = eng.link ∧ t.mem = s.mem) ∧
  (∀ (eng : Engine) (r : Run) (g : Fin 32) (k p : Nat) (bytes : Array Byte) (bad : Bool),
    let mine (x : Tile) : Bool := decide (x.idx = k) && x.result.isNone && decide (x.entered[g] = p)
    let blk : Nat := if g.val < 16 then 0 else 256
    let w : Int := if p + 1 = r.planes then -(2 ^ p) else 2 ^ p
    let sum (lane o : Nat) : Int := ((List.range 4).map fun i =>
      if r.weightBit bytes k p i o then eng.actVal (4 * g.val + i) lane else 0).foldl (· + ·) 0
    let after (x : Tile) : Tile :=
      { x with
        entered := x.entered.set g (p + 1),
        pois := x.pois ||| eng.poisL ||| (if bad then 255#8 else 0#8),
        acc := Vector.ofFn fun i : Fin 512 => if blk ≤ i.val ∧ i.val < blk + 256 then
          (sat32 (x.acc[i].toInt + w * sum ((i.val - blk) / 32) (i.val % 32))).1 else x.acc[i] }
    ((∃ x ∈ eng.tiles, mine x = true) →
      (eng.enterPlane r g k p bytes bad).tiles = updateFirst mine after eng.tiles) ∧
    ((∀ x ∈ eng.tiles, mine x = false) → (eng.enterPlane r g k p bytes bad).tiles =
      updateFirst mine after (eng.tiles ++ [eng.newTile r k]))) ∧
  (∀ (n : Fin 624) (e : Fin 2) (g : Fin 32) (s : State) (b : PlaneBuf) (rest : List PlaneBuf), s.coreLive n.val = true →
    let eng := (s.core n.val).eng e.val
    eng.feeders[g].hold = .reread → eng.feeders[g].buf = b :: rest → s.vportFlip n.val e.val = none →
    let key := fieldKey n.val b.addr
    let len := b.bytes.length
    let bad := s.mem.badBytes key len
    let sus := s.suspect (s.vportOf n.val e.val b.addr [g.val])
    let fed (u : State) (h : Hold) (asRead : Bool) : State := u.setCore n.val ((u.core n.val).setEng e.val { eng with
      feeders := eng.feeders.set g { hold := h, buf := { b with bytes := s.mem.read key len, bad := bad, asRead := asRead } :: rest } })
    ((∀ i, i < len → s.mem.byteFails (key + i) = false) → exec (.weightReread n e g) s =
      .next (((fed s .ready false).errRec 5 1 (posUnit 2 n.val e.val) b.addr).tryEnter n.val e.val g)) ∧
    ((∃ i, i < len ∧ s.mem.byteFails (key + i) = true) →
      ((sus.backAt n.val b.addr).isSome = true → exec (.weightReread n e g) s = .next (fed sus .restore false)) ∧
      ((sus.backAt n.val b.addr).isSome = false → exec (.weightReread n e g) s =
        .next (((fed sus .ready true).errRec 5 3 (posUnit 2 n.val e.val) b.addr).tryEnter n.val e.val g)))) ∧
  (∀ (n : Fin 624) (e : Fin 2) (s : State) (x : Tile), s.coreLive n.val = true →
    let eng := (s.core n.val).eng e.val
    eng.tiles.find? Tile.complete = some x →
    (x.hold = false → ∃ (t : State) (res : Vector ColVal 256), exec (.tileCombine n e) s = .next t ∧ t.mem = s.mem ∧
      (t.core n.val).eng e.val =
        { eng with tiles := updateFirst Tile.complete (fun y => { y with result := some res }) eng.tiles } ∧
      ∀ i : Fin 256, res[i].c = (x.column i.val).1 ∧ res[i].m = BitVec.ofNat 9 (x.column i.val).2.1) ∧
    (x.hold = true → (∃ y, eng.edr = some y ∧ y.before = 0) → exec (.tileCombine n e) s = .next s) ∧
    (x.hold = true → (∀ y, eng.edr = some y → y.before ≠ 0) → ∃ (bank : Vector ColVal 256) (k : Nat),
      exec (.tileCombine n e) s = .next (((s.setCore n.val ((s.core n.val).setEng e.val
        { eng with bank := bank, bankLam := x.lam, bankPois := (if x.fresh then 0#8 else eng.bankPois) ||| x.pois,
                   tiles := eng.tiles.filter fun y => decide (y ≠ x),
                   edr := eng.edr.map fun y => { y with before := y.before - 1 } })).engSat n.val e.val k).engAfter
          n.val e.val) ∧
      ∀ i : Fin 256,
        let old : ColVal := if x.fresh then { c := 0#32, m := 0x1FF#9 } else eng.bank[i]
        let v := alignAdd old.c old.m.toNat (x.column i.val).1 (x.column i.val).2.1
        bank[i].c = v.1 ∧ bank[i].m = BitVec.ofNat 9 v.2.1)) ∧
  (∀ (n : Fin 624) (e : Fin 2) (cg : Fin 8) (s : State) (x : Tile), s.coreLive n.val = true →
    let eng := (s.core n.val).eng e.val
    eng.tiles.find? (fun y => !y.retired.getLsbD cg.val) = some x → x.result.isSome = true → eng.credits[cg] ≠ 0 →
    ∃ g : Engine, exec (.tileRetire n e cg) s =
        .next ((s.setCore n.val ((s.core n.val).setEng e.val g)).engAfter n.val e.val) ∧
      g.credits[cg] + 1 = eng.credits[cg] ∧ g.link[cg] = eng.link[cg] ++ [x.packet cg] ∧
      (∀ c : Fin 8, c ≠ cg → g.credits[c] = eng.credits[c] ∧ g.link[c] = eng.link[c]) ∧ g.bank = eng.bank ∧
      (∀ y ∈ g.tiles, y.retired ≠ 255#8))

/-- Launches start, the reduce unit takes its parts, and flits and credits arrive, as their units' rules say -/
def Obligations.EngineGroupAndStreamEvents : Prop :=
  (∀ (n : Fin 624) (s : State) (l : Launch) (img : Image) (kd : KernelDef), s.coreLive n.val = true →
    let k := s.core n.val
    (s.waitingLaunches n.val).head? = some l → s.image = some img →
    img.kernels.find? (fun d => decide (d.num = l.kernel)) = some kd →
    let free := (List.range 16).filter fun i => !(k.group (Fin.ofNat 16 i)).busy
    (free.length < l.count → exec (.launchStart n) s = .next s) ∧
    (l.count ≤ free.length → ∃ t : State, exec (.launchStart n) s = .next t ∧
      (∀ j, j < l.count → t.grp n.val (Fin.ofNat 16 (free.getD j 0)) = startGroup l kd j) ∧
      (∀ i : Fin 16, i.val ∉ free.take l.count → t.grp n.val i = s.grp n.val i) ∧
      (t.core n.val).launches =
        updateFirst (fun x => decide (x.id = l.id)) (fun x => { x with started := true }) k.launches ∧
      (∀ c : Ctx, t.ctx n.val c = s.ctx n.val c) ∧ (∀ m, m ≠ n.val → t.core m = s.core m) ∧
      t.mem = s.mem ∧ t.regs = s.regs ∧ t.reqs = s.reqs)) ∧
  (∀ (n : Fin 624) (s : State) (l : Launch),
    let k := s.core n.val
    k.launches.find? (fun l => !l.started) = some l →
    (s.asBackfill n.val l.c = false → (s.waitingLaunches n.val).head? = some l) ∧
    (s.asBackfill n.val l.c = true →
      ((∀ y ∈ k.launches, y.started = false → y.c ≠ .d) → (s.waitingLaunches n.val).head? = some l) ∧
      (∀ y : Launch, k.launches.find? (fun y => !y.started && decide (y.c = .d)) = some y →
        (s.waitingLaunches n.val).head? = some (if y.count ≤ k.freeGroups.length then y else l)))) ∧
  (∀ (n : Fin 624) (e : Fin 2) (s : State) (r : Rcx) (rest : List Rcx), s.coreLive n.val = true →
    s.rcxTurn n.val = r :: rest →
    let g := (s.core n.val).eng e.val
    (r.engs.getLsbD e.val = false → exec (.reduceTileArrival n (.link e)) s = .next s) ∧
    (∀ (cg : Fin 8) (p : LinkPkt) (ps : List LinkPkt), r.engs.getLsbD e.val = true → g.link[cg] = p :: ps →
      tabGetD r.got (e.val * 8 + cg.val) 0 < r.tiles →
      (∀ c : Fin 8, c < cg → r.tiles ≤ tabGetD r.got (e.val * 8 + c.val) 0 ∨ g.link[c] = []) →
      exec (.reduceTileArrival n (.link e)) s = .next ((s.setCore n.val (({ s.core n.val with
        rcx := r.addPart e.val cg.val (e.val * 8 + cg.val) (r.convert p cg.val) (p.pois || decide (r.scale.pois ≠ 0#4)) :: rest }
        : Core).setEng e.val
          { g with link := g.link.set cg ps, credits := g.credits.set cg (g.credits[cg] + 1) })).coreRun n.val)) ∧
    (∀ (i : Fin 16) (st : Nat), r.ins.find? (fun x => decide (x.1 = i.val)) = some (i.val, st) →
      let key := (2 + i.val) * 8
      let part := tabGetD r.got (key + 1) 0
      ((r.tiles ≤ tabGetD r.got key 0 ∨ s.takeable st 2 < 2) → exec (.reduceTileArrival n (.handle i)) s = .next s) ∧
      (tabGetD r.got key 0 < r.tiles → 2 ≤ s.takeable st 2 →
        let x := s.receive st 2 false
        let bs := (x.1.flatMap Flit.bytes).toArray
        let vals : List Lane := (List.range 32).map fun o => BitVec.ofNat 32
          ((List.range 4).foldl (fun acc j => acc + (bs.getD (4 * o + j) 0#8).toNat * 256 ^ j) 0)
        let r' := r.addPart (2 + i.val) (part % 8) key vals (x.1.any (·.pois) || decide (r.scale.pois ≠ 0#4))
        exec (.reduceTileArrival n (.handle i)) s = .next ((x.2.setCore n.val { x.2.core n.val with
          rcx := { r' with got := tabSet r'.got (key + 1) (part + 1) } :: rest }).coreRun n.val)))) ∧
  (∀ (n : Fin 624) (s : State) (r : Rcx) (rest : List Rcx), (s.core n.val).rcx = r :: rest →
    (r.c = .d ∨ s.asBackfill n.val .p = false ∨ r.got ≠ [] ∨ r.sent ≠ 0) → s.rcxTurn n.val = r :: rest) ∧
  (∀ (r : Rcx) (src cg key : Nat) (vals : List Lane) (po : Bool),
    let slot := tabGetD r.got key 0 * 8 + cg
    (tabGet? r.sums slot = none →
      tabGet? (r.addPart src cg key vals po).sums slot = some { count := 1, vals := vals, pois := po }) ∧
    (∀ x : TileSum, tabGet? r.sums slot = some x → tabGet? (r.addPart src cg key vals po).sums slot = some
      { count := x.count + 1, pois := x.pois || po, vals := x.vals.zipWith (fun a b =>
          BitVec.ofNat 32 (fpAdd fmt32 modeIeee (unpack fmt32 a.toNat) (unpack fmt32 b.toNat)).1) vals })) ∧
  (∀ (i : Nat) (s : State) (d : StreamDef) (x : FlyFlit) (rest : List FlyFlit), s.live = true →
    s.streamDef i = some d → (s.strm i).fly = x :: rest →
    (x.path.isSome = true → s.mayBuffer i d = true → exec (.flitArrival i) s =
      .next (((((s.setStrm i { s.strm i with fly := rest }).bufferFlit i d x.flit).keepFlit
        x.wave i d x.flit).afterCore d.cons.val).afterCore d.prod.val)) ∧
    ((x.path = none ∨ s.mayBuffer i d = false) → exec (.flitArrival i) s = .next s)) ∧
  (∀ (i : Nat) (s : State) (d : StreamDef), s.live = true → s.streamDef i = some d → 0 < (s.strm i).credFly →
    ((s.strm i).redo = [] → exec (.creditReturn i) s = .next ((s.setStrm i { s.strm i with
      credFly := (s.strm i).credFly - 1, credits := (s.strm i).credits + 1 }).afterCore d.prod.val)) ∧
    (∀ (f : Flit) (fs : List Flit), (s.strm i).redo = f :: fs → s.mayBuffer i d = true →
      exec (.creditReturn i) s = .next (((s.setStrm i { s.strm i with
        credFly := (s.strm i).credFly - 1, redo := fs }).bufferFlit i d f).afterCore d.cons.val)))

/-- Field splits, region-table writes and beat restorations take effect only under their conditions -/
def Obligations.FieldSplitRegionAndRestoration : Prop :=
  (∀ (p : Port) (n : Fin 624) (v : Word) (s : State),
    (s.hearsPort p = true → s.isSealed = false → exec (.fldSplitWrite p n v) s = .next (s.splitWrite n.val v)) ∧
    ((s.hearsPort p = false ∨ s.isSealed = true) → exec (.fldSplitWrite p n v) s = .next s) ∧
    (s.hearsPort p = true → s.isSealed = false → s.hasImage = true →
      ∃ t : State, exec (.fldSplitWrite p n v) s = .next t ∧ t.bit (offFST n.val) 8 = true ∧
        t.field (offSPLIT n.val) 4 0 = s.field (offSPLIT n.val) 4 0 ∧ t.splits = s.splits ∧ t.mem = s.mem) ∧
    (s.splitRefused n.val (fieldOf v 4 0) = false → fieldOf v 4 0 ≠ s.fprop n.val →
      let t := s.splitWrite n.val v
      tabGet? t.splits n.val = some (s.fprop n.val) ∧ t.fprop n.val = s.fprop n.val ∧
      t.field (offSPLIT n.val) 4 0 = fieldOf v 4 0 ∧ t.bit (offFST n.val) 0 = true ∧ t.mem = s.mem)) ∧
  (∀ (n : Fin 624) (s : State) (a : Nat), tabGet? s.splits n.val = some a →
    (s.live = false → exec (.splitChangeComplete n) s = .next s) ∧
    (s.live = true →
      let f := s.field (offSPLIT n.val) 4 0
      let u := s.flushSlices fun pos => decide (pos / 156 = n.val / 156)
      ∃ t : State, exec (.splitChangeComplete n) s = .next t ∧
        t.field (offSPLIT n.val) 4 0 = u.field (offSPLIT n.val) 4 0 ∧
        t.bit (offFST n.val) 0 = false ∧ tabGet? t.splits n.val = none ∧ t.lines = u.lines ∧
        t.mem = u.mem.erase (fieldKey n.val (Nat.min a f * 0x200000)) (fieldKey n.val (Nat.max a f * 0x200000)))) ∧
  (∀ (p : Port) (i : Fin 16) (lim : Bool) (v : Word) (s : State),
    (s.hearsPort p = true → exec (.regionTableWrite p i lim v) s = .next (s.regionWrite 0 i lim v)) ∧
    (s.hearsPort p = false → exec (.regionTableWrite p i lim v) s = .next s)) ∧
  (∀ (n : Fin 624) (beat : Fin 65536) (s : State),
    let good : Prop := ∀ i, i < 8 → s.mem.flitState (fieldKey n.val (512 * beat.val) / 64 + i) = .good
    let on (u : State) : State := ((u.engRun n.val 0).engRun n.val 1).settle n.val
    (s.live = false → exec (.beatRestoration n beat) s = .next s) ∧
    (s.live = true → ((s.backAt n.val (512 * beat.val)).isNone = true ∨ good ∨
      s.copyShut n.val (512 * beat.val) = true) → exec (.beatRestoration n beat) s = .next (on s)) ∧
    (∀ w : State, s.live = true → (s.backAt n.val (512 * beat.val)).isSome = true → ¬ good →
      s.copyShut n.val (512 * beat.val) = false →
      (s.restoreBeat n.val beat.val = (false, w) → exec (.beatRestoration n beat) s = .next (on w)) ∧
      (s.restoreBeat n.val beat.val = (true, w) → exec (.beatRestoration n beat) s =
        .next (on (w.errRec 5 2 (posUnit 11 n.val 0) (512 * beat.val))))))

/-- Cache probes, flushes, requests, fills, reductions and write-backs act as their rules say -/
def Obligations.CacheProbesFlushesFillsAndEvictions : Prop :=
  (∀ (st : Fin 4) (v : Word) (s : State), s.live = true →
    let w : State := { s.setField (offCACHE st.val + 0x18) 47 8 (fieldOf v 47 8) with freeCtr := s.freeCtr + 1 }
    exec (.cacheProbe st v) s = .next (w.setReg (offCACHE st.val + 0x20)
      (w.probe st.val (256 * fieldOf v 47 8) (Config.freeValue s.freeCtr).toNat))) ∧
  (∀ (st : Fin 4) (v : Word) (s : State), s.live = true →
    (tabGet? s.flushes st.val = none → ∀ (op : Nat) (c : Instr), (op, c) ∈ [(1, Instr.flushWriteBack st v),
        (2, .flushWriteBackInvalidate st v), (3, .flushInvalidate st v)] →
      ∃ (t : State) (f : Flush), exec c s = .next t ∧ tabGet? t.flushes st.val = some f ∧ f.op = op ∧
        f.base = s.field (offCACHE st.val + 0x28) 47 8 ∧ f.len = s.field (offCACHE st.val + 0x30) 39 0 + 1 ∧
        f.chid = (if bitOf v 3 then some (BitVec.ofNat 6 (fieldOf v 9 4)) else none) ∧
        t.bit (offCACHE st.val + 8) 16 = true ∧ t.lines = s.lines ∧ t.mem = s.mem ∧ t.cmem = s.cmem) ∧
    ((tabGet? s.flushes st.val).isSome = true → exec (.flushWriteBack st v) s = .next s ∧
      exec (.flushWriteBackInvalidate st v) s = .next s ∧ exec (.flushInvalidate st v) s = .next s)) ∧
  (∀ (st : Fin 4) (s : State) (f : Flush), s.live = true → tabGet? s.flushes st.val = some f →
    let mine (l : Line) : Bool := decide (l.pos / 156 = st.val)
    ((s.lineBusy f.base (f.base + f.len) = true ∨ s.flushGo f.base (f.base + f.len) f.op mine = false) →
      exec (.flushComplete st) s = .next s) ∧
    (s.lineBusy f.base (f.base + f.len) = false → s.flushGo f.base (f.base + f.len) f.op mine = true → ∃ t : State, exec (.flushComplete st) s = .next t ∧
      t.bit (offCACHE st.val + 8) 16 = false ∧ tabGet? t.flushes st.val = none ∧
      (let w := s.flushRange f.base (f.base + f.len) f.op f.chid mine
       t.lines = w.lines ∧ t.mem = w.mem ∧ t.cmem = w.cmem ∧ t.reqs = w.reqs))) ∧
  (∀ (i : Nat) (s : State) (r : Req), s.live = true → s.reqs[i]? = some r → r.stage = .sent →
    (s.reqRefused r = true → exec (.sliceRequest i) s = .next (s.refuseReq r)) ∧
    (s.reqRefused r = false → s.reqHeld r = true → exec (.sliceRequest i) s = .next s) ∧
    (s.reqRefused r = false → s.reqHeld r = false → s.reqBehind i r = true →
      exec (.sliceRequest i) s = .next (s.arrive r)) ∧
    (s.reqRefused r = false → s.reqHeld r = false → s.reqBehind i r = false →
      exec (.sliceRequest i) s = .next ((s.arrive r).serve r).memEvent)) ∧
  (∀ (ln : Nat) (s : State) (f : Fill) (bytes : List Byte), s.live = true → tabGet? s.fills ln = some f →
    f.data = some bytes →
    let u : State := { s with fills := tabErase s.fills ln }
    let d := s.fillData ln f bytes
    let skim := s.reqs.any fun r => decide (lineOf r.pa = ln) && decide (r.stage = .filling) && r.isSkim
    ((tabGet? s.evicts ln = none → f.late = none → d = (bytes, f.pois)) ∧
      (tabGet? s.lines ln = none → exec (.lineFill ln) s = .next (u.servePassing ln d.1 d.2).memEvent)) ∧
    (∀ l : Line, tabGet? s.lines ln = some l → l.state = 5#3 →
      let w := u.writeCache l.pos (256 * ln) d.1
      let l' : Line := { l with state := 1#3, mask := 0#256, pois := d.2, birth := tabGetD w.setAcc l.home.key 0 }
      let v := (w.putLine ln l').serveWaiting ln d.2
      exec (.lineFill ln) s = .next ((if skim then v.skimmed ln else v).tryPair ln).memEvent) ∧
    (∀ l : Line, tabGet? s.lines ln = some l → l.state ≠ 5#3 →
      ∃ (l' : Line) (bs : List Byte), l'.state = (if l.state = 3#3 then 2#3 else l.state) ∧ l'.mask = l.mask ∧ l'.reds = l.reds ∧
        (∀ i, i < 256 → d.1.length = 256 → bs.getD i 0#8 =
          if l.mask.getLsbD i then memByte s.cmem.bytes (256 * ln + i) else d.1.getD i 0#8) ∧
        (∀ q, q < 4 → l'.pois.getLsbD q =
          (l.pois.getLsbD q || (d.2.getLsbD q && !covers l.mask (64 * q) 64))) ∧
        (let v := (State.putLine { u with cmem := u.cmem.write (256 * ln) bs } ln l').serveWaiting ln l'.pois
         exec (.lineFill ln) s = .next (if skim then v.skimmed ln else v).memEvent))) ∧
  (∀ (ln : Nat) (s : State) (l : Line) (op : RedOp) (who : Option Nat) (rest : List (RedOp × Option Nat)), s.live = true →
    tabGet? s.lines ln = some l → l.reds = (op, who) :: rest →
    ((l.state = 5#3 ∨ l.state = 3#3 ∨ s.vacating l.pos = true ∨
      (isK12 l.pos = true ∧ s.mayIssue (sliceOf l.pos) op.cls (ctlOf (256 * ln)) = false)) →
      exec (.redApply ln) s = .next s) ∧
    (l.state ≠ 5#3 → l.state ≠ 3#3 → s.vacating l.pos = false → s.badFlits ln = [] →
      (isK12 l.pos = false → ∃ (w : State) (l' : Line), s.redHere ln l op false = (w, l') ∧
        exec (.redApply ln) s = .next (w.putLine ln { l' with reds := rest }).memEvent) ∧
      (isK12 l.pos = true → s.mayIssue (sliceOf l.pos) op.cls (ctlOf (256 * ln)) = true →
        ∃ (w : State) (l' : Line), s.redHere ln l op true = (w, l') ∧
          (let u := w.putLine ln { l' with reds := rest }
           let v := (u.sendWrite (sliceOf l.pos) ln (byteMask op.off op.data.length) (u.cmem.read (256 * ln) 256) l'.pois
             op.cls .silent true).measured (sliceOf l.pos) op.cls (ctlOf (256 * ln)) u.time
           exec (.redApply ln) s = .next (match who with
             | some id => v.finishReq id
             | none => v).memEvent))) ∧
    (l.state = 1#3 → s.vacating l.pos = false → isK12 l.pos = false → s.badFlits ln ≠ [] → l.curd = false →
      exec (.redApply ln) s = .next (s.checkLine ln op.cls) ∧
      ∃ l' : Line, tabGet? (s.checkLine ln op.cls).lines ln = some l' ∧ l'.state = 5#3 ∧ l'.reds = l.reds)) ∧
  (∀ (ln : Nat) (s : State) (l : Line), s.live = true → tabGet? s.lines ln = some l → l.skim = true → l.chuck = none →
    l.reds = [] → s.lineWaits ln = false → l.state ≠ 5#3 → tabGet? s.fills ln = none →
    exec (.skimDrop ln) s = .next (s.dropLine ln)) ∧
  (∀ (ln : Nat) (s : State) (e : Evict), s.live = true → tabGet? s.evicts ln = some e → e.issued = false →
    let c := ctlOf (256 * ln)
    (s.mayIssue (sliceOf e.line.pos) e.line.cls c = true → ∃ (t : State) (w : MemWrite),
      exec (.writeBackIssue ln) s = .next t ∧ (t.ctl c).writes = (s.ctl c).writes ++ [w] ∧ w.pa = 256 * ln ∧
      w.mask = e.line.mask ∧ w.data = s.cmem.read (256 * ln) 256 ∧ w.cls = e.line.cls ∧ w.who = .evict ln ∧ w.acked = false ∧
      (∀ q, q < 4 → w.pois.getLsbD q = (e.line.pois.getLsbD q || (s.badFlits ln).contains q)) ∧
      (∃ e' : Evict, tabGet? t.evicts ln = some e' ∧ e'.issued = true ∧ e'.line.pois = w.pois) ∧
      (∀ f : Fill, tabGet? s.fills ln = some f →
        tabGet? t.fills ln = some { f with late := some (w.mask, w.data, w.pois) }) ∧ t.mem = s.mem ∧ t.lines = s.lines) ∧
    (s.mayIssue (sliceOf e.line.pos) e.line.cls c = false → exec (.writeBackIssue ln) s = .next s)) ∧
  (∀ (ln : Nat) (s : State) (w : MemWrite), s.live = true → (tabGet? s.evicts ln).isSome = true →
    let c := ctlOf (256 * ln)
    let hit : MemWrite → Bool := fun w => decide (w.who = .evict ln) && !w.acked
    (s.ctl c).writes.find? hit = some w →
    ∃ t : State, exec (.writeBackAck ln) s = .next t.memEvent ∧ t.evicts = tabErase s.evicts ln ∧
      t.cmem = s.cmem.erase (256 * ln) (256 * ln + 256) ∧ t.mem = s.mem ∧ t.regs = s.regs ∧
      (t.ctl c).writes = updateFirst hit (fun w => { w with acked := true }) (s.ctl c).writes)

/-- Memory controllers choose, read, write, scrub and calibrate as their rules say -/
def Obligations.MemoryControllerEvents : Prop :=
  (∀ (c : Fin 24) (i : Nat) (s : State) (r : MemRead) (x : Choice), s.live = true → (s.ctl c.val).reads[i]? = some r →
    s.chosen c.val = some x →
    ((x.write = true ∨ x.idx ≠ i) → exec (.memoryRead c i) s = .next s) ∧
    (x.write = false → x.idx = i →
      let k := s.ctl c.val
      let o := (s.setCtl c.val { k with reads := k.reads.eraseIdx i }).dramRead r.pa r.len
      let older := k.writes.filter fun w => decide (w.pa ≤ r.pa) && decide (r.pa < w.pa + 256) && decide (w.ord < r.ord)
      let d := older.foldl (fun d w => overlay r.pa w d) (o.bytes, o.pois)
      let w := (o.s.countBytes r.pa false r.cls r.len).measured r.src r.cls c.val r.time
      (∀ (ln : Nat) (f : Fill), r.who = .fill ln → tabGet? w.fills ln = some f → exec (.memoryRead c i) s =
        .next (State.memEvent { w with fills := tabSet w.fills ln { f with data := some d.1, pois := pois4 d.2 } })) ∧
      (∀ (id : Nat) (q : Req) (dst : LoadDst) (b bad : Bool), r.who = .req id →
        w.reqs.find? (fun q => decide (q.id = id)) = some q → q.kind = .ld dst b bad → exec (.memoryRead c i) s =
        .next ((w.deliver q dst d.1 (bad :: d.2)).finishReq id).memEvent))) ∧
  (∀ (c : Fin 24) (i : Nat) (s : State) (w : MemWrite) (x : Choice), s.live = true → (s.ctl c.val).writes[i]? = some w →
    s.chosen c.val = some x →
    ((x.write = false ∨ x.idx ≠ i) → exec (.memoryWrite c i) s = .next s) ∧
    (x.write = true → x.idx = i → exec (.memoryWrite c i) s =
      .next ((s.setCtl c.val { s.ctl c.val with writes := (s.ctl c.val).writes.eraseIdx i }).applyWrite w).memEvent)) ∧
  (∀ (c : Fin 24) (s : State), (s.ctl c.val).cal = true → s.chosen c.val = none) ∧
  (∀ (s : State) (c : Nat) (x : Choice), s.chosen c = some x → x ∈ s.choices (s.ctl c) ∧
    ∀ y ∈ s.choices (s.ctl c), (x.aged = false → y.aged = false) ∧
      (x.aged = true → y.aged = true → x.ord ≤ y.ord) ∧
      (x.aged = false → y.step ≤ x.step ∧ (y.step = x.step → x.cls ≤ y.cls ∧ (y.cls = x.cls → x.ord ≤ y.ord)))) ∧
  (∀ (c : Fin 24) (s : State), ∃ t : State, exec (.controllerLevelUpdate c) s = .next t.memEvent ∧
    (t.ctl c.val).level = (let n := (s.ctl c.val).reads.length + (s.ctl c.val).writes.length
      if n < 128 then 0#2 else if n < 192 then 1#2 else if n < 240 then 2#2 else 3#2) ∧
    ((t.ctl c.val).reports = (s.ctl c.val).reports → (t.ctl c.val).news = (s.ctl c.val).news) ∧
    ((t.ctl c.val).reports ≠ (s.ctl c.val).reports →
      (t.ctl c.val).news.head? = some (s.time, (t.ctl c.val).reports)) ∧
    (∀ d, d ≠ c.val → t.ctl d = s.ctl d) ∧ (t.ctl c.val).reads = (s.ctl c.val).reads ∧
    (t.ctl c.val).writes = (s.ctl c.val).writes ∧ (t.ctl c.val).heard = (s.ctl c.val).heard ∧ t.mem = s.mem ∧
    t.regs = s.regs) ∧
  (∀ (r : Nat) (cls : Fin 8) (s : State),
    let x := s.clsStep r cls.val
    let lower := stepFor x.lats (s.field (offTIER 0 + 0x40 + 8 * cls.val) 47 16) < x.step
    (lower → (x.fell = 0 ∨ 128 ≤ s.time - x.fell) → ∃ t : State, exec (.classStepDecay r cls) s = .next t ∧
      (t.clsStep r cls.val).step + 1 = x.step ∧ (t.clsStep r cls.val).fell = s.time ∧
      (t.clsStep r cls.val).lats = x.lats) ∧
    ((¬ lower ∨ (x.fell ≠ 0 ∧ s.time - x.fell < 128)) → exec (.classStepDecay r cls) s = .next s)) ∧
  (∀ (f : Nat) (s : State), s.ready = true → s.burstHere (64 * f) = true →
    let src := mgmtOf (ownerOf (64 * f))
    let w := (s.readDram f).2.performed src 6 (64 * f) 64 false
    (s.mayRead src 6 (64 * f) 64 = false → exec (.patrolScrub f) s = .next s) ∧
    (s.mayRead src 6 (64 * f) 64 = true →
      (s.eccOut s.mem (64 * f) 64 = .good → exec (.patrolScrub f) s = .next w) ∧
      ((s.readDram f).1.pois = true → exec (.patrolScrub f) s = .next w) ∧
      (s.eccOut s.mem (64 * f) 64 ≠ .good → (s.readDram f).1.pois = false →
        (∀ x ∈ (s.ctl (ctlOf (64 * f))).writes, x.acked = true → x.pa ≤ 64 * f → 64 * f < x.pa + 256 →
          ∀ i, i < 64 → x.mask.getLsbD (64 * f - x.pa + i) = false) →
        exec (.patrolScrub f) s =
          .next (State.performed { w with mem := w.mem.write (64 * f) (s.readDram f).1.bytes } src 6 (64 * f) 64 true)))) ∧
  (∀ (c : Fin 24) (s : State),
    ((∃ x ∈ s.ctls, x.2.cal = true ∧ ctlPeers c.val x.1 = true) → exec (.calibrationWindowOpen c) s = .next s) ∧
    ((∀ x ∈ s.ctls, x.2.cal = true → ctlPeers c.val x.1 = false) →
      ∃ t : State, exec (.calibrationWindowOpen c) s = .next t ∧ (t.ctl c.val).cal = true ∧
        (t.ctl c.val).reports = 3#2 ∧ ∀ d, d ≠ c.val → t.ctl d = s.ctl d) ∧
    (∃ t : State, exec (.calibrationWindowClose c) s = .next t.memEvent ∧ (t.ctl c.val).cal = false ∧
      (t.ctl c.val).reports = (s.ctl c.val).level ∧ ∀ d, d ≠ c.val → t.ctl d = s.ctl d)) ∧
  (∀ (k : Fin 32) (s : State) (lend : Nat) (rest : List (Nat × Nat × Option (Nat × Nat))), s.pins.refclk = true →
    s.fillQ = (k.val, lend, none) :: rest →
    let lo := 0x010000000000 + k.val * 2 ^ 38
    let more := rest.any fun y => decide (y.1 / 2 = k.val / 2)
    ∃ t : State, exec (.chunkFillComplete k) s = .next t ∧ t.mem = s.mem.erase lo (lo + 2 ^ 38) ∧ t.fillQ = rest ∧
      t.bit (offDDR + 0x800) k.val = decide (lend ≠ 1) ∧ t.bit (offDDR + 0x800) (32 + k.val) = decide (lend = 1) ∧
      t.field (offCh (k.val / 2)) 10 8 = (if more then 2 else 3) ∧
      t.field (offCh (k.val / 2)) 7 0 = (if more then 0 else 100))

/-- Descriptors start, copy, release, fence, write to peers and complete; frames and quads act as the link rules say. The layout of a WACK and of the descriptor log are the model's choices (notes/assumptions/18.md, notes/assumptions/83.md) -/
def Obligations.MoverDescriptorsAndPeerFrames : Prop :=
  (∀ (m : Fin 16) (q : Fin 4) (i : Nat) (d : Desc) (s : State), i < (s.postQ m q).length →
    let t := s.putDesc m q i d
    t.postQ m q = (s.postQ m q).set i d ∧
    (∀ (m' : Fin 16) (q' : Fin 4), (m', q') ≠ (m, q) → t.postQ m' q' = s.postQ m' q') ∧
    (∀ a, (a < logKey m q ∨ logKey m q + Nat.max 4096 (64 * (s.postQ m q).length) ≤ a) →
      memByte t.mem.bytes a = memByte s.mem.bytes a) ∧ t.backs = s.backs ∧ t.cores = s.cores ∧ t.quads = s.quads) ∧
  (∀ (m : Fin 16) (q : Fin 4) (s : State) (i : Nat) (d : Desc), s.live = true →
    (s.postQ m q).findIdx? (fun d => !d.started) = some i → (s.postQ m q)[i]? = some d →
    (d.ord = true → i ≠ 0 → exec (.descriptorStart m q) s = .next s) ∧
    ((d.ord = false ∨ i = 0) →
      (s.descStatus d = 0 → exec (.descriptorStart m q) s = .next (s.putDesc m q i { d with started := true })) ∧
      (s.descStatus d ≠ 0 → exec (.descriptorStart m q) s = .next ((s.refusedAt d).putDesc m q i
        { d with started := true, copied := true, status := s.descStatus d })))) ∧
  (∀ (m : Fin 16) (q : Fin 4) (s : State) (i : Nat) (d : Desc), s.live = true → (s.postQ m q)[i]? = some d →
    d.started = true → d.copied = false → d.kind = 1 →
    let waits (pa : Nat) : Bool := decide (s.moverAccess pa d.len = .waits)
    let mayNot := waits d.srcA || waits d.dstA || d.alt.any waits || (fieldAt d.srcA).any fun x => s.restoreWaits x.1 x.2 d.len
    (mayNot = true → exec (.descriptorCopy m q i) s = .next s) ∧
    (mayNot = false → s.descStatus d ≠ 0 → exec (.descriptorCopy m q i) s =
      .next ((s.refusedAt d).putDesc m q i { d with copied := true, status := s.descStatus d })) ∧
    (mayNot = false → s.descStatus d = 0 → s.copyGo m.val d = false → exec (.descriptorCopy m q i) s = .next s) ∧
    (mayNot = false → s.descStatus d = 0 → s.copyGo m.val d = true → (d.back = false ∨ fieldAt d.dstA = none) →
      let o := s.moverRead m.val d.cls d.srcA d.len
      exec (.descriptorCopy m q i) s = .next ((o.s.memFlitsFor (moverOf m.val) d.cls d.dstA (flitsWith o.bytes o.pois)).putDesc
        m q i { d with copied := true, status := if o.pois.any id then 1 else 0 })) ∧
    (∀ n off : Nat, mayNot = false → s.descStatus d = 0 → s.copyGo m.val d = true → d.back = true →
      fieldAt d.dstA = some (n, off) →
      ∀ (w : State) (bs : Option (List Byte)), s.backBeats (moverOf m.val) d.cls d.srcA d.alt (d.len / 512) = (bs, w) →
      (bs = none → exec (.descriptorCopy m q i) s =
        .next ((w.fieldWrite n off (List.replicate d.len 0#8) false).putDesc m q i { d with copied := true, status := 4 })) ∧
      (∀ l : List Byte, bs = some l →
        let u := w.fieldWrite n off l false
        let r : BackRec := { foff := off / 512, flen := d.len / 512, baddr := d.srcA, alt := d.alt }
        exec (.descriptorCopy m q i) s = .next ((u.setBacks n ((u.backsOf n).filter (fun x => decide (x.foff ≠ r.foff)) ++
          [r])).putDesc m q i { d with copied := true, status := 0 })))) ∧
  (∀ (m : Fin 16) (q : Fin 4) (s : State) (i n off : Nat) (d : Desc), s.live = true → (s.postQ m q)[i]? = some d →
    d.started = true → d.copied = false → d.kind = 2 → fieldAt d.dstA = some (n, off) →
    let hit : BackRec → Bool := fun x => decide (512 * x.foff = off) && decide (512 * x.flen = d.len)
    (s.restoring n off d.len = true → exec (.descriptorRelease m q i) s = .next s) ∧
    (s.restoring n off d.len = false → (∃ x ∈ s.backsOf n, hit x = true) →
      ∃ t : State, exec (.descriptorRelease m q i) s = .next t ∧ t.backsOf n = (s.backsOf n).filter (fun x => !hit x) ∧
        (∀ p, p ≠ n → t.backsOf p = s.backsOf p) ∧ (t.postQ m q)[i]? = some { d with copied := true }) ∧
    (s.restoring n off d.len = false → (∀ x ∈ s.backsOf n, hit x = false) → exec (.descriptorRelease m q i) s =
      .next (s.putDesc m q i { d with copied := true, status := 5 }))) ∧
  (∀ (m : Fin 16) (q : Fin 4) (s : State) (i : Nat) (d : Desc), s.live = true → (s.postQ m q)[i]? = some d →
    d.started = true → d.copied = false → d.kind = 3 →
    (i = 0 → exec (.descriptorFence m q i) s = .next (s.putDesc m q i { d with copied := true })) ∧
    (i ≠ 0 → exec (.descriptorFence m q i) s = .next s)) ∧
  (∀ (m : Fin 16) (q : Fin 4) (s : State) (i : Nat) (d : Desc), s.live = true → (s.postQ m q)[i]? = some d →
    d.started = true → d.copied = false → d.kind = 4 →
    let u := offUnit d.chku
    let idle (t : State) : State := if d.cont then t.clearBit u 16 else t
    let mayNot := decide (s.moverAccess d.srcA d.len = .waits) || (fieldAt d.srcA).any (fun x => s.restoreWaits x.1 x.2 d.len) ||
      (d.cont && s.bit u 16)
    (d.frames ≠ 0 → exec (.wackTimeout m q i) s =
      .next ((idle s).putDesc m q i { d with copied := true, status := 7, phase := 3, frames := 0 })) ∧
    (d.ptag = 0 → mayNot = true → exec (.peerw m q i) s = .next s) ∧
    (d.ptag = 0 → mayNot = false → s.moverAccess d.srcA d.len = .refused → exec (.peerw m q i) s =
      .next (s.putDesc m q i { d with copied := true, status := 2 })) ∧
    (d.ptag = 0 → mayNot = false → s.moverAccess d.srcA d.len = .ok →
      (s.mayRead (moverOf m.val) d.cls d.srcA d.len = false → exec (.peerw m q i) s = .next s) ∧
      (s.mayRead (moverOf m.val) d.cls d.srcA d.len = true →
        let o := (if d.cont then s.setBit u 16 else s).moverRead m.val d.cls d.srcA d.len
        let tag := o.s.nextTag + 1
        let r := State.routeAll { o.s with nextTag := tag } (dataFrames d o.s.deviceId tag o.bytes o.pois)
        let d' : Desc := { d with ptag := tag, frames := d.len / 256 }
        (r.1 = true → exec (.peerw m q i) s = .next (r.2.putDesc m q i d')) ∧
        (r.1 = false → exec (.peerw m q i) s =
          .next ((idle r.2).putDesc m q i { d' with copied := true, status := 7, phase := 3 }))))) ∧
  (∀ (d : Desc) (src tag : Nat) (bytes : List Byte) (po : List Bool) (j : Nat), j < d.len / 256 →
    ∃ f : Frame, (dataFrames d src tag bytes po)[j]? = some f ∧ (dataFrames d src tag bytes po).length = d.len / 256 ∧
      f.ty = 1 ∧ f.dst = d.peer ∧ f.src = src ∧ f.tag = tag ∧ f.addr = d.dstA + 256 * j ∧
      f.payload = (bytes.drop (256 * j)).take 256 ∧
      f.flags.getLsbD 0 = (decide (j + 1 = d.len / 256) && !d.chken) ∧
      f.flags.getLsbD 1 = (decide (j + 1 = d.len / 256) && !d.chken && d.upd) ∧ f.flags.getLsbD 2 = false) ∧
  (∀ (m : Fin 16) (q : Fin 4) (i : Nat) (s : State) (d : Desc), s.live = true → (s.postQ m q)[i]? = some d →
    d.copied = true →
    let upd := d.upd && decide (d.kind ≠ 4) && decide (d.status ≤ 1)
    let gone := upd && decide (s.moverAccess d.uaddr 8 = .refused)
    let st := if gone then 2 else d.status
    let w := if gone then s.refusedAt { d with status := 2 }
      else if upd then s.updWrite (moverOf m.val) d.cls d.uaddr d.w.w5 else s
    (upd = true → s.updWaits (moverOf m.val) d.cls d.uaddr = true → exec (.descriptorComplete m q i) s = .next s) ∧
    ((upd = true → s.updWaits (moverOf m.val) d.cls d.uaddr = false) → ∃ u : State,
      (let v := (u.drainWaiting m).tierEnded m.val d.host
       exec (.descriptorComplete m q i) s =
         .next ((v.cores.map (·.1)).foldl (fun s n => (s.drainTier n 4).settle n) v)) ∧
      u.field (offPost m q) 63 32 = (w.field (offPost m q) 63 32 + 1) % 2 ^ 32 ∧
      (st = 0 → u.bit (offPost m q) 0 = w.bit (offPost m q) 0 ∧ u.reg (offPost m q + 8) = w.reg (offPost m q + 8)) ∧
      (st ≠ 0 → u.bit (offPost m q) 0 = true ∧ u.reg (offPost m q + 8) = BitVec.ofNat 64 (d.tag * 256 + st)) ∧
      u.postQ m q = (w.postQ m q).eraseIdx i ∧
      (∀ sq cid : Nat, d.host = some (sq, cid) → tabGetD (u.mover m.val).fails (sq * 65536 + cid) 0 =
        tabGetD (w.mover m.val).fails (sq * 65536 + cid) 0 + if st = 0 then 0 else 1) ∧ u.cores = w.cores)) ∧
  (∀ (q : Fin 8) (bs : List Byte) (s : State), s.live = true → s.quadUp q.val = true → bs.length = 288 →
    (crcOf crcFrame (bs.take 280) ≠ leNat ((bs.drop 280).take 8) →
      exec (.frameReceive q bs) s = .next (s.sendCtrl q.val true none)) ∧
    (∀ f : Frame, Frame.of bs = some f →
      let heard (t : State) : State := if f.nak then (t.acknowledge q.val f).resend q.val else t.acknowledge q.val f
      ((f.ty = 0 ∨ f.ty = 3) → exec (.frameReceive q bs) s = .next ((heard s).pumpQuad q.val 64)) ∧
      ((f.ty = 1 ∨ f.ty = 2) → BitVec.ofNat 12 f.seq ≠ (s.quad q.val).rxSeq + 1#12 →
        exec (.frameReceive q bs) s = .next (s.sendCtrl q.val true none)) ∧
      ((f.ty = 1 ∨ f.ty = 2) → BitVec.ofNat 12 f.seq = (s.quad q.val).rxSeq + 1#12 →
        let w := s.setQuad q.val { s.quad q.val with rxSeq := (s.quad q.val).rxSeq + 1#12 }
        (f.dst ≠ w.deviceId → exec (.frameReceive q bs) s =
          .next (((heard (w.route f).2).sendCtrl q.val false (some f)).pumpQuad q.val 64)) ∧
        (f.dst = w.deviceId → f.ty = 2 → exec (.frameReceive q bs) s =
          .next (((heard (w.frameWack f)).sendCtrl q.val false (some f)).pumpQuad q.val 64)) ∧
        (f.dst = w.deviceId → f.ty = 1 → w.frameData f = none → exec (.frameReceive q bs) s = .next s) ∧
        (∀ (st : Nat) (u : State), f.dst = w.deviceId → f.ty = 1 → w.frameData f = some (st, u) →
          let wack : Frame :=
            { Frame.zero with
              ty := 2, vc := 1, dst := f.src, src := u.deviceId, tag := f.tag, payload := leBytes 1 st }
          exec (.frameReceive q bs) s =
            .next (((heard (u.route wack).2).sendCtrl q.val false (some f)).pumpQuad q.val 64))))) ∧
  (∀ (s : State) (f : Frame), f.flags.getLsbD 2 = false → f.flags ≠ 2#3 →
    (∀ st : Nat, s.frameStatus f 256 = some st → st ≠ 0 → s.frameData f = some (st, s.frameRefused f 256)) ∧
    (s.frameStatus f 256 = some 0 → ∃ u : State, s.frameData f = some (0, u) ∧
      u.mem = (s.memFlitsFor peerOf 0 f.addr (flitsWith f.payload ((List.range 4).map fun i => f.pois.getLsbD i))).mem)) ∧
  (∀ (q : Fin 8) (bs : List Byte) (s : State), (s.live = false ∨ s.quadUp q.val = false ∨ bs.length ≠ 288) →
    exec (.frameReceive q bs) s = .next s) ∧
  (∀ (q : Fin 8) (s : State), s.live = true → s.quadUp q.val = true → (s.quad q.val).replay ≠ [] →
    ∃ t : State, exec (.lackTimeout q) s = .next t ∧ t.field (offQuad q.val) 1 0 = 1 ∧
      t.field (offQuad q.val) 23 16 = Nat.min 255 (s.field (offQuad q.val) 23 16 + 1) ∧ t.quads = s.quads ∧ t.mem = s.mem) ∧
  (∀ (q : Fin 8) (rate width : BitVec 2) (s : State), s.ready = true → s.field (offQuad q.val) 1 0 = 1 →
    let x := s.quad q.val
    (∃ u : State,
      (let v := (x.replay.map (·.1) ++ x.queue).foldl (fun s f => (s.route { f with first := false }).2) u
       exec (.retrainComplete q false rate width) s = .next (v.event 9 0x40 0#64 (BitVec.ofNat 64 q.val)
        (BitVec.ofNat 64 (v.field (offQuad q.val) 23 16)))) ∧
      u.quadUp q.val = false ∧ u.field (offQuad q.val) 1 0 = 3 ∧ u.bit (offQuad q.val) 8 = true ∧
      u.field (offQuad q.val) 7 4 = 0 ∧ u.quad q.val = Quad.zero ∧ u.mem = s.mem) ∧
    ((rate = 1#2 ∨ rate = 2#2) → (width = 1#2 ∨ width = 2#2) → ∃ u : State,
      exec (.retrainComplete q true rate width) s = .next (u.pumpQuad q.val 64) ∧ u.quadUp q.val = true ∧
        u.field (offQuad q.val) 7 6 = rate.toNat ∧ u.field (offQuad q.val) 5 4 = width.toNat ∧
        u.outbox.frames = s.outbox.frames ++ x.replay.map (fun r => (q.val, r.1.bytes)) ∧
        u.quad q.val = { x with replay := x.replay.map fun r => (r.1, 0) } ∧ u.mem = s.mem))

/-- Waves start, end, commit, replay and regenerate, and attention appends, attends, merges and demotes, under their rules -/
def Obligations.WavesCheckpointsAndAttention : Prop :=
  (∀ (s : State), s.mayStart = true →
    let u := s.recallLanes (s.promptPositions.take 8)
    let p := u.promptPositions.take 8
    let lanes := p.zipIdx.map fun x => (x.2, x.1.1, x.1.2)
    let ins := u.anyDecode && decide (u.inserted < u.pfrun)
    (p = [] → exec (.waveStart true) s = .next u) ∧
    (p ≠ [] → u.resume = [] → (u.anyDecode = false ∨ ins = true ∨ u.bfen = true) →
      let v := u.takePositions p
      exec (.waveStart true) s = .next (State.launchWave { v with inserted := if ins then v.inserted + 1 else v.inserted }
        (u.newWave true ins none lanes))) ∧
    (p ≠ [] → u.anyDecode = true → ins = false → u.bfen = false → exec (.waveStart true) s = .next u)) ∧
  (∀ (s : State), s.mayStart = true →
    let u := s.recallLanes (s.decodeLanes.map (·.2))
    let stalled := u.decodeLanes.any fun x => match tabGet? u.seqs x.2.1 with
      | some q => u.egressStalled q.ring
      | none => false
    ((u.decodeLanes = [] ∨ stalled = true ∨ u.resume ≠ [] ∨ ∃ w ∈ u.waves, w.prefill = false) →
      exec (.waveStart false) s = .next u) ∧
    (u.decodeLanes ≠ [] → stalled = false → u.resume = [] → (∀ w ∈ u.waves, w.prefill = true) →
      exec (.waveStart false) s = .next (State.launchWave { u with inserted := 0 } (u.newWave false false none u.decodeLanes)))) ∧
  (∀ (b : Bool) (s : State), s.mayStart = false → exec (.waveStart b) s = .next s) ∧
  (∀ (l : List (Fin 8 × BitVec 32)) (s : State), s.live = true →
    (s.waves = [] → exec (.waveBoundary []) s = .next s.boundary) ∧
    (s.waves ≠ [] → s.endingWave l = none → exec (.waveBoundary l) s = .next s) ∧
    (∀ w : Wave, s.waves ≠ [] → s.endingWave l = some w →
      exec (.waveBoundary l) s = .next (s.retire w l).boundary.tryResume)) ∧
  (∀ (n : Fin 624) (e : Fin 2) (s : State) (r t a cnt : Nat),
    let g := (s.core n.val).eng e.val
    headWork g.backQ = some (r, t, a, cnt) →
    let fits := ∃ len, (s.core n.val).gap = some len ∧ rowTime (cfgFrom g.cfg g.queue).wfmt r t a ≤ len
    (s.coreLive n.val = true → ((s.bfen = true ∧ fits) ∨ s.anyDecode = false) → g.queue.length + cnt ≤ 8 →
      exec (.backfillIssue n e) s = .next ((s.setCore n.val ((s.core n.val).setEng e.val
        { g with queue := g.queue ++ g.backQ.take cnt, backQ := g.backQ.drop cnt })).engAfter n.val e.val)) ∧
    ((s.coreLive n.val = false ∨ (s.anyDecode = true ∧ (s.bfen = false ∨ ¬ fits)) ∨ 8 < g.queue.length + cnt) →
      exec (.backfillIssue n e) s = .next s)) ∧
  (∀ (n : Fin 624) (s : State),
    ((s.core n.val).gap.isSome = true → exec (.gapEnd n) s = .next (s.endGap n.val)) ∧
    ((s.core n.val).gap = none → exec (.gapEnd n) s = .next s)) ∧
  (∀ (num : BitVec 48) (l : Fin 256) (s : State) (w : Wave), s.live = true → s.waveOf num.toNat = some w →
    w.paused = false → (∀ c ∈ w.ckpts, c.layer < l.val) →
    (s.committable w l.val = false → exec (.checkpointCommit num l) s = .next s) ∧
    (s.committable w l.val = true → ∃ (t : State) (c : Checkpoint), c.layer = l.val ∧ c.ctxs = w.savesFor l.val ∧
      c.flits = s.boundaryFlits w l.val ∧
      t.waves = (s.mapWave w.num.toNat fun w => { w with ckpts := (w.ckpts ++ [c]).drop (w.ckpts.length - 1) }).waves ∧
      t.lastCommit = s.churns ∧ t.lastCkpt = s.time ∧ t.mem = s.mem ∧ t.regs = s.regs ∧ t.cores = s.cores ∧
      exec (.checkpointCommit num l) s = .next (if l = 0 then t else t.releaseWbar w (l.val - 1)))) ∧
  (∀ (num stall : BitVec 48) (l : Fin 256) (s : State) (w : Wave) (ck : Checkpoint), s.live = true →
    s.waveOf num.toNat = some w → w.paused = false → w.ckpts.find? (fun c => decide (c.layer = l.val)) = some ck →
    let out (u : State) (n : Option Nat) : State := (u.replayLayer w ck).recovered 6 (n.elim 0#64 fun n => posUnit 1 n 0)
      (stall.setWidth 64) (BitVec.ofNat 64 w.num.toNat)
    (s.poisonReplay w l.val = true →
      let u := (s.blamed (s.blame w l.val)).mapWave w.num.toNat fun w =>
        { w with replays := tabSet w.replays l.val (tabGetD w.replays l.val 0 + 1) }
      let v := out u (s.blame w l.val)
      (s.blame w l.val = none → exec (.layerReplay num ⟨l, stall⟩) s = .next v) ∧
      (∀ c : Nat, s.blame w l.val = some c → exec (.layerReplay num ⟨l, stall⟩) s =
        .next (if (v.core c).replays = 3 then v.coreFails c false else v))) ∧
    (s.poisonReplay w l.val = false → s.faultReplay w l.val = true →
      exec (.layerReplay num ⟨l, stall⟩) s = .next (out s (s.faultCore w))) ∧
    (s.poisonReplay w l.val = false → s.faultReplay w l.val = false → exec (.layerReplay num ⟨l, stall⟩) s = .next s)) ∧
  (∀ (page : BitVec 24) (s : State), s.mayStart = true → page.toNat ∈ s.regen →
    (s.pageSeq page.toNat = none → exec (.pageRegeneration page) s =
      .next (State.tryResume { s with regen := s.regen.filter (· ≠ page.toNat) })) ∧
    (∀ i a b p : Nat, s.pageSeq page.toNat = some (i, a, b, p) →
      let done := tabGetD s.regenPos page.toNat 0
      let k := Nat.min 8 (Nat.min 64 (s.seqLen i - 64 * p) - done)
      let lanes := (List.range k).map fun j => (j, i, 64 * p + done + j)
      let u := s.recallLanes (lanes.map (·.2))
      ((k = 0 ∨ (tabGet? u.seqs i).any (·.ending.isSome) = true) → exec (.pageRegeneration page) s = .next u) ∧
      (0 < k → (tabGet? u.seqs i).any (·.ending.isSome) = false → exec (.pageRegeneration page) s =
        .next (State.launchWave { u with regenPos := tabSet u.regenPos page.toNat (done + k) }
          (u.newWave true true (some page.toNat) lanes))))) ∧
  (∀ (period : BitVec 32) (s : State),
    ((∀ m ∈ s.measure, m.2.1 ≠ 0) → exec (.degradedMeasurement period) s = .next s) ∧
    (∀ m : Word × Nat × Bool, s.measure.find? (fun m => decide (m.2.1 = 0)) = some m →
      let budget := s.field offWPER 63 32
      let u := State.setField { s with measure := s.measure.erase m } offWPER 31 0 period.toNat
      let w := u.event 2 0 m.1 (BitVec.ofNat 64 period.toNat) (BitVec.ofNat 64 budget)
      (m.2.2 = true → 100 * period.toNat ≤ 102 * budget → exec (.degradedMeasurement period) s = .next u) ∧
      ((m.2.2 = false ∨ 102 * budget < 100 * period.toNat) → exec (.degradedMeasurement period) s =
        .next (if budget < period.toNat then w.setBit offWSTAT 49 else w)))) ∧
  (∀ (q : Fin 96) (lane : Fin 8) (key val : List (BitVec 16)) (s : State) (op : AttOp) (ops : List AttOp) (x : Share),
    s.live = true → s.pagesGo = true → (s.pipe q.val).queue = op :: ops → op.phase = 0 → op.begun = true →
    let p := s.pipe q.val
    let sh := s.shares q.val p.cfg op
    sh.find? (fun x => decide (x.lane = lane.val) && decide (x.pos / 64 % listM (s.servingList p.cfg x.seqn) = x.member)) =
      some x →
    p.appends.getLsbD lane.val = true →
    (∀ y ∈ sh, y.seqn = x.seqn → y.lane < x.lane → p.appends.getLsbD y.lane = false) →
    key.length = cfgD p.cfg → val.length = cfgD p.cfg →
    let done := s.appendToken q.val p.cfg x key val ((s.waveOf op.wave).bind (·.regen))
    (done = none → exec (.kvAppend q lane key val) s = .next s) ∧
    (∀ t : State, done = some t → exec (.kvAppend q lane key val) s = .next ((t.setPipe q.val { t.pipe q.val with
      appends := (t.pipe q.val).appends &&& ~~~ BitVec.twoPow 8 lane.val }).pipeRun q.val))) ∧
  (∀ (q : Fin 96) (lane : Fin 8) (key val : List (BitVec 16)) (i : StagedPage) (g : Fin 48) (page : BitVec 24) (s : State),
    s.pagesGo = false → exec (.kvAppend q lane key val) s = .next s ∧ exec (.stagedPageAttend q i) s = .next s ∧
      exec (.pageDemotion g) s = .next s ∧ exec (.demotionComplete page) s = .next s) ∧
  (∀ (q : Fin 96) (i k page id : Nat) (status : BitVec 8) (s : State) (u : AttUnit) (op : AttOp) (ops : List AttOp), s.live = true →
    s.pagesGo = true → (s.pipe q.val).queue = op :: ops → op.phase = 2 → op.begun = true →
    ((s.pipe q.val).units.zipIdx.flatMap fun x => x.1.staged.map fun y => (x.2, y))[i]? = some (k, (page, id)) →
    (s.pipe q.val).units[k]? = some u →
    let r := s.readRec id
    let a := r.2.attendPage q.val (s.pipe q.val).cfg { u with staged := u.staged.filter (· ≠ (page, id)) } page id
      { r.1 with pois := r.1.pois || decide (status ≠ 0#8) }
    let w := a.2.count (0x400 + a.2.servedBy q.val) 4 1
    (status ≠ 0#8 → a.1.pois = true) ∧ exec (.stagedPageAttend q ⟨i, status⟩) s = .next ((w.setPipe q.val
      { w.pipe q.val with units := (w.pipe q.val).units.set k a.1 }).pipeRun q.val)) ∧
  (∀ (q : Fin 96) (k : Nat) (s : State) (u : AttUnit) (x : AttPartial) (op : AttOp) (ops : List AttOp), s.live = true →
    let p := s.pipe q.val
    p.queue = op :: ops → op.phase = 2 → op.begun = true →
    p.inbox.find? (fun y => decide (y.wave = op.wave) && decide (y.layer = cfgLayer p.cfg) &&
      decide (y.grp = cfgGrp p.cfg)) = some x →
    p.units.findIdx? (fun u => decide (u.lane = x.lane) && decide (u.member = 0)) = some k → p.units[k]? = some u →
    exec (.partialMerge q) s = .next ((s.setPipe q.val { p with
      units := p.units.set k { u with heads := u.heads.zipWith HeadState.merge x.heads, pois := u.pois || x.pois,
                                      merged := u.merged + 1 },
      inbox := p.inbox.erase x }).pipeRun q.val)) ∧
  (∀ (q : Fin 96) (s : State), s.live = true → s.hasImage = true →
    ((s.pipe q.val).reserve.length < 8 → s.reserveOf q.val = q.val → exec (.reserveTopUp q) s = .next (s.refill q.val 16)) ∧
    (8 ≤ (s.pipe q.val).reserve.length ∨ s.reserveOf q.val ≠ q.val → exec (.reserveTopUp q) s = .next s)) ∧
  (∀ (g : Fin 48) (s : State), s.live = true → s.hasImage = true → s.pagesGo = true →
    let free := (s.freeSlots g.val).length
    (s.field offATT 47 32 ≤ free → s.appendWaits g.val = false → exec (.pageDemotion g) s = .next s) ∧
    ((free < s.field offATT 47 32 ∨ s.appendWaits g.val = true) →
      let pick := (s.demotionPick g.val).1
      let w := (s.demotionPick g.val).2
      (∀ (p id k : Nat) (r : PageRec), pick = some (p, id, r) → w.freeHbm r.slotsOf.length = some k →
        let x := w.writeRec id { r with loc := 3, haddr := w.field (offATT + 0x20) 47 14 * 2 ^ 14 + k * 16384 }
        exec (.pageDemotion g) s = .next { x with hpages := hbmTake w.hpages id k r.slotsOf.length }) ∧
      ((pick = none ∨ ∃ (p id : Nat) (r : PageRec), pick = some (p, id, r) ∧ w.freeHbm r.slotsOf.length = none) →
        ((s.appendWaits g.val = false ∨ free ≠ 0) → exec (.pageDemotion g) s = .next w) ∧
        (s.appendWaits g.val = true → free = 0 → exec (.pageDemotion g) s =
          .next ((w.setBit (offATT + 0x30) 57).event 4 0 (clusterUnit g.val) 0#64 0#64))))) ∧
  (∀ (page : BitVec 24) (s : State), s.live = true → s.pagesGo = true →
    (tabGet? s.hpages (2 * page.toNat) = none → exec (.demotionComplete page) s = .next s) ∧
    ((tabGet? s.hpages (2 * page.toNat)).isSome = true →
      let r := s.readRec page.toNat
      (r.1.loc ≠ 3 → exec (.demotionComplete page) s = .next r.2) ∧
      (r.1.loc = 3 →
        let n := if r.1.bf then 32768 else 16384
        let o := r.2.fieldReadVia (r.2.downGroups r.1.pos) r.1.pos (r.1.slot * 16384) n
        let u := o.s.memFlitsFor (mgmtOf 0) 1 r.1.haddr (flitsWith o.bytes o.pois)
        let w := u.writeRec page.toNat { r.1 with loc := 2 }
        exec (.demotionComplete page) s = .next { w with slotNext := u.slotNext ++ r.1.slotsOf })))

/-- Cores, fields, links and edges fail over or degrade, and resets, recovery, the watchdog and the churn act as their rules say -/
def Obligations.FailoverResetsAndRecovery : Prop :=
  (∀ (n : Fin 624) (stall : BitVec 48) (s : State), s.live = true →
    exec (.missedHeartbeat n) s = .next (s.coreFails n.val false) ∧
    (let w := s.coreFails n.val false
     ((n.val, false) ∈ w.failed → exec (.coreFailover n stall) s =
       .next ((w.takeOver n.val true).moved n.val 1 (posUnit 1 n.val 0) (stall.setWidth 64))) ∧
     ((n.val, false) ∉ w.failed → exec (.coreFailover n stall) s = .next w)) ∧
    ((n.val, true) ∉ s.failed → exec (.fieldLoss n stall) s = .next s) ∧
    ((n.val, true) ∈ s.failed →
      let a := (s.poisonSlice n.val).takeOver n.val true
      let b := State.refillFields { a with mem := a.mem.erase (fieldKey n.val 0) (fieldKey n.val 0x2000000) }
        fun p => decide (p = n.val)
      exec (.fieldLoss n stall) s = .next ((b.poisonPages fun r => decide (r.pos = n.val) &&
        (decide (r.loc = 1) || decide (r.loc = 3))).movedRegen n.val 3 (posUnit 11 n.val 0) (stall.setWidth 64)))) ∧
  (∀ (n : Fin 624) (s : State), s.live = true → s.hasPos n.val = true → isK12 n.val = false →
    (s.failed.any fun x => decide (x.1 = n.val)) = false → s.spareOpen (n.val / 13) = true →
    let w := s.hold.vacate (n.val / 13)
    exec (.missedHeartbeat n) s = .next { w with failed := w.failed ++ [(n.val, false)],
                                                 failover := w.failover.filter fun x => decide (x.1 ≠ n.val / 13) }) ∧
  (∀ (s : State) (n : Nat) (c : Ctx), (s.hold.ctx n c).held = ((s.ctx n c).held || ((s.ctx n c).inWave &&
    s.waves.any fun w => decide (w.ctx = c) && decide (w.num.toNat = fieldOf (s.ctx n c).waveWord 47 0)))) ∧
  (∀ (n : Fin 624) (s : State), s.live = true →
    ((isK12 n.val = true ∨ s.hasPos n.val = false ∨ s.spareOpen (n.val / 13) = false ∨
        (∃ x ∈ s.failover, x.1 = n.val / 13)) → exec (.plannedFailover n) s = .next s) ∧
    (isK12 n.val = false → s.hasPos n.val = true → s.spareOpen (n.val / 13) = true →
      (∀ x ∈ s.failover, x.1 ≠ n.val / 13) → 
        let w := s.vacate (n.val / 13)
        exec (.plannedFailover n) s = .next { w with failover := w.failover ++ [(n.val / 13, n.val)] })) ∧
  (∀ (g : Fin 48) (stall : BitVec 48) (s : State) (n : Nat), s.live = true →
    s.failover.find? (fun x => decide (x.1 = g.val)) = some (g.val, n) →
    (s.failed = [] → s.resume = [] → (∀ w ∈ s.waves, w.latest.isSome = true) →
      exec (.plannedFailoverSwitch g stall) s = .next ((State.takeOver
        { s with failover := s.failover.filter fun x => decide (x.1 ≠ g.val) } n
        (s.positionDegraded g.val (s.physOf n))).moved n 2 (posUnit 1 n 0) (stall.setWidth 64))) ∧
    ((s.failed ≠ [] ∨ s.resume ≠ [] ∨ ∃ w ∈ s.waves, w.latest = none) →
      exec (.plannedFailoverSwitch g stall) s = .next s)) ∧
  (∀ (g : Fin 48) (s : State), s.live = true → s.bit (offERR + 8) 7 = true → s.spareOpen g.val = true → s.failed = [] →
    s.resume = [] → g.val ∉ s.degCl → (∀ x ∈ s.failover, x.1 ≠ g.val) →
    let k := tabGetD s.rotNext g.val 0
    exec (.rotation g) s =
      .next (State.planFailover { s with rotNext := tabSet s.rotNext g.val ((k + 1) % 12) } (13 * g.val + k))) ∧
  (∀ (g : Fin 48) (s : State), (s.bit (offERR + 8) 7 = false ∨ s.spareOpen g.val = false) →
    exec (.rotation g) s = .next s) ∧
  (∀ (i : Nat) (s : State) (d : StreamDef) (x : FlyFlit) (rest : List FlyFlit), s.live = true → s.streamDef i = some d →
    (s.strm i).fly = x :: rest →
    exec (.flitParityFailure (.stream i)) s = .next (State.errRec (s.setStrm i { s.strm i with
      fly := { x with flit := { x.flit with pois := true } } :: rest }) 4 3 (posUnit 1 d.prod.val 0) 0)) ∧
  (∀ (i : Nat) (st : Fin 4) (m : Fin 17) (s : State), s.live = true → (s.strm i).fly ≠ [] →
    (s.meshOut st).getLsbD m.val = false → s.flitCrosses i (.mesh st.val m.val) = true →
    let w := (s.poisonFlit i).errRec 4 3 (meshUnit st.val m.val) 0
    let u : State := { w with netChurn := tabSet w.netChurn (17 * st.val + m.val) w.churns }
    (tabGet? w.netChurn (17 * st.val + m.val) = none → exec (.flitParityFailure (.mesh i st m)) s = .next u) ∧
    (∀ c : Nat, tabGet? w.netChurn (17 * st.val + m.val) = some c → exec (.flitParityFailure (.mesh i st m)) s =
      .next (if c ≠ u.churns ∧ u.churns < c + 16 then u.mapLink st m.val else u))) ∧
  (∀ (i : Nat) (st : Fin 4) (m : Fin 17) (s : State),
    ((s.meshOut st).getLsbD m.val = true ∨ s.flitCrosses i (.mesh st.val m.val) = false) →
    exec (.flitParityFailure (.mesh i st m)) s = .next s) ∧
  (∀ (e : Fin 4) (s : State), s.live = true →
    let u : State := { s with edgesDown := s.edgesDown ++ [e] }
    (e ∈ s.edgesDown → exec (.ringEdgeFailure e) s = .next s) ∧
    (s.edgesDown = [] → ∃ t : State, exec (.ringEdgeFailure e) s = .next t ∧ t.edgesDown = [e] ∧
      t.measure = s.measure ++ [(edgeUnit e.val, 16, false)] ∧ t.boot = s.boot ∧ t.regs = s.regs ∧
      ∀ i : Nat, (t.strm i).fly = (s.strm i).fly.map fun y =>
        if y.path.any (fun p => p.contains (.edge e.val)) then { y with path := u.streamRoute i } else y) ∧
    (s.edgesDown ≠ [] → e ∉ s.edgesDown →
      exec (.ringEdgeFailure e) s = .next (u.resendEdge e).startRecovery)) ∧
  (∀ (n : Fin 624) (s : State), s.live = true → s.image = none →
    ∃ t : State, exec (.coreReset n) s = .next t ∧ t.core n.val = Core.zero ∧
      (∀ m, m ≠ n.val → t.core m = s.core m) ∧ t.mem = s.mem.erase (coreKey n.val 0) (coreKey n.val 0x100000) ∧
      t.backs = s.backs ∧ t.splits = s.splits ∧ t.lines = s.lines ∧ t.cmem = s.cmem ∧
      (∀ a, (a < offSTN n.val ∨ offSTN n.val + 0x880 ≤ a) → t.reg a = s.reg a)) ∧
  (∀ (st : Fin 4) (stall : BitVec 48) (s : State), s.live = true →
    let mine : Line → Bool := fun l => decide (l.pos / 156 = st.val) && s.lineInBase l
    let a := (s.settleSlices fun p => decide (p / 156 = st.val)).flushLines mine
    let b := ((List.range 24).filter fun c => decide (if c < 8 then c / 2 = st.val else (c - 8) / 4 = st.val)).foldl
      State.restartCtl a
    let c : State := { b with movers := b.movers.map fun (x : Nat × Mover) =>
      (x.1, if x.1 / 4 = st.val then x.2.again else x.2) }
    exec (.baseLogicReset st stall) s = .next (c.recovered 4 (unitName 0 st.val 0 0 0 0) (stall.setWidth 64) 0#64) ∧
    exec (.forcedBaseLogicReset st) s = .next s.startRecovery ∧
    exec (.stackReset st) s = .next (if s.hasImage then s.startRecovery else (s.resetStack st.val).mendLog [st.val]) ∧
    exec .wholeDeviceRecovery s = .next s.startRecovery) ∧
  (∀ (st : Fin 4) (s : State), s.live = true → s.image = none →
    ∃ t : State, exec (.stackReset st) s = .next t ∧
      (∀ n a, n / 156 = st.val → n < 624 → a < 0x2000000 → memByte t.mem.bytes (fieldKey n a) = 0#8) ∧
      (∀ x ∈ t.lines, x.2.pos / 156 ≠ st.val) ∧ (∀ x ∈ t.backs, x.1 / 156 ≠ st.val) ∧
      (∀ x ∈ t.splits, x.1 / 156 ≠ st.val) ∧ t.seqs = s.seqs ∧ t.pending = s.pending) ∧
  (∀ (stall : BitVec 48) (s : State), s.ready = true → s.boot.recovering = true →
    (s.boot.sysLost = [] →
      let a := s.resumePlacement.readLog
      let b : State := { a with boot := { a.boot with recovering := false, sysLost := [], memLost := [] } }
      exec (.recoveryResume stall) s = .next ((((b.recovered 5 0#64 (stall.setWidth 64) 0#64).tellDump.ringBells).flushRings.pullAll).settleAll)) ∧
    (s.boot.sysLost ≠ [] →
      let a := s.sysAreaLost.readLog
      let b : State := { a with boot := { a.boot with recovering := false, sysLost := [], memLost := [] } }
      exec (.recoveryResume stall) s = .next (((b.tellDump.ringBells).flushRings.pullAll).settleAll))) ∧
  (∀ (s : State), s.live = true → s.waves ≠ [] → s.field (offCNT + 0x10) 15 0 ≠ 0 →
    (s.field (offCNT + 0x10) 15 0 ≤ s.idleChurns → exec .hang s = .next (s.freeze 1)) ∧
    (s.idleChurns < s.field (offCNT + 0x10) 15 0 → exec .hang s = .next s)) ∧
  (∀ (c : ChurnSample) (s : State), s.live = true →
    let w := (s.churnWork c).churnOver.copyLog
    exec (.churn c) s = .next (if w.isSealed && decide (w.churns % 100 = 0) then w.refreshTotals else w)) ∧
  (∀ s : State, s.churnOver.churns = s.churns + 1 ∧ s.churnOver.mem = s.mem ∧
    (∀ x ∈ s.churnOver.cores, x.2.replays = 0))

/-- Power windows, losses and trips, flash records, bring-up stages, reset pins, host links and the lease act as their rules say -/
def Obligations.PowerFlashBootAndPins : Prop :=
  (∀ (m : PowerSample) (s : State), s.boot.rails = true →
    let lowN := if m.vin < 38000 then s.power.vinLow + 1 else 0
    let a := s.recordWindow m
    let w : State := { a with power := { a.power with vinLow := if m.vin < 38000 then a.power.vinLow + 1 else 0 } }
    a.power.vinLow = s.power.vinLow ∧
    ((m.vin < 36000 ∨ 5 ≤ lowN) → ∃ t : State, exec (.powerWindow m) s = .next t ∧ t.pins.faultL = true ∧
      t.boot.rails = false ∧ t.pending = s.pending ∧ t.flash = s.flash ∧ t.mem = State.reset.mem) ∧
    (36000 ≤ m.vin → lowN < 5 →
      let u := (w.watchVin m.vin (s.field (offPWR + 0x20) 15 0)).control m.p
      exec (.powerWindow m) s = .next ((((if u.power.idleShed then u
        else (List.range 4).foldl (fun s i => s.watchPhases (Fin.ofNat 4 i) (m.phases.getD i [])) u).learn.watchFlash m.vin
          m.vaux).releaseOrders).nextWindow))) ∧
  (∀ (st : Fin 4) (s : State), s.boot.rails = true → ∃ t : State, exec (.chatter st) s = .next t ∧
    (∀ k : Fin 4, t.power.chatter.getLsbD k.val = (s.power.chatter.getLsbD k.val || decide (k = st))) ∧
    t.field (offPWR + 0x300) (8 * st.val + 7) (8 * st.val) =
      Nat.min 255 (s.field (offPWR + 0x300) (8 * st.val + 7) (8 * st.val) + 1) ∧ t.mem = s.mem ∧
    (∀ a, a ≠ offPWR + 0x300 → t.reg a = s.reg a)) ∧
  (∀ (st : Fin 4) (s : State), ∃ u : State, exec (.chatterSkipEnd st) s =
      .next (((u.cores.map (·.1)).filter fun n => decide (n / 156 = st.val)).foldl State.coreRun u) ∧
    u.regs = s.regs ∧ u.mem = s.mem ∧ u.cores = s.cores ∧
    ∀ k : Fin 4, u.power.chatter.getLsbD k.val = (s.power.chatter.getLsbD k.val && decide (k ≠ st))) ∧
  (∀ (m : Fin 16) (s : State), s.boot.rails = true →
    let bit := 36 + m.val % 4
    let w := (s.setBit (offPhase (m.val / 4)) bit).setBit (offPWR + 0x10) 20
    (s.bit (offPhase (m.val / 4)) bit = true → exec (.moduleLoss m) s = .next s) ∧
    (s.bit (offPhase (m.val / 4)) bit = false →
      (w.field (offPhase (m.val / 4)) 39 36 = 15 → exec (.moduleLoss m) s = .next w.vinLost) ∧
      (w.field (offPhase (m.val / 4)) 39 36 ≠ 15 →
        let u := w.setField offCAP 47 32 w.internalLimit
        exec (.moduleLoss m) s = .next ((u.event 6 5 0#64 (BitVec.ofNat 64 m.val)
          (BitVec.ofNat 64 (u.field offCAP 47 32))).updateCap)))) ∧
  (∀ (d : Fin 12) (temp : BitVec 16) (s : State),
    (s.boot.rails = true → 944 ≤ temp.toInt → ∃ t : State, exec (.thermalTrip d temp) s = .next t ∧
      t.pins.thermL = true ∧ t.boot.rails = false ∧ t.cores = [] ∧
      (s.pins.vaux = true → ∃ r : TripRec, t.boot.trip = some r ∧ r.die = d.val ∧ r.temp = temp ∧ r.time = s.now) ∧
      (s.pins.vaux = false → t.boot.trip = none)) ∧
    ((s.boot.rails = false ∨ temp.toInt < 944) → exec (.thermalTrip d temp) s = .next s)) ∧
  (∀ (s : State) (a b : Nat), s.power.hintFall = some a → s.power.hintRise = some b →
    exec .hintLeadExpiry s = .next { s with power := if a ≤ b then { s.power with hintFall := none, hintRaise := 0 }
      else { s.power with hintRise := none, hintRaise := 0 } }) ∧
  (∀ (s : State), (s.power.hintFall = none ∧ s.power.hintRise ≠ none ∨ s.power.hintFall ≠ none ∧ s.power.hintRise = none) →
    exec .hintLeadExpiry s = .next { s with power := { s.power with hintFall := none, hintRise := none, hintRaise := 0 } }) ∧
  (∀ (w : BitVec 16) (s : State),
    ((w = 0#16 ∨ (900 ≤ w.toNat ∧ w.toNat ≤ 1950)) → exec (.bmcCap w) s = .next (s.orderCap true w.toNat)) ∧
    (¬ (w = 0#16 ∨ (900 ≤ w.toNat ∧ w.toNat ≤ 1950)) → ∃ t : State, exec (.bmcCap w) s = .next t ∧ t.regs = s.regs ∧
      t.outbox.mctp = s.outbox.mctp ++ [[0xFF#64, w.setWidth 64]] ∧ t.power = s.power)) ∧
  (∀ (b : Bool) (s : State), s.boot.rails = true →
    (s.flashHeld = true → ∀ (c : Instr) (k : Nat), (c, k) ∈ [(Instr.lifeRecordWrite, 2), (.flashRecordWrite b, flag b)] →
      exec c s = .next { s with power := { s.power with flashQ := natInsert s.power.flashQ k } }) ∧
    (s.flashHeld = false → exec .lifeRecordWrite s = .next (s.putRecord 2) ∧
      exec (.flashRecordWrite b) s = .next (s.putRecord (flag b)))) ∧
  (∀ s : State, s.flashHeld = true →
    (1000 ≤ s.power.flashOk → ∃ t : State, exec .flashWriteResume s = .next t ∧ t.flashHeld = false ∧
      t.mem = s.mem ∧ t = s.power.flashQ.foldl State.putRecord (s.clearBit offPSTAT 23)) ∧
    (s.power.flashOk < 1000 → exec .flashWriteResume s = .next s)) ∧
  (∀ (loss : LockLoss) (s : State),
    let hit (k : Fin 12) : Bool := decide (loss = .refclk) || decide (loss = .pll k)
    (s.boot.rails = false → exec (.pllLossOfLock loss) s = .next s) ∧
    (s.boot.rails = true → ∃ u : State,
      (∀ k : Fin 12, u.bit 0x10 (16 + k.val) = (s.bit 0x10 (16 + k.val) || hit k) ∧
        u.boot.locks.getLsbD k.val = (s.boot.locks.getLsbD k.val && !hit k)) ∧
      u.pins.refclk = (s.pins.refclk && decide (loss ≠ .refclk)) ∧ u.mem = s.mem ∧ (∀ a, a ≠ 0x10 → u.reg a = s.reg a) ∧
      ((s.ready = true ∨ s.boot.recovering = true) → exec (.pllLossOfLock loss) s =
        .next (State.startRecovery { u with pins := { u.pins with faultL := true } })) ∧
      (s.ready = false → s.boot.recovering = false → exec (.pllLossOfLock loss) s = .next u))) ∧
  (∀ (n : Nat) (s : State),
    (50 ≤ n →
      exec (.resetLAssert n) s = .next (let w := s.deviceReset (if s.pins.pwrgd then 1 else 0)
        { w with pins := { w.pins with resetL := false } }) ∧
      exec (.pwrgdInLow n) s = .next { s.railsOff with pins := { s.railsOff.pins with pwrgd := false } } ∧
      exec (.pwrgdInHigh n) s = .next (State.tryStage0 { s with pins := { s.pins with pwrgd := true } }) ∧
      exec (.perstDeassert .a n) s = .next { s with pins := { s.pins with perstA := true } } ∧
      exec (.perstDeassert .b n) s = .next { s with pins := { s.pins with perstB := true } }) ∧
    (n < 50 → exec (.resetLAssert n) s = .next s ∧ exec (.pwrgdInLow n) s = .next s ∧ exec (.pwrgdInHigh n) s = .next s ∧
      ∀ p : Port, exec (.perstAssert p n) s = .next s ∧ exec (.perstDeassert p n) s = .next s) ∧
    exec (.resetLDeassert n) s = .next (State.tryStage0 { s with pins := { s.pins with resetL := true } })) ∧
  (∀ (n : Nat) (s : State), 50 ≤ n → s.pins.pwrgd = true → ∃ t : State, exec (.resetLAssert n) s = .next t ∧
    t.seqs = [] ∧ t.cores = [] ∧ t.image = none ∧ t.mem = State.reset.mem ∧ t.pins.resetL = false ∧ t.flash = s.flash ∧
    t.host = s.host ∧ t.pending = s.pending ∧ t.field offBOOT 10 8 = 1 ∧
    t.field offCAP 31 16 = s.field offCAP 31 16 ∧ t.field offCAP 63 48 = effCap 0 (s.field offCAP 31 16) 1950) ∧
  (∀ (p : Port) (n : Nat) (s : State), 50 ≤ n →
    let w := s.setPerst p false
    (s.pins.resetL = false → exec (.perstAssert p n) s = .next w) ∧
    (s.pins.resetL = true →
      let a := w.clearBit offSEAL (upBit p)
      let b : State := { a with trust := { a.trust with
        sessions := a.trust.sessions.filter fun x => decide (x.port ≠ SpdmPort.doe p),
        conn := tabErase a.trust.conn (portCode p - 1) } }
      exec (.perstAssert p n) s = .next (((b.ringsOff p).portFalls p).portResumes))) ∧
  (∀ (r : StageResult) (s : State),
    ((s.boot.running = none ∨ s.pins.refclk = false ∨ (s.boot.running = some 0 ∧ ∃ t ∈ r.dieTemp, 760 < t)) →
      exec (.bringupStageComplete r) s = .next s) ∧
    (∀ k : Nat, s.boot.running = some k → s.pins.refclk = true → (k = 0 → ∀ t ∈ r.dieTemp, t ≤ 760) →
      let u : State := if k = 2 then { s with boot := { s.boot with locks := r.pll } } else s
      let w := (u.trainStage k r).stageWork k r
      (∀ (d : Nat) (unit : Word), w.stageFault k r = some (d, unit) → ∃ t : State,
        exec (.bringupStageComplete r) s = .next t ∧ t.boot.running = none ∧ t.pins.faultL = true ∧ t.bit offBOOT 4 = true ∧
        t.reg (offBOOT + 8) = unit ∧
        t.outbox.mctp = w.outbox.mctp ++ [[BitVec.ofNat 64 k, 1#64, BitVec.ofNat 64 d, unit]] ∧ t.mem = w.mem) ∧
      (w.stageFault k r = none → k ≤ 8 → ∃ t : State, exec (.bringupStageComplete r) s = .next t ∧
        t.boot.running = (if k < 8 then some (k + 1) else none) ∧ t.field offBOOT 3 0 = k ∧
        t.reg (offBOOT + 0x100 + 8 * k) = w.now ∧
        t.outbox.mctp = w.outbox.mctp ++ [[BitVec.ofNat 64 k, 0#64, 0#64, 0#64]] ∧ t.mem = w.mem))) ∧
  (∀ (s : State) (k : Nat) (r : StageResult),
    (k = 0 → s.flash.chosen = none → s.stageFault k r = some (1, r.unitWord)) ∧
    (2 ≤ k → s.boot.locks ≠ BitVec.allOnes 12 → s.stageFault k r = some (2, r.unitWord)) ∧
    ((k = 3 ∨ k = 7) → s.boot.locks = BitVec.allOnes 12 → s.grain.working = false →
      ∃ u : Word, s.stageFault k r = some (3, u)) ∧
    (∀ (x : Fin 8 × Fin 4) (l : List (Fin 8 × Fin 4)), k = 4 → s.boot.locks = BitVec.allOnes 12 → r.hbmNot = x :: l →
      s.stageFault k r = some (4, ctlUnit x.1.val))) ∧
  (∀ (p : Port) (s : State),
    (s.portUp p = true → exec (.hostLinkDown p) s = .next (s.portFalls p).portResumes ∧ exec (.hostLinkUp p) s = .next s) ∧
    (s.portUp p = false → exec (.hostLinkDown p) s = .next s) ∧
    (s.portUp p = false → s.perstHigh p = true → s.portWired p = true → s.past6 = true → s.bit offBOOT 4 = false →
      exec (.hostLinkUp p) s = .next (s.portRises p).portResumes) ∧
    (s.portUp p = false → s.holder = none → s.field offHQ 47 16 = 0 → (p = .a ∨ s.portUp .a = false) → s.portRises p =
      (s.setBit offHQ (upBit p)).moveLease (portCode p)) ∧
    (s.holder = some p → s.portFalls p = (s.clearBit offHQ (upBit p)).moveLease 0)) ∧
  (∀ s : State,
    (s.live = true → s.holder.isSome = true → s.field offHQ 15 8 ≠ 0 → exec .leaseTimeout s = .next (s.moveLease 0)) ∧
    ((s.holder = none ∨ s.field offHQ 15 8 = 0) → exec .leaseTimeout s = .next s) ∧
    (s.pins.refclk = false → s.time = 0 →
      exec .refclkPresent s = .next (State.tryStage0 { s with pins := { s.pins with refclk := true } })) ∧
    (s.pins.refclk = false → s.time ≠ 0 → exec .refclkPresent s =
      .next (State.tryStage0 { s.setBit (offTIME + 8) 0 with pins := { s.pins with refclk := true } })) ∧
    (∃ t : State, exec .vauxLoss s = .next t ∧ t.boot.trip = none ∧ t.pins.vaux = false ∧ t.pins.faultL = false ∧
      t.pins.thermL = false ∧ t.regs = s.regs ∧ t.mem = s.mem) ∧
    (s.boot.rails = true → s.pins.resetL = true → s.pins.pwrgd = true →
      exec .smbusFallback s = .next { s with pins := { s.pins with smbus := true } }) ∧
    (∃ t : State, exec .mctpMessageCollect s = .next t ∧ t.outbox.mctp = s.outbox.mctp.drop 1 ∧ t.regs = s.regs)) ∧
  (∀ (bs : List Byte) (s : State), s.bit offBOOT 4 = true → s.field offBOOT 47 40 = 1 → s.field offBOOT 3 0 = 0 →
    ∃ t : State, exec (.mctpFirmwareImage bs) s = .next t ∧ t.flash.a.good = true ∧ t.flash.b = s.flash.b ∧
      (∀ i, i < bs.length → i < 0x1000000 → memByte t.flash.a.bytes i = bs.getD i 0#8) ∧ t.mem = s.mem)

/-- Doorbells, ring configuration, entries that the device writes, MSI-X messages and snoops act as the ring rules say; the error record of a narrow doorbell names no address (notes/assumptions/72.md) -/
def Obligations.RingsDoorbellsAndMessages : Prop :=
  (∀ (i : Fin 64) (v : Word) (entries : List HostCmd) (s : State), s.boot.recovering = false →
    let r := RingId.sub i
    let n := s.ringSize r
    let k := modSub (fieldOf v 15 0) (s.ringHost r) n
    ((s.ringEn r = false ∨ n ≤ fieldOf v 15 0 ∨ n ≤ modSub (s.ringHost r) (s.ringDev r) n + k) →
      exec (.submissionDoorbell i ⟨v, true⟩ entries) s = .next (s.setBit (ringOff r + 0x10) 33)) ∧
    (s.ringEn r = true → fieldOf v 15 0 < n → modSub (s.ringHost r) (s.ringDev r) n + k < n →
      let w := (s.trace 5 (i.val * 65536) 0 0 0).setHost r v
      exec (.submissionDoorbell i ⟨v, true⟩ entries) s = .next ((w.setRing r { w.ring r with
        covered := (w.ring r).covered ++ entries.take k }).pullRing i 1024))) ∧
  (∀ (v : Word) (s : State), s.boot.recovering = false →
    (∀ i : Fin 64, (s.acked (.comp i) v = none → exec (.completionDoorbell i ⟨v, true⟩) s =
        .next (s.setBit (ringOff (.comp i) + 0x10) 33)) ∧
      (∀ k : Nat, s.acked (.comp i) v = some k →
        let sent := tabGetD s.compSent i.val []
        exec (.completionDoorbell i ⟨v, true⟩) s = .next (State.flushCompletions { s.setHost (.comp i) v with
          log := (sent.take k).foldl (fun l x => dropFirst (fun e => isEntry x.1 x.2 e && e.written) l) s.log,
          compSent := tabSet s.compSent i.val (sent.drop k) }).pullAll)) ∧
    (∀ i : Fin 256, (s.acked (.out i) v = none → exec (.outputDoorbell i ⟨v, true⟩) s =
        .next (s.setBit (ringOff (.out i) + 0x10) 33)) ∧
      (∀ k : Nat, s.acked (.out i) v = some k →
        let sent := tabGetD s.outSent i.val []
        let w := s.ackOuts sent k
        exec (.outputDoorbell i ⟨v, true⟩) s =
          .next (State.flushOutput { w.setHost (.out i) v with outSent := tabSet w.outSent i.val (sent.drop k) }))) ∧
    (∀ i : Fin 2, (s.acked (.ev i) v = none → exec (.eventDoorbell i ⟨v, true⟩) s =
        .next (s.setBit (ringOff (.ev i) + 0x10) 33)) ∧
      (∀ k : Nat, s.acked (.ev i) v = some k →
        exec (.eventDoorbell i ⟨v, true⟩) s = .next (State.drainEvents { s.setHost (.ev i) v with
          evSent := tabSet s.evSent i.val ((tabGetD s.evSent i.val []).drop k) } i 64)))) ∧
  (∀ (r : RingId) (v : Word) (s : State) (k : Nat), s.acked r v = some k →
    s.ringEn r = true ∧ fieldOf v 15 0 < s.ringSize r ∧ k = modSub (fieldOf v 15 0) (s.ringHost r) (s.ringSize r) ∧
    k ≤ modSub (s.ringDev r) (s.ringHost r) (s.ringSize r)) ∧
  (∀ (v : Word) (entries : List HostCmd) (s : State), s.boot.recovering = true →
    (∀ i : Fin 64, exec (.submissionDoorbell i ⟨v, true⟩ entries) s = .next (s.holdBell (.sub i) v entries) ∧
      exec (.completionDoorbell i ⟨v, true⟩) s = .next (s.holdBell (.comp i) v [])) ∧
    (∀ i : Fin 256, exec (.outputDoorbell i ⟨v, true⟩) s = .next (s.holdBell (.out i) v [])) ∧
    (∀ i : Fin 2, exec (.eventDoorbell i ⟨v, true⟩) s = .next (s.holdBell (.ev i) v []))) ∧
  (∀ (v : Word) (entries : List HostCmd) (s : State),
    (∀ i : Fin 64, exec (.submissionDoorbell i ⟨v, false⟩ entries) s = .next (s.errRec 11 0 0#64 0) ∧
      exec (.completionDoorbell i ⟨v, false⟩) s = .next (s.errRec 11 0 0#64 0)) ∧
    (∀ i : Fin 256, exec (.outputDoorbell i ⟨v, false⟩) s = .next (s.errRec 11 0 0#64 0)) ∧
    (∀ i : Fin 2, exec (.eventDoorbell i ⟨v, false⟩) s = .next (s.errRec 11 0 0#64 0))) ∧
  (∀ (p : Port) (r : RingId) (v : Word) (s : State),
    (s.hearsPort p = true → exec (.ringEnable p r v) s = .next (s.cfgWrite r (putField v 63 63 1)) ∧
      exec (.ringDisable p r v) s = .next (s.cfgWrite r (putField v 63 63 0)) ∧
      exec (.traceRingEnable p v) s = .next (s.traceCfg (putField v 63 63 1))) ∧
    (s.hearsPort p = false → exec (.ringEnable p r v) s = .next s ∧ exec (.ringDisable p r v) s = .next s ∧
      exec (.traceRingEnable p v) s = .next s)) ∧
  (∀ (p : Port) (i : Fin 64) (v : Word) (s : State), s.hearsPort p = true → s.ringEn (.sub i) = false →
    ∃ t : State, exec (.ringEnable p (.sub i) v) s = .next t ∧ t.ringEn (.sub i) = true ∧
      t.ringSize (.sub i) = 2 ^ fieldOf v 4 0 ∧ t.ringDev (.sub i) = 0 ∧ t.ringHost (.sub i) = 0 ∧
      t.ring (.sub i) = { RingRt.zero with used := true } ∧ t.mem = s.mem ∧ t.host = s.host ∧ t.log = s.log) ∧
  (∀ (p : Port) (i : Fin 256) (v : Word) (s : State), s.hearsPort p = true →
    ∃ t : State, exec (.ringDisable p (.out i) v) s = .next t ∧ t.ringEn (.out i) = false ∧ t.outQ = s.outQ ∧
      t.outSent = s.outSent ∧ t.host = s.host ∧ t.seqs = s.seqs ∧
      (s.ringEn (.out i) = true → t.ringSize (.out i) = s.ringSize (.out i))) ∧
  (∀ (s : State) (r : RingId) (f : Bool → List Byte), s.ringEn r = true →
    let t := s.ringPush r f
    t.ringDev r = (s.ringDev r + 1) % s.ringSize r % 2 ^ 16 ∧
    (t.ring r).phase = (if s.ringDev r + 1 ≥ s.ringSize r then !(s.ring r).phase else (s.ring r).phase) ∧
    t.host = memWrite s.host (s.field (ringOff r) 63 12 * 4096 + ringEntry r * s.ringDev r) (f (s.ring r).phase) ∧
    t.ringHost r = s.ringHost r ∧ t.ringSize r = s.ringSize r) ∧
  (∀ (v : Fin 66) (s : State),
    ((v.val ∈ s.outbox.msixDue ∧ (s.portUp .a = true ∨ s.portUp .b = true)) → ∃ t : State,
      exec (.msiXMessage v) s = .next t ∧ t.outbox.msix = s.outbox.msix ++ [v.val] ∧ v.val ∉ t.outbox.msixDue ∧
      (∀ w, w ≠ v.val → (w ∈ t.outbox.msixDue ↔ w ∈ s.outbox.msixDue)) ∧ t.regs = s.regs) ∧
    ((v.val ∉ s.outbox.msixDue ∨ (s.portUp .a = false ∧ s.portUp .b = false)) → exec (.msiXMessage v) s = .next s)) ∧
  (∀ (p : Port) (a : BitVec 64) (s : State),
    (s.portUp p = true → ∃ t : State, exec (.hostSnoop p a) s = .next t ∧ t.outbox.snoops = s.outbox.snoops + 1 ∧
      t.mem = s.mem ∧ t.cmem = s.cmem ∧ t.regs = s.regs) ∧
    (s.portUp p = false → exec (.hostSnoop p a) s = .next s))

/-- Host commands take their turn and act, or complete with the status that their rules give -/
def Obligations.HostCommands : Prop :=
  (∀ (c : HostCmd) (img : Image) (ok : Bool) (ds : List DescWords) (bs : List Byte) (toks : List (BitVec 32))
      (fc : List (Fin 624)) (fp : List (Fin 96)) (fl : List (Fin 4 × Fin 17)) (fb : List (Nat × Nat)) (s : State),
    ∀ (i : Instr) (opc : Nat) (masks : List Nat), (i, opc, masks) ∈
      [(Instr.hostLoad c img ok, 0x01, [anyWord, anyWord]), (.hostUnload c, 0x02, [1]),
       (.hostOpen c, 0x03, openMasks),
       (.hostClose c, 0x04, []), (.hostFeed c bs ok toks, 0x05, [anyWord, ones 23 0 ||| ones 33 32]),
       (.hostHint c, 0x06, [ones 3 0 ||| ones 63 32]), (.hostTier c ds ok, 0x07, [anyWord, ones 5 0 ||| ones 11 8]),
       (.hostLend c, 0x08, [0x1F]), (.hostReclaim c, 0x09, [0x1F]), (.hostSave c, 0x0B, [ones 20 0]),
       (.hostDrop c, 0x0C, [ones 9 0]), (.hostXread c, 0x0D, [anyWord, anyWord, anyWord]),
       (.hostXwrite c bs ok, 0x0E, [anyWord, anyWord, anyWord]), (.hostSync c, 0x0F, []),
       (.hostSelftest c fc fp fl fb, 0x10, [1]), (.hostCap c, 0x11, [0xFFFF]), (.hostSettime c, 0x12, [anyWord]),
       (.hostDumpread c, 0x13, [anyWord, anyWord, anyWord])] →
      (s.entryOf c = none → exec i s = .next s) ∧
      (∀ e : LogEntry, s.entryOf c = some e → s.live = true → c.opc.toNat = opc → e.begun = false →
        (s.turnOf c = false → exec i s = .next s) ∧
        (s.turnOf c = true → freeToAll opc = false → s.holder ≠ some e.port → exec i s = .next (s.ends c 2 0#64)) ∧
        (s.turnOf c = true → (freeToAll opc = true ∨ s.holder = some e.port) → cmdFits c masks = false →
          exec i s = .next (s.ends c 1 0#64)) ∧
        (s.turnOf c = true → (freeToAll opc = true ∨ s.holder = some e.port) → cmdFits c masks = true →
          s.stopped = true → runsStopped opc = false → exec i s = .next (s.ends c 3 0#64)))) ∧
  (∀ (c : HostCmd) (s : State) (e : LogEntry) (img : Image) (ok : Bool),
    s.cmdTakes c 0x01 [anyWord, anyWord] e →
    (ok = false → exec (.hostLoad c img ok) s = .next (s.ends c 11 0#64)) ∧
    (∀ d : Nat, ok = true → s.loadDetail img = some d →
      exec (.hostLoad c img ok) s = .next (s.ends c 5 (BitVec.ofNat 64 d))) ∧
    (ok = true → s.loadDetail img = none →
      let late (a len : Nat) : Bool := decide (s.moverAccess a len = .waits)
      let go (r : RunFill) (a : Nat) : Bool := s.mayRead (moverOf (moverFor r.pos.val)) 4 a (512 * r.len)
      let ready := (∀ k ∈ chunkList img, s.chunkOnline k = true) ∧ s.splits = [] ∧
        ∀ r ∈ img.runs, go r r.src = true ∧ late r.src (512 * r.len) = false ∧
          ∀ a, r.alt = some a → go r a = true ∧ late a (512 * r.len) = false
      (¬ ready → exec (.hostLoad c img ok) s = .next (s.running c)) ∧
      (ready → (s.fillRuns img.runs = none → exec (.hostLoad c img ok) s = .next (s.ends c 5 6#64)) ∧
        ∀ t : State, s.fillRuns img.runs = some t → exec (.hostLoad c img ok) s = .next ((t.loadImage img).ends c 0 0#64)))) ∧
  (∀ (c : HostCmd) (s : State) (e : LogEntry), s.cmdTakes c 0x02 [1] e →
    (e.begun = true → exec (.hostUnload c) s = .next (s.unloading c)) ∧
    (e.begun = false → s.hasImage = false → exec (.hostUnload c) s = .next (s.ends c 4 0#64)) ∧
    (e.begun = false → s.hasImage = true → bitOf c.w1 0 = false → s.openSeqs ≠ [] →
      exec (.hostUnload c) s = .next (s.ends c 3 0#64)) ∧
    (e.begun = false → s.hasImage = true → (bitOf c.w1 0 = true ∨ s.openSeqs = []) →
      exec (.hostUnload c) s = .next ((s.running c).unloading c))) ∧
  (∀ (c : HostCmd) (s : State) (e : LogEntry), s.cmdTakes c 0x03 openMasks e →
    (∀ st : Nat, s.openCheck c = some st → (s.waves = [] ∨ e.begun = false) →
      exec (.hostOpen c) s = .next (s.ends c st 0#64)) ∧
    (s.waves ≠ [] → e.begun = true → exec (.hostOpen c) s = .next s) ∧
    (s.waves ≠ [] → e.begun = false → s.openCheck c = none → exec (.hostOpen c) s = .next (s.running c)) ∧
    (s.waves = [] → s.openCheck c = none →
      (tabGet? s.seqs c.seq.toNat = none →
        let q := s.newSeq c (s.openPrefix c)
        let w : State := { (s.record c.seq.toNat 0 q.hist).setSeq c.seq.toNat q with nextOrder := s.nextOrder + 1 }
        exec (.hostOpen c) s = .next (((w.openRegs c.seq.toNat q).clearMaps c.seq.toNat).ends c 0 (BitVec.ofNat 64 q.lane))) ∧
      ((tabGet? s.seqs c.seq.toNat).isSome = true → exec (.hostOpen c) s = .next s))) ∧
  (∀ (c : HostCmd) (s : State),
    (openOk c = false → s.openCheck c = some 1) ∧
    (openOk c = true → fieldOf c.w2 63 48 ≠ 0xFFFF → s.hasImage = true →
      tabGet? s.prefixes (fieldOf c.w2 63 48) = none → s.openCheck c = some 1) ∧
    (openOk c = true → s.hasImage = false → s.openCheck c = some 4) ∧
    (openOk c = true → s.hasImage = true →
      (fieldOf c.w2 63 48 = 0xFFFF ∨ (tabGet? s.prefixes (fieldOf c.w2 63 48)).isSome = true) →
      (∀ q : Sequence, s.openSeq? c.seq.toNat = some q → s.openCheck c = some 8) ∧
      (s.openSeq? c.seq.toNat = none → s.openCheck c = none))) ∧
  (∀ (c : HostCmd) (s : State) (e : LogEntry) (q : Sequence), s.hasImage = true → s.openSeq? c.seq.toNat = some q →
    (s.cmdTakes c 0x04 [] e → e.begun = false → q.closing = none → exec (.hostClose c) s =
      .next (State.running (s.setSeq c.seq.toNat { q with closing := some (c.sq.val, c.cid.toNat) }) c)) ∧
    (∀ (bs : List Byte) (given : List (BitVec 32)), s.cmdTakes c 0x05 [anyWord, ones 23 0 ||| ones 33 32] e → e.begun = false →
      let len := fieldOf c.w2 23 0
      let byteMode := bitOf c.w2 32
      let u := utf8Of (q.inHeld ++ padTo len bs)
      let cut := bitOf c.w2 33 && !u.held.isEmpty
      let toks := if byteMode then
          Config.tokenise (s.image.elim [] (·.tokTable)) (u.chars.flatten ++ if cut then replChar else [])
        else padTokens (len / 4) given
      let bad := toks.any fun t => decide (s.image.elim 0 (·.vocab) ≤ t.toNat)
      (byteMode = false → len % 4 ≠ 0 → ∀ ok : Bool, exec (.hostFeed c bs ok given) s = .next (s.ends c 1 0#64)) ∧
      ((byteMode = true ∨ len % 4 = 0) →
        exec (.hostFeed c bs false given) s = .next (s.ends c 11 0#64) ∧
        (bad = true → exec (.hostFeed c bs true given) s = .next (s.ends c 1 0#64)) ∧
        (bad = false → 1048576 < q.fedLen + toks.length → exec (.hostFeed c bs true given) s = .next (s.ends c 6 0#64)) ∧
        (bad = false → q.fedLen + toks.length ≤ 1048576 →
          let f : FeedRec := { tokens := toks, last := bitOf c.w2 33, host := (c.sq.val, c.cid.toNat),
                               result := BitVec.ofNat 64 (toks.length + (if byteMode then u.repl + flag cut else 0) * 2 ^ 32) }
          let held := if byteMode then (if bitOf c.w2 33 then [] else u.held) else q.inHeld
          exec (.hostFeed c bs true given) s =
            .next (State.running (s.setSeq c.seq.toNat { q with feeds := q.feeds ++ [f], inHeld := held }) c)))) ∧
    (∀ k : Nat, s.cmdTakes c 0x0B [ones 20 0] e → s.freePrefix = some k → 0 < fieldOf c.w1 20 0 →
      fieldOf c.w1 20 0 ≤ q.hist.length → q.share = none → fieldOf c.w1 20 0 ≤ q.filled →
      (∀ w ∈ s.waves, ∀ x ∈ w.lanes, x.2.1 = c.seq.toNat → fieldOf c.w1 20 0 ≤ x.2.2) →
      let maps := s.prefixMaps c.seq.toNat (fieldOf c.w1 20 0)
      let w := maps.foldl (fun s x => s.addRef x.2) s
      let x : Prefix := { tokens := q.hist.take (fieldOf c.w1 20 0), maps := maps }
      exec (.hostSave c) s = .next (State.ends { w with prefixes := tabSet w.prefixes k x } c 0 (BitVec.ofNat 64 k)))) ∧
  (∀ (c : HostCmd) (s : State) (e : LogEntry) (x : Prefix), s.cmdTakes c 0x0C [ones 9 0] e → s.hasImage = true →
    tabGet? s.prefixes (fieldOf c.w1 9 0) = some x →
    ((∃ y ∈ s.seqs, y.2.share = some (fieldOf c.w1 9 0)) → exec (.hostDrop c) s = .next s) ∧
    ((∀ y ∈ s.seqs, y.2.share ≠ some (fieldOf c.w1 9 0)) →
      let w := x.maps.foldl (fun s y => s.unref y.2) s
      exec (.hostDrop c) s =
        .next (State.ends { w with prefixes := tabErase w.prefixes (fieldOf c.w1 9 0) } c 0 0#64))) ∧
  (∀ (c : HostCmd) (s : State) (e : LogEntry),
    (s.cmdTakes c 0x06 [ones 3 0 ||| ones 63 32] e →
      (2 < fieldOf c.w1 3 0 → exec (.hostHint c) s = .next (s.ends c 1 0#64)) ∧
      (fieldOf c.w1 3 0 ≤ 2 → exec (.hostHint c) s =
        .next ((s.orderHint (fieldOf c.w1 3 0) (BitVec.ofNat 32 (fieldOf c.w1 63 32))).ends c 0 0#64))) ∧
    (s.cmdTakes c 0x11 [0xFFFF] e →
      let w := fieldOf c.w1 15 0
      (w ≠ 0 → (w < 900 ∨ 1950 < w) → exec (.hostCap c) s = .next (s.ends c 1 0#64)) ∧
      ((w = 0 ∨ (900 ≤ w ∧ w ≤ 1950)) →
        exec (.hostCap c) s = .next (((s.orderCap false w).writeRecord 2).ends c 0 0#64))) ∧
    (s.cmdTakes c 0x12 [anyWord] e → exec (.hostSettime c) s =
      .next ((((((s.setReg (offTIME + 0x10) c.w1).setReg (offTIME + 0x18) s.now).setLife 97 c.w1.toNat).setLife 98
        s.time).writeRecord 2).ends c 0 0#64)) ∧
    (s.cmdTakes c 0x0F [] e → (e.begun = true → exec (.hostSync c) s = .next s) ∧
      (e.begun = false → exec (.hostSync c) s = .next (s.running c).settleCmds))) ∧
  (∀ (c : HostCmd) (s : State) (e : LogEntry), s.cmdTakes c 0x0A [3] e →
    (fieldOf c.w1 1 0 = 0 → exec (.hostLeaseQuery c) s = .next (s.ends c 0 (s.reg offHQ))) ∧
    (fieldOf c.w1 1 0 = 1 →
      (s.holder = none → exec (.hostLeaseTake c) s = .next ((s.moveLease (portCode e.port)).ends c 0
        ((s.moveLease (portCode e.port)).reg offHQ))) ∧
      (s.holder ≠ none → exec (.hostLeaseTake c) s = .next (s.ends c 2 (s.reg offHQ)))) ∧
    (fieldOf c.w1 1 0 = 2 →
      (s.holder = some e.port → exec (.hostLeaseRelease c) s =
        .next ((s.moveLease 0).ends c 0 ((s.moveLease 0).reg offHQ))) ∧
      (s.holder ≠ some e.port → exec (.hostLeaseRelease c) s = .next (s.ends c 2 (s.reg offHQ)))) ∧
    (fieldOf c.w1 1 0 = 3 →
      exec (.hostLeaseRenew c) s = .next (s.ends c (if s.holder = some e.port then 0 else 2) (s.reg offHQ)))) ∧
  (∀ (c : HostCmd) (s : State) (e : LogEntry) (ds : List DescWords), s.cmdTakes c 0x07 [anyWord, ones 5 0 ||| ones 11 8] e →
    e.begun = false → fieldOf c.w1 5 0 = 0 →
    let n := fieldOf c.w2 5 0 + 1
    let m := Fin.ofNat 16 (fieldOf c.w2 11 8)
    (s.isSealed = true → exec (.hostTier c ds true) s = .next (s.ends c 12 0#64)) ∧
    (s.isSealed = false → exec (.hostTier c ds false) s = .next (s.ends c 11 0#64)) ∧
    (s.isSealed = false → n ≤ ds.length → 
      let more := (ds.take n).map fun w => Desc.post w (some (c.sq.val, c.cid.toNat))
      exec (.hostTier c ds true) s = .next ((State.running (s.setMover m.val
        { s.mover m.val with waiting := (s.mover m.val).waiting ++ more }) c).drainWaiting m))) ∧
  (∀ (c : HostCmd) (s : State) (e : LogEntry), e.begun = false →
    let k := fieldOf c.w1 4 0
    (s.cmdTakes c 0x08 [0x1F] e →
      let shut := s.isSealed = true ∨ s.chunkOnline k = false ∨ s.chunkBacks k = true ∨
        ∃ g, s.image = some g ∧ g.chunks.getLsbD k = true
      (shut → exec (.hostLend c) s = .next (s.ends c 13 0#64)) ∧
      (¬ shut → s.chunkBusy k = true → exec (.hostLend c) s = .next s) ∧
      (¬ shut → s.chunkBusy k = false → exec (.hostLend c) s =
        .next (((s.dropRange (chunkBase k) (2 ^ 38)).clearBit (offDDR + 0x800) k).startFill c k 1))) ∧
    (s.cmdTakes c 0x09 [0x1F] e →
      ((s.isSealed = true ∨ s.chunkLent k = false ∨ ∃ x ∈ s.fillQ, x.1 = k) →
        exec (.hostReclaim c) s = .next (s.ends c 13 0#64)) ∧
      (s.isSealed = false → s.chunkLent k = true → (∀ x ∈ s.fillQ, x.1 ≠ k) →
        exec (.hostReclaim c) s = .next (s.startFill c k 2)))) ∧
  (∀ (c : HostCmd) (s : State) (e : LogEntry) (bs : List Byte),
    (s.cmdTakes c 0x0D [anyWord, anyWord, anyWord] e → xTarget c = none →
      exec (.hostXread c) s = .next (s.ends c 1 0#64)) ∧
    (s.cmdTakes c 0x0E [anyWord, anyWord, anyWord] e → xTarget c = none →
      exec (.hostXwrite c bs true) s = .next (s.ends c 1 0#64)) ∧
    (∀ (t : XTarget) (len : Nat), xTarget c = some (t, len) →
      (s.cmdTakes c 0x0D [anyWord, anyWord, anyWord] e →
        (s.isSealed = true → exec (.hostXread c) s = .next (s.ends c 12 0#64)) ∧
        (s.isSealed = false → s.xAccess t len = .refused → exec (.hostXread c) s = .next (s.xRefused c t)) ∧
        (s.isSealed = false → (s.xAccess t len = .waits ∨ (s.xAccess t len = .ok ∧ s.hostGo t len false = false)) →
          exec (.hostXread c) s = .next (s.running c)) ∧
        (s.isSealed = false → s.xAccess t len = .ok → s.hostGo t len false = true →
          let r := s.xRead t len
          exec (.hostXread c) s = .next ((r.2.2.hostPut c.w2.toNat r.1 r.2.1).ends c 0 0#64))) ∧
      (s.cmdTakes c 0x0E [anyWord, anyWord, anyWord] e →
        (s.isSealed = true → exec (.hostXwrite c bs true) s = .next (s.ends c 12 0#64)) ∧
        (s.isSealed = false → exec (.hostXwrite c bs false) s = .next (s.ends c 11 0#64)) ∧
        (s.isSealed = false → s.xAccess t len = .refused → exec (.hostXwrite c bs true) s = .next (s.xRefused c t)) ∧
        (s.isSealed = false → (s.xAccess t len = .waits ∨ (s.xAccess t len = .ok ∧ s.hostGo t len true = false)) →
          exec (.hostXwrite c bs true) s = .next (s.running c)) ∧
        (s.isSealed = false → s.xAccess t len = .ok → s.hostGo t len true = true →
          (∀ n off : Nat, t = .store n off → exec (.hostXwrite c bs true) s =
            .next ((s.storeWrite n off (padTo len bs) false).ends c 0 0#64)) ∧
          (∀ pa : Nat, t = .mem pa → exec (.hostXwrite c bs true) s =
            .next ((s.cohWriteMany pa (padTo len bs) (len / 64)).ends c 0 0#64)) ∧
          (∀ n off : Nat, t = .field n off →
            (s.backedIn n off len = true → exec (.hostXwrite c bs true) s =
              .next (((s.bwr n).errRec 11 0 0#64 (fieldOf c.w1 47 0)).ends c 10 0#64)) ∧
            (s.backedIn n off len = false → exec (.hostXwrite c bs true) s =
              .next ((s.fieldWrite n off (padTo len bs) false).ends c 0 0#64))))))) ∧
  (∀ (s : State) (a : Nat) (bs : List Byte) (p : Bool) (rest : List Bool),
    s.hostPut a bs [] = s ∧ s.hostPut a bs (p :: rest) =
      (if p then s else { s with host := memWrite s.host a (bs.take 64) }).hostPut (a + 64) (bs.drop 64) rest) ∧
  (∀ (c : HostCmd) (fc : List (Fin 624)) (fp : List (Fin 96)) (fl : List (Fin 4 × Fin 17)) (fb : List (Nat × Nat)) (s : State)
      (e : LogEntry), s.cmdTakes c 0x10 [1] e →
    (e.begun = false → bitOf c.w1 0 = false → s.openSeqs ≠ [] →
      exec (.hostSelftest c fc fp fl fb) s = .next (s.ends c 3 0#64)) ∧
    ((bitOf c.w1 0 = true ∨ s.openSeqs = []) →
      (s.waves ≠ [] → exec (.hostSelftest c fc fp fl fb) s = .next (s.running c)) ∧
      (s.waves = [] →
        let r := s.selftest (fc.map (·.val)) (fp.map (·.val)) fl fb
        exec (.hostSelftest c fc fp fl fb) s = .next (r.2.ends c 0 (BitVec.ofNat 64 r.1))))) ∧
  (∀ (c : HostCmd) (s : State) (e : LogEntry), s.cmdTakes c 0x13 [anyWord, anyWord, anyWord] e →
    ((s.bit offDUMP 63 = false ∨ c.w1.toNat % 64 ≠ 0 ∨ c.w2.toNat % 64 ≠ 0 ∨ c.w3.toNat % 64 ≠ 0 ∨
        2 ^ 30 < c.w1.toNat + c.w3.toNat) → exec (.hostDumpread c) s = .next (s.ends c 1 0#64)) ∧
    (s.bit offDUMP 63 = true → c.w1.toNat % 64 = 0 → c.w2.toNat % 64 = 0 → c.w3.toNat % 64 = 0 →
      c.w1.toNat + c.w3.toNat ≤ 2 ^ 30 → 
      let bs := (List.range c.w3.toNat).map fun i => s.dumpAt (c.w1.toNat + i)
      exec (.hostDumpread c) s = .next (State.ends { s with host := memWrite s.host c.w2.toNat bs } c 0 0#64)))

/-- Register writes take effect by their access codes and their own rules, and HDM accesses go where the windows lead -/
def Obligations.RegisterAccessesAndHostMemoryWindows : Prop :=
  (∀ (p : Port) (n : Fin 624) (k : Fin 16) (j : Fin 5) (v : Word) (s : State),
    ∀ (c : Instr) (off : Nat) (w : Word), (c, off, w) ∈ [(Instr.vmodeWrite p n v, offVMODE n.val, v), (.waveCtlWrite p v, 0x100, v),
        (.flipArm p v, offERR + 0x20, putField v 0 0 1), (.wdogDump p v, offCNT + 0x10, putField v 63 63 1),
        (.dumpRelease p v, offDUMP, putField v 63 63 1), (.mbxWrite p v, offMBX, putField v 1 0 1),
        (.mbxSelect p v, offMBX, putField v 1 0 3), (.laneNextWrite p v, offLANE + 0x10, v),
        (.chkConfigWrite p k j v, offUnit k.val + 8 * j.val, v), (.grnProbe p v, offGRN + 0x800, v)] →
      ((s.portUp p = false ∨ s.boot.recovering = true) → exec c s = .next s) ∧
      (s.portUp p = true → s.boot.recovering = false → s.isSealed = false → exec c s = .next (s.regEffect p off w false)) ∧
      (s.portUp p = true → s.boot.recovering = false → s.isSealed = true →
        exec c s = .next (if sealedIgnores off then s else s.regEffect p off w false))) ∧
  (∀ (p : Port) (off bytes : Nat) (v : Word) (s : State), s.portUp p = true →
    ((bytes ≠ 8 ∨ off % 8 ≠ 0) →
      (off ≠ offMBX → exec (.registerWrite p off bytes (.write v)) s = .next (s.errRec 11 0 0#64 (0x0B0000000000 + off))) ∧
      exec (.registerWrite p off bytes .read) s = .next (State.errRec
        { s with outbox := { s.outbox with reads := s.outbox.reads ++ [(off, 0#64)] } } 11 0 0#64 (0x0B0000000000 + off))) ∧
    (bytes = 8 → off % 8 = 0 →
      (off ≠ offMBX → s.boot.recovering = false → s.isSealed = false →
        exec (.registerWrite p off bytes (.write v)) s = .next (s.regEffect p off v false)) ∧
      exec (.registerWrite p off bytes .read) s =
        .next { s with outbox := { s.outbox with reads := s.outbox.reads ++ [(off, s.regRead off 8)] } })) ∧
  (∀ (p : Port) (off bytes : Nat) (s : State), s.portUp p = false →
    exec (.registerWrite p off bytes .read) s = .next s) ∧
  (∀ (p : Port) (v : Word) (s : State), s.portUp p = true → s.boot.recovering = true → s.holder = some p →
    ∃ t : State, exec (.registerWrite p (offBOOT + 0x10) 8 (.write v)) s = .next t ∧ t.bit (offBOOT + 0x10) 0 = v.getLsbD 0 ∧
      (∀ a, a ≠ offBOOT + 0x10 → t.reg a = s.reg a)) ∧
  (∀ (p : Port) (off : Nat) (v : Word) (s : State),
    (regRow? off = none → s.regPlain p off v = s) ∧
    (∀ r : RegRow, regRow? off = some r →
      (r.lease = true → s.holder ≠ some p → s.regPlain p off v = s) ∧
      ((r.lease = false ∨ s.holder = some p) →
        (∀ i, i < 64 → ((s.regPlain p off v).reg off).getLsbD i =
          if r.rw.testBit i then v.getLsbD i
          else if r.rw1c.testBit i then (s.reg off).getLsbD i && !v.getLsbD i
          else (s.reg off).getLsbD i) ∧
        (∀ a, a ≠ off → (s.regPlain p off v).reg a = s.reg a)))) ∧
  (∀ (p : Port) (n : Fin 624) (v : Word) (s : State), s.portUp p = true → s.boot.recovering = false → s.isSealed = false →
    (rndReserved v = false → ∃ t : State, exec (.vmodeWrite p n v) s = .next t ∧
      t.reg (offVMODE n.val) = vmodeOfHost (s.reg (offVMODE n.val)) v ∧ ∀ a, a ≠ offVMODE n.val → t.reg a = s.reg a) ∧
    (rndReserved v = true → exec (.vmodeWrite p n v) s = .next ((s.setReg (offVMODE n.val)
      (vmodeOfHost (s.reg (offVMODE n.val)) v)).errRec 11 0 (posUnit 1 n.val 0) (0x0B0000000000 + offVMODE n.val)))) ∧
  (∀ (p : Port) (v : Word) (s : State), s.portUp p = true → s.boot.recovering = false →
    (∃ t : State, exec (.waveCtlWrite p v) s = .next t ∧ t.field 0x100 8 0 = fieldOf v 8 0 ∧ t.waveCtl = s.waveCtl) ∧
    (s.isSealed = true → exec (.flipArm p v) s = .next s) ∧
    (s.isSealed = false → s.holder = some p → ∃ t : State, exec (.flipArm p v) s = .next t ∧
      t.bit (offERR + 0x20) 0 = true ∧ t.mem = s.mem) ∧
    (let w := s.regPlain p (offCNT + 0x10) (putField v 63 63 1)
     ((s.holder ≠ some p ∨ s.live = false) → exec (.wdogDump p v) s = .next w) ∧
     (s.holder = some p → s.live = true → exec (.wdogDump p v) s = .next (w.freeze 2))) ∧
    (∃ t : State, exec (.dumpRelease p v) s = .next t ∧ t.bit offDUMP 63 = false ∧ t.mem = s.mem ∧
      ∀ a, a ≠ offDUMP → t.reg a = s.reg a) ∧
    (s.flashHeld = false → ∃ t : State, exec (.laneNextWrite p v) s = .next t ∧
      t.field (offLANE + 0x10) 37 0 = fieldOf v 37 0 ∧ t.flash.laneNext = some (t.reg (offLANE + 0x10)) ∧
      t.reg offLANE = s.reg offLANE ∧ t.reg (offLANE + 8) = s.reg (offLANE + 8)) ∧
    (∃ t : State, exec (.grnProbe p v) s = .next t ∧ t.reg (offGRN + 0x800) = v ∧
      t.reg (offGRN + 0x808) = s.probeBond v ∧ t.grain = s.grain)) ∧
  (∀ (p : Port) (v : Word) (ok : Bool) (s : State), s.portUp p = true → s.boot.recovering = false →
    (s.holder ≠ some p → exec (.mbxWrite p v) s = .next s ∧ exec (.mbxCommit p v ok) s = .next s ∧
      exec (.mbxSelect p v) s = .next s) ∧
    (s.holder = some p → s.bit (offMBX + 8) 8 = false →
      exec (.mbxWrite p v) s = .next (s.mbxCopy (putField v 1 0 1)) ∧
      (s.flashHeld = false → (∃ t : State, exec (.mbxCommit p v ok) s = .next t ∧
          t.field (offMBX + 8) 1 0 = (if ok then 0 else 1) ∧ (t.flash.slot !s.runsB).good = ok ∧
          (t.flash.slot s.runsB) = (s.flash.slot s.runsB) ∧
          t.flash.preferB = (if ok then !s.runsB else s.flash.preferB) ∧ t.mem = s.mem) ∧
        (∃ t : State, exec (.mbxSelect p v) s = .next t ∧ t.field (offMBX + 8) 1 0 = 0 ∧ t.flash.preferB = s.runsB ∧
          t.flash.a = s.flash.a ∧ t.flash.b = s.flash.b)) ∧
      (s.flashHeld = true → ∀ c ∈ [Instr.mbxCommit p v ok, .mbxSelect p v], ∃ t : State, exec c s = .next t ∧
        t.field (offMBX + 8) 1 0 = 2 ∧ t.flash = s.flash)) ∧
    (s.holder = some p → s.bit (offMBX + 8) 8 = true → exec (.mbxWrite p v) s = .next (s.setBit (offMBX + 8) 9))) ∧
  (∀ (p : Port) (k : Fin 16) (j : Fin 5) (v : Word) (s : State), s.portUp p = true → s.boot.recovering = false →
    s.isSealed = false →
    (k.val = 15 → exec (.chkConfigWrite p k j v) s = .next s) ∧
    (k.val ≠ 15 → s.bit (offUnit k.val) 16 = true →
      exec (.chkConfigWrite p k j v) s = .next (s.setBit (offUnit k.val) 17)) ∧
    (k.val ≠ 15 → s.bit (offUnit k.val) 16 = false → (j ≠ 0 ∨ (8 ≤ fieldOf v 6 0 ∧ fieldOf v 6 0 ≤ 64)) →
      exec (.chkConfigWrite p k j v) s = .next (s.regPlain p (offUnit k.val + 8 * j.val) v))) ∧
  (∀ (p : Port) (pa : BitVec 48) (len : Nat) (mask : BitVec 64) (data : List Byte) (s : State),
    ((s.portUp p = false ∨ s.live = false ∨ inDram pa.toNat = false) → exec (.hdmRead p pa len) s = .next s ∧
      exec (.hdmWrite p pa mask data) s = .next s) ∧
    (s.portUp p = true → s.live = true → inDram pa.toNat = true →
      let go := (flitParts pa.toNat len).all fun x => s.hdmGo (s.hdmReadWay x.1 x.2) x.1 x.2 false
      let a := pa.toNat / 64 * 64
      (go = false → exec (.hdmRead p pa len) s = .next s) ∧
      (go = true → exec (.hdmRead p pa len) s = .next (s.hdmRead pa.toNat len (len / 64 + 2))) ∧
      (s.hdmGo (s.hdmWriteWay a) a 64 true = false → exec (.hdmWrite p pa mask data) s = .next s) ∧
      (s.hdmGo (s.hdmWriteWay a) a 64 true = true → exec (.hdmWrite p pa mask data) s = .next (s.hdmWrite a mask data))) ∧
    (∀ a : Nat, s.hdmWriteWay a = .closed →
      s.hdmWrite a mask data = s.errRec 12 0 (ctlUnit (ctlOf a)) a) ∧
    (∀ a : Nat, s.hdmReadWay a 1 = .slice → ∃ t : State, s.hdmRead a 1 2 = t ∧
      (let r := s.cohLoad hostOf 0 a 1 false false
       t.outbox.hdm = r.2.2.outbox.hdm ++ [(r.2.1.any id, r.1)])) ∧
    (∀ a n : Nat, s.trust.windowsClosed = true → s.inEgress a n = false → s.hdmReadWay a n = .closed ∧
      s.hdmWriteWay a = .closed))

/-- SPDM requests are answered in the order of the protocol, open and close sessions, and set the IDE keys -/
def Obligations.SecurityProtocolRequests : Prop :=
  (∀ (t : SpdmPort) (a : SpdmAlgs) (slot idx : BitVec 8) (o len sid : Nat) (nonce : List Byte) (g : SpdmGroup) (ok : Bool) (s : State),
    ∀ (c : Instr) (need : Nat), (c, need) ∈ [(Instr.getVersion t, 0), (.getCapabilities t, 1), (.negotiateAlgorithms t a, 2),
        (.getDigests t, 3), (.getCertificate t slot o len, 3), (.challenge t slot nonce, 3), (.getMeasurements t idx nonce, 3),
        (.keyExchange t g slot, 3), (.finish t sid ok, 3), (.endSession t sid, 3), (.keyUpdate t sid, 3), (.heartbeat t sid, 3),
        (.vendorDefinedRequest t sid ok, 3)] →
      (s.spdmHears t = false → exec c s = .next s) ∧
      (s.spdmHears t = true → s.sealUp = false →
        exec c s = .next (if s.boot.recovering then s.reply t (.error .busy) else s)) ∧
      (s.spdmHears t = true → s.sealUp = true → s.conn t < need →
        exec c s = .next (s.reply t (.error .unexpectedRequest)))) ∧
  (∀ (t : SpdmPort) (a : SpdmAlgs) (s : State), s.spdmHears t = true → s.sealUp = true →
    exec (.getVersion t) s = .next ((s.setConn t 1).reply t .version) ∧
    (1 ≤ s.conn t → exec (.getCapabilities t) s = .next ((s.setConn t (Nat.max 2 (s.conn t))).reply t .capabilities)) ∧
    (2 ≤ s.conn t → exec (.negotiateAlgorithms t a) s = .next (if a.rsassa4096 && a.sha512
      then (s.setConn t 3).reply t .algorithms else s.reply t (.error .unsupportedRequest)))) ∧
  (∀ (t : SpdmPort) (slot idx : BitVec 8) (o len : Nat) (nonce : List Byte) (g : SpdmGroup) (s : State),
    s.spdmHears t = true → s.sealUp = true → 3 ≤ s.conn t →
    (exec (.getDigests t) s = .next (s.reply t (.digests ((List.range 64).map fun j => Config.sealByte 4 j)))) ∧
    (slot ≠ 0#8 → exec (.getCertificate t slot o len) s = .next (s.reply t (.error .unsupportedRequest)) ∧
      exec (.challenge t slot nonce) s = .next (s.reply t (.error .unsupportedRequest)) ∧
      exec (.keyExchange t g slot) s = .next (s.reply t (.error .unsupportedRequest))) ∧
    (0x40000 ≤ o → exec (.getCertificate t 0#8 o len) s = .next (s.reply t (.error .invalidRequest))) ∧
    (o < 0x40000 → exec (.getCertificate t 0#8 o len) s = .next (s.reply t (.certificate
      ((List.range (Nat.min len (0x40000 - o))).map fun j => Config.sealByte 5 (o + j))))) ∧
    (∃ (sig : List Byte) (u : State), exec (.challenge t 0#8 nonce) s = .next u ∧ sig.length = 512 ∧
      u.outbox.spdm = s.outbox.spdm ++ [(t, .challengeAuth nonce sig)] ∧ u.trust = s.trust ∧ u.regs = s.regs) ∧
    (idx = 0#8 → exec (.getMeasurements t idx nonce) s = .next (s.reply t (.blockCount 8))) ∧
    (8 < idx.toNat → idx ≠ 255#8 → exec (.getMeasurements t idx nonce) s = .next (s.reply t (.error .invalidRequest))) ∧
    (0 < idx.toNat → idx.toNat ≤ 8 → ∃ (sig : List Byte) (u : State), exec (.getMeasurements t idx nonce) s = .next u ∧
      u.outbox.spdm = s.outbox.spdm ++ [(t, .measurements [(idx.toNat, s.measurement idx.toNat)] nonce sig)]) ∧
    (∃ (sig : List Byte) (u : State), exec (.getMeasurements t 255#8 nonce) s = .next u ∧ u.outbox.spdm = s.outbox.spdm ++
      [(t, .measurements ([1, 2, 3, 4, 5, 6, 7, 8].map fun j => (j, s.measurement j)) nonce sig)]) ∧
    (g ≠ .other → 4 ≤ s.trust.sessions.length →
      exec (.keyExchange t g 0#8) s = .next (s.reply t (.error .sessionLimit))) ∧
    (g ≠ .other → s.trust.sessions.length < 4 → ∃ (sig : List Byte) (u : State), exec (.keyExchange t g 0#8) s = .next u ∧
      u.trust.sessions = s.trust.sessions ++ [{ id := s.trust.nextId, port := t, secure := false }] ∧
      u.trust.nextId = s.trust.nextId + 1 ∧
      u.outbox.spdm = s.outbox.spdm ++ [(t, .keyExchange s.trust.nextId sig)] ∧ u.regs = s.regs)) ∧
  (∀ (t : SpdmPort) (sid : Nat) (b : Bool) (s : State), s.spdmHears t = true → s.sealUp = true → 3 ≤ s.conn t →
    (s.hasSession t sid false = false → exec (.finish t sid b) s = .next (s.reply t (.error .invalidRequest))) ∧
    (s.hasSession t sid false = true →
      (∃ u : State, exec (.finish t sid true) s = .next u ∧
        u.trust.sessions = s.trust.sessions.map (fun x => if x.id = sid then { x with secure := true } else x) ∧
        u.outbox.spdm = s.outbox.spdm ++ [(t, .finished sid)]) ∧
      (∃ u : State, exec (.finish t sid false) s = .next u ∧
        u.trust.sessions = s.trust.sessions.filter (fun x => decide (x.id ≠ sid)) ∧
        u.outbox.spdm = s.outbox.spdm ++ [(t, .error .decryptError)])) ∧
    (s.hasSession t sid true = false → ∀ c ∈ [Instr.endSession t sid, .keyUpdate t sid, .heartbeat t sid,
        .vendorDefinedRequest t sid b], exec c s = .next (s.reply t (.error .invalidRequest))) ∧
    (s.hasSession t sid true = true →
      (∃ u : State, exec (.endSession t sid) s = .next u ∧
        u.trust.sessions = s.trust.sessions.filter (fun x => decide (x.id ≠ sid)) ∧
        u.outbox.spdm = s.outbox.spdm ++ [(t, .ended sid)]) ∧
      exec (.keyUpdate t sid) s = .next (s.reply t (.keyUpdated sid)) ∧
      exec (.heartbeat t sid) s = .next (s.reply t (.alive sid)) ∧
      (t = .mctp → exec (.vendorDefinedRequest t sid b) s = .next (s.reply t (.error .unsupportedRequest))) ∧
      (∀ p : Port, t = .doe p → exec (.vendorDefinedRequest t sid b) s = .next (if b
        then ((s.reply t (.keysSet sid)).setBit offSEAL (ideBit p)).flushRings else s.reply t (.keysSet sid)))))
end

