-- ==== Sys2Proof/Laws/Table.lean ====
section
/-!
SUPPORT. Table.lean: what a lookup in a keyed table finds after an update.
-/
namespace Sys2Proof.Machine

theorem tabGet?_tabSet {α : Type} (t : List (Nat × α)) (key k : Nat) (v : α) :
    tabGet? (tabSet t key v) k = if k = key then some v else tabGet? t k := by
  induction t with
  | nil => simp only [tabSet, tabGet?, eq_comm]
  | cons x t ih =>
    obtain ⟨k0, w⟩ := x
    simp only [tabSet]
    split
    · simp only [tabGet?, eq_comm]
    · split
      · rename_i h; subst h
        simp only [tabGet?, eq_comm]
        split <;> rfl
      · simp only [tabGet?, ih]
        split <;> split <;> simp_all

@[simp] theorem tabGet?_tabSet_same {α : Type} (t : List (Nat × α)) (key : Nat) (v : α) :
    tabGet? (tabSet t key v) key = some v := by rw [tabGet?_tabSet, if_pos rfl]

theorem tabGet?_tabSet_other {α : Type} (t : List (Nat × α)) {key k : Nat} (v : α) (h : k ≠ key) :
    tabGet? (tabSet t key v) k = tabGet? t k := by rw [tabGet?_tabSet, if_neg h]

@[simp] theorem tabGetD_tabSet_same {α : Type} (t : List (Nat × α)) (key : Nat) (v d : α) :
    tabGetD (tabSet t key v) key d = v := by simp [tabGetD]

theorem tabGetD_tabSet_other {α : Type} (t : List (Nat × α)) {key k : Nat} (v d : α) (h : k ≠ key) :
    tabGetD (tabSet t key v) k d = tabGetD t k d := by simp [tabGetD, tabGet?_tabSet_other t v h]

theorem tabGet?_tabErase {α : Type} (t : List (Nat × α)) (key k : Nat) :
    tabGet? (tabErase t key) k = if k = key then none else tabGet? t k := by
  unfold tabErase
  induction t with
  | nil => simp [tabGet?]
  | cons x t ih =>
    obtain ⟨k0, w⟩ := x
    by_cases h : k0 = key
    · subst h
      by_cases h2 : k = k0
      · subst h2; simp_all [tabGet?]
      · rw [List.filter_cons_of_neg (by simp), ih, if_neg h2]
        simp [tabGet?, h2, Ne.symm h2]
    · rw [List.filter_cons_of_pos (by simp [h])]
      simp only [tabGet?, ih]
      by_cases h2 : k = key
      · subst h2; simp [h]
      · simp [h2]

@[simp] theorem tabGetD_tabPut_same {α : Type} [DecidableEq α] (t : List (Nat × α)) (key : Nat) (v d : α) :
    tabGetD (tabPut t key v d) key d = v := by
  unfold tabPut tabGetD
  split
  · simp_all [tabGet?_tabErase]
  · simp

theorem tabGetD_tabPut_other {α : Type} [DecidableEq α] (t : List (Nat × α)) {key k : Nat} (v d e : α)
    (h : k ≠ key) : tabGetD (tabPut t key v d) k e = tabGetD t k e := by
  unfold tabPut tabGetD
  split
  · rw [tabGet?_tabErase, if_neg h]
  · rw [tabGet?_tabSet_other t v h]

end Sys2Proof.Machine
end

