-- ==== Sys2Proof/Laws/State.lean ====
section
/-!
SUPPORT. State.lean: one lemma per field for each named update of the state, and what a register, a core and a context
read as after an update.
-/
namespace Sys2Proof.Machine

/-! Registers. -/

@[simp] theorem reg_setReg_same (s : State) (off : Nat) (v : Word) : (s.setReg off v).reg off = v := by
  simp [State.reg, State.setReg, regGet, regSet]

theorem reg_setReg_other (s : State) {off k : Nat} (v : Word) (h : k ≠ off) : (s.setReg off v).reg k = s.reg k := by
  simp only [State.reg, State.setReg, regGet, regSet]; exact tabGetD_tabPut_other _ _ _ _ h

@[simp] theorem reg_setField_same (s : State) (off hi lo v : Nat) :
    (s.setField off hi lo v).reg off = putField (s.reg off) hi lo v := by simp [State.setField]

theorem reg_setField_other (s : State) {off k : Nat} (hi lo v : Nat) (h : k ≠ off) :
    (s.setField off hi lo v).reg k = s.reg k := reg_setReg_other s _ h

theorem reg_setBit_other (s : State) {off k : Nat} (i : Nat) (h : k ≠ off) : (s.setBit off i).reg k = s.reg k :=
  reg_setReg_other s _ h

theorem reg_clearBit_other (s : State) {off k : Nat} (i : Nat) (h : k ≠ off) : (s.clearBit off i).reg k = s.reg k :=
  reg_setReg_other s _ h

/-! Cores and contexts. -/

@[simp] theorem core_setCore_same (s : State) (n : Nat) (k : Core) : (s.setCore n k).core n = k := by
  simp [State.core, State.setCore]

theorem core_setCore_other (s : State) {n m : Nat} (k : Core) (h : m ≠ n) : (s.setCore n k).core m = s.core m := by
  simp only [State.core, State.setCore]; exact tabGetD_tabSet_other _ _ _ h

@[simp] theorem Core.ctx_setCtx_same (k : Core) (c : Ctx) (x : Context) : (k.setCtx c x).ctx c = x := by
  cases c <;> rfl

theorem Core.ctx_setCtx_other (k : Core) {c e : Ctx} (x : Context) (h : e ≠ c) : (k.setCtx c x).ctx e = k.ctx e := by
  cases c <;> cases e <;> first | rfl | exact absurd rfl h

@[simp] theorem ctx_setCtx_same (s : State) (n : Nat) (c : Ctx) (x : Context) : (s.setCtx n c x).ctx n c = x := by
  simp [State.ctx, State.setCtx]

theorem ctx_setCtx_other (s : State) {n m : Nat} {c e : Ctx} (x : Context) (h : (m, e) ≠ (n, c)) :
    (s.setCtx n c x).ctx m e = s.ctx m e := by
  unfold State.ctx State.setCtx
  by_cases hm : m = n
  · subst hm
    rw [core_setCore_same]
    exact Core.ctx_setCtx_other _ _ fun he => h (by rw [he])
  · rw [core_setCore_other _ _ hm]

@[simp] theorem core_setReg (s : State) (off : Nat) (v : Word) (n : Nat) : (s.setReg off v).core n = s.core n := rfl
@[simp] theorem ctx_setReg (s : State) (off : Nat) (v : Word) (n : Nat) (c : Ctx) :
    (s.setReg off v).ctx n c = s.ctx n c := rfl
@[simp] theorem reg_setCore (s : State) (n : Nat) (k : Core) (off : Nat) : (s.setCore n k).reg off = s.reg off := rfl
@[simp] theorem reg_setCtx (s : State) (n : Nat) (c : Ctx) (x : Context) (off : Nat) :
    (s.setCtx n c x).reg off = s.reg off := rfl

/-! One lemma per field of the state for each update. -/

@[simp] theorem setReg_pending (s : State) (off : Nat) (v : Word) : (s.setReg off v).pending = s.pending := rfl
@[simp] theorem setReg_func (s : State) (off : Nat) (v : Word) : (s.setReg off v).func = s.func := rfl
@[simp] theorem setReg_mem (s : State) (off : Nat) (v : Word) : (s.setReg off v).mem = s.mem := rfl
@[simp] theorem setReg_cmem (s : State) (off : Nat) (v : Word) : (s.setReg off v).cmem = s.cmem := rfl
@[simp] theorem setReg_host (s : State) (off : Nat) (v : Word) : (s.setReg off v).host = s.host := rfl
@[simp] theorem setReg_cores (s : State) (off : Nat) (v : Word) : (s.setReg off v).cores = s.cores := rfl
@[simp] theorem setReg_streams (s : State) (off : Nat) (v : Word) : (s.setReg off v).streams = s.streams := rfl
@[simp] theorem setReg_image (s : State) (off : Nat) (v : Word) : (s.setReg off v).image = s.image := rfl
@[simp] theorem setReg_reqs (s : State) (off : Nat) (v : Word) : (s.setReg off v).reqs = s.reqs := rfl
@[simp] theorem setReg_nextReq (s : State) (off : Nat) (v : Word) : (s.setReg off v).nextReq = s.nextReq := rfl
@[simp] theorem setReg_lines (s : State) (off : Nat) (v : Word) : (s.setReg off v).lines = s.lines := rfl
@[simp] theorem setReg_evicts (s : State) (off : Nat) (v : Word) : (s.setReg off v).evicts = s.evicts := rfl
@[simp] theorem setReg_fills (s : State) (off : Nat) (v : Word) : (s.setReg off v).fills = s.fills := rfl
@[simp] theorem setReg_plru (s : State) (off : Nat) (v : Word) : (s.setReg off v).plru = s.plru := rfl
@[simp] theorem setReg_setAcc (s : State) (off : Nat) (v : Word) : (s.setReg off v).setAcc = s.setAcc := rfl
@[simp] theorem setReg_thrash (s : State) (off : Nat) (v : Word) : (s.setReg off v).thrash = s.thrash := rfl
@[simp] theorem setReg_flushes (s : State) (off : Nat) (v : Word) : (s.setReg off v).flushes = s.flushes := rfl
@[simp] theorem setReg_ctls (s : State) (off : Nat) (v : Word) : (s.setReg off v).ctls = s.ctls := rfl
@[simp] theorem setReg_steps (s : State) (off : Nat) (v : Word) : (s.setReg off v).steps = s.steps := rfl
@[simp] theorem setReg_movers (s : State) (off : Nat) (v : Word) : (s.setReg off v).movers = s.movers := rfl
@[simp] theorem setReg_backs (s : State) (off : Nat) (v : Word) : (s.setReg off v).backs = s.backs := rfl
@[simp] theorem setReg_restored (s : State) (off : Nat) (v : Word) : (s.setReg off v).restored = s.restored := rfl
@[simp] theorem setReg_badAgain (s : State) (off : Nat) (v : Word) : (s.setReg off v).badAgain = s.badAgain := rfl
@[simp] theorem setReg_splits (s : State) (off : Nat) (v : Word) : (s.setReg off v).splits = s.splits := rfl
@[simp] theorem setReg_fillQ (s : State) (off : Nat) (v : Word) : (s.setReg off v).fillQ = s.fillQ := rfl
@[simp] theorem setReg_fillAt (s : State) (off : Nat) (v : Word) : (s.setReg off v).fillAt = s.fillAt := rfl
@[simp] theorem setReg_pipes (s : State) (off : Nat) (v : Word) : (s.setReg off v).pipes = s.pipes := rfl
@[simp] theorem setReg_pageIds (s : State) (off : Nat) (v : Word) : (s.setReg off v).pageIds = s.pageIds := rfl
@[simp] theorem setReg_slots (s : State) (off : Nat) (v : Word) : (s.setReg off v).slots = s.slots := rfl
@[simp] theorem setReg_freeNext (s : State) (off : Nat) (v : Word) : (s.setReg off v).freeNext = s.freeNext := rfl
@[simp] theorem setReg_slotNext (s : State) (off : Nat) (v : Word) : (s.setReg off v).slotNext = s.slotNext := rfl
@[simp] theorem setReg_hpages (s : State) (off : Nat) (v : Word) : (s.setReg off v).hpages = s.hpages := rfl
@[simp] theorem setReg_stuck (s : State) (off : Nat) (v : Word) : (s.setReg off v).stuck = s.stuck := rfl
@[simp] theorem setReg_seqs (s : State) (off : Nat) (v : Word) : (s.setReg off v).seqs = s.seqs := rfl
@[simp] theorem setReg_nextOrder (s : State) (off : Nat) (v : Word) : (s.setReg off v).nextOrder = s.nextOrder := rfl
@[simp] theorem setReg_prefixes (s : State) (off : Nat) (v : Word) : (s.setReg off v).prefixes = s.prefixes := rfl
@[simp] theorem setReg_waves (s : State) (off : Nat) (v : Word) : (s.setReg off v).waves = s.waves := rfl
@[simp] theorem setReg_lastWave (s : State) (off : Nat) (v : Word) : (s.setReg off v).lastWave = s.lastWave := rfl
@[simp] theorem setReg_periods (s : State) (off : Nat) (v : Word) : (s.setReg off v).periods = s.periods := rfl
@[simp] theorem setReg_measure (s : State) (off : Nat) (v : Word) : (s.setReg off v).measure = s.measure := rfl
@[simp] theorem setReg_inserted (s : State) (off : Nat) (v : Word) : (s.setReg off v).inserted = s.inserted := rfl
@[simp] theorem setReg_regen (s : State) (off : Nat) (v : Word) : (s.setReg off v).regen = s.regen := rfl
@[simp] theorem setReg_regenPos (s : State) (off : Nat) (v : Word) : (s.setReg off v).regenPos = s.regenPos := rfl
@[simp] theorem setReg_regenBad (s : State) (off : Nat) (v : Word) : (s.setReg off v).regenBad = s.regenBad := rfl
@[simp] theorem setReg_waveCtl (s : State) (off : Nat) (v : Word) : (s.setReg off v).waveCtl = s.waveCtl := rfl
@[simp] theorem setReg_log (s : State) (off : Nat) (v : Word) : (s.setReg off v).log = s.log := rfl
@[simp] theorem setReg_rings (s : State) (off : Nat) (v : Word) : (s.setReg off v).rings = s.rings := rfl
@[simp] theorem setReg_compQ (s : State) (off : Nat) (v : Word) : (s.setReg off v).compQ = s.compQ := rfl
@[simp] theorem setReg_compSent (s : State) (off : Nat) (v : Word) : (s.setReg off v).compSent = s.compSent := rfl
@[simp] theorem setReg_evHeld (s : State) (off : Nat) (v : Word) : (s.setReg off v).evHeld = s.evHeld := rfl
@[simp] theorem setReg_evSent (s : State) (off : Nat) (v : Word) : (s.setReg off v).evSent = s.evSent := rfl
@[simp] theorem setReg_evLog (s : State) (off : Nat) (v : Word) : (s.setReg off v).evLog = s.evLog := rfl
@[simp] theorem setReg_outQ (s : State) (off : Nat) (v : Word) : (s.setReg off v).outQ = s.outQ := rfl
@[simp] theorem setReg_outSent (s : State) (off : Nat) (v : Word) : (s.setReg off v).outSent = s.outSent := rfl
@[simp] theorem setReg_nextTag (s : State) (off : Nat) (v : Word) : (s.setReg off v).nextTag = s.nextTag := rfl
@[simp] theorem setReg_quads (s : State) (off : Nat) (v : Word) : (s.setReg off v).quads = s.quads := rfl
@[simp] theorem setReg_rotor (s : State) (off : Nat) (v : Word) : (s.setReg off v).rotor = s.rotor := rfl
@[simp] theorem setReg_peerRx (s : State) (off : Nat) (v : Word) : (s.setReg off v).peerRx = s.peerRx := rfl
@[simp] theorem setReg_netChurn (s : State) (off : Nat) (v : Word) : (s.setReg off v).netChurn = s.netChurn := rfl
@[simp] theorem setReg_parFail (s : State) (off : Nat) (v : Word) : (s.setReg off v).parFail = s.parFail := rfl
@[simp] theorem setReg_edgesDown (s : State) (off : Nat) (v : Word) : (s.setReg off v).edgesDown = s.edgesDown := rfl
@[simp] theorem setReg_grain (s : State) (off : Nat) (v : Word) : (s.setReg off v).grain = s.grain := rfl
@[simp] theorem setReg_flash (s : State) (off : Nat) (v : Word) : (s.setReg off v).flash = s.flash := rfl
@[simp] theorem setReg_pins (s : State) (off : Nat) (v : Word) : (s.setReg off v).pins = s.pins := rfl
@[simp] theorem setReg_boot (s : State) (off : Nat) (v : Word) : (s.setReg off v).boot = s.boot := rfl
@[simp] theorem setReg_power (s : State) (off : Nat) (v : Word) : (s.setReg off v).power = s.power := rfl
@[simp] theorem setReg_trust (s : State) (off : Nat) (v : Word) : (s.setReg off v).trust = s.trust := rfl
@[simp] theorem setReg_cnt (s : State) (off : Nat) (v : Word) : (s.setReg off v).cnt = s.cnt := rfl
@[simp] theorem setReg_outbox (s : State) (off : Nat) (v : Word) : (s.setReg off v).outbox = s.outbox := rfl
@[simp] theorem setReg_time (s : State) (off : Nat) (v : Word) : (s.setReg off v).time = s.time := rfl
@[simp] theorem setReg_churns (s : State) (off : Nat) (v : Word) : (s.setReg off v).churns = s.churns := rfl
@[simp] theorem setReg_idleChurns (s : State) (off : Nat) (v : Word) : (s.setReg off v).idleChurns = s.idleChurns := rfl
@[simp] theorem setReg_lastCommit (s : State) (off : Nat) (v : Word) : (s.setReg off v).lastCommit = s.lastCommit := rfl
@[simp] theorem setReg_lastCkpt (s : State) (off : Nat) (v : Word) : (s.setReg off v).lastCkpt = s.lastCkpt := rfl
@[simp] theorem setReg_dumpDue (s : State) (off : Nat) (v : Word) : (s.setReg off v).dumpDue = s.dumpDue := rfl
@[simp] theorem setReg_dumps (s : State) (off : Nat) (v : Word) : (s.setReg off v).dumps = s.dumps := rfl
@[simp] theorem setReg_dumpGone (s : State) (off : Nat) (v : Word) : (s.setReg off v).dumpGone = s.dumpGone := rfl
@[simp] theorem setReg_failover (s : State) (off : Nat) (v : Word) : (s.setReg off v).failover = s.failover := rfl
@[simp] theorem setReg_failed (s : State) (off : Nat) (v : Word) : (s.setReg off v).failed = s.failed := rfl
@[simp] theorem setReg_resume (s : State) (off : Nat) (v : Word) : (s.setReg off v).resume = s.resume := rfl
@[simp] theorem setReg_degCl (s : State) (off : Nat) (v : Word) : (s.setReg off v).degCl = s.degCl := rfl
@[simp] theorem setReg_rotNext (s : State) (off : Nat) (v : Word) : (s.setReg off v).rotNext = s.rotNext := rfl
@[simp] theorem setReg_stopped (s : State) (off : Nat) (v : Word) : (s.setReg off v).stopped = s.stopped := rfl
@[simp] theorem setReg_freeCtr (s : State) (off : Nat) (v : Word) : (s.setReg off v).freeCtr = s.freeCtr := rfl

@[simp] theorem setField_pending (s : State) (off hi lo v : Nat) : (s.setField off hi lo v).pending = s.pending := rfl
@[simp] theorem setField_func (s : State) (off hi lo v : Nat) : (s.setField off hi lo v).func = s.func := rfl
@[simp] theorem setField_mem (s : State) (off hi lo v : Nat) : (s.setField off hi lo v).mem = s.mem := rfl
@[simp] theorem setField_cmem (s : State) (off hi lo v : Nat) : (s.setField off hi lo v).cmem = s.cmem := rfl
@[simp] theorem setField_host (s : State) (off hi lo v : Nat) : (s.setField off hi lo v).host = s.host := rfl
@[simp] theorem setField_cores (s : State) (off hi lo v : Nat) : (s.setField off hi lo v).cores = s.cores := rfl
@[simp] theorem setField_streams (s : State) (off hi lo v : Nat) : (s.setField off hi lo v).streams = s.streams := rfl
@[simp] theorem setField_image (s : State) (off hi lo v : Nat) : (s.setField off hi lo v).image = s.image := rfl
@[simp] theorem setField_reqs (s : State) (off hi lo v : Nat) : (s.setField off hi lo v).reqs = s.reqs := rfl
@[simp] theorem setField_nextReq (s : State) (off hi lo v : Nat) : (s.setField off hi lo v).nextReq = s.nextReq := rfl
@[simp] theorem setField_lines (s : State) (off hi lo v : Nat) : (s.setField off hi lo v).lines = s.lines := rfl
@[simp] theorem setField_evicts (s : State) (off hi lo v : Nat) : (s.setField off hi lo v).evicts = s.evicts := rfl
@[simp] theorem setField_fills (s : State) (off hi lo v : Nat) : (s.setField off hi lo v).fills = s.fills := rfl
@[simp] theorem setField_plru (s : State) (off hi lo v : Nat) : (s.setField off hi lo v).plru = s.plru := rfl
@[simp] theorem setField_setAcc (s : State) (off hi lo v : Nat) : (s.setField off hi lo v).setAcc = s.setAcc := rfl
@[simp] theorem setField_thrash (s : State) (off hi lo v : Nat) : (s.setField off hi lo v).thrash = s.thrash := rfl
@[simp] theorem setField_flushes (s : State) (off hi lo v : Nat) : (s.setField off hi lo v).flushes = s.flushes := rfl
@[simp] theorem setField_ctls (s : State) (off hi lo v : Nat) : (s.setField off hi lo v).ctls = s.ctls := rfl
@[simp] theorem setField_steps (s : State) (off hi lo v : Nat) : (s.setField off hi lo v).steps = s.steps := rfl
@[simp] theorem setField_movers (s : State) (off hi lo v : Nat) : (s.setField off hi lo v).movers = s.movers := rfl
@[simp] theorem setField_backs (s : State) (off hi lo v : Nat) : (s.setField off hi lo v).backs = s.backs := rfl
@[simp] theorem setField_restored (s : State) (off hi lo v : Nat) : (s.setField off hi lo v).restored = s.restored := rfl
@[simp] theorem setField_badAgain (s : State) (off hi lo v : Nat) : (s.setField off hi lo v).badAgain = s.badAgain := rfl
@[simp] theorem setField_splits (s : State) (off hi lo v : Nat) : (s.setField off hi lo v).splits = s.splits := rfl
@[simp] theorem setField_fillQ (s : State) (off hi lo v : Nat) : (s.setField off hi lo v).fillQ = s.fillQ := rfl
@[simp] theorem setField_fillAt (s : State) (off hi lo v : Nat) : (s.setField off hi lo v).fillAt = s.fillAt := rfl
@[simp] theorem setField_pipes (s : State) (off hi lo v : Nat) : (s.setField off hi lo v).pipes = s.pipes := rfl
@[simp] theorem setField_pageIds (s : State) (off hi lo v : Nat) : (s.setField off hi lo v).pageIds = s.pageIds := rfl
@[simp] theorem setField_slots (s : State) (off hi lo v : Nat) : (s.setField off hi lo v).slots = s.slots := rfl
@[simp] theorem setField_freeNext (s : State) (off hi lo v : Nat) : (s.setField off hi lo v).freeNext = s.freeNext := rfl
@[simp] theorem setField_slotNext (s : State) (off hi lo v : Nat) : (s.setField off hi lo v).slotNext = s.slotNext := rfl
@[simp] theorem setField_hpages (s : State) (off hi lo v : Nat) : (s.setField off hi lo v).hpages = s.hpages := rfl
@[simp] theorem setField_stuck (s : State) (off hi lo v : Nat) : (s.setField off hi lo v).stuck = s.stuck := rfl
@[simp] theorem setField_seqs (s : State) (off hi lo v : Nat) : (s.setField off hi lo v).seqs = s.seqs := rfl
@[simp] theorem setField_nextOrder (s : State) (off hi lo v : Nat) : (s.setField off hi lo v).nextOrder = s.nextOrder := rfl
@[simp] theorem setField_prefixes (s : State) (off hi lo v : Nat) : (s.setField off hi lo v).prefixes = s.prefixes := rfl
@[simp] theorem setField_waves (s : State) (off hi lo v : Nat) : (s.setField off hi lo v).waves = s.waves := rfl
@[simp] theorem setField_lastWave (s : State) (off hi lo v : Nat) : (s.setField off hi lo v).lastWave = s.lastWave := rfl
@[simp] theorem setField_periods (s : State) (off hi lo v : Nat) : (s.setField off hi lo v).periods = s.periods := rfl
@[simp] theorem setField_measure (s : State) (off hi lo v : Nat) : (s.setField off hi lo v).measure = s.measure := rfl
@[simp] theorem setField_inserted (s : State) (off hi lo v : Nat) : (s.setField off hi lo v).inserted = s.inserted := rfl
@[simp] theorem setField_regen (s : State) (off hi lo v : Nat) : (s.setField off hi lo v).regen = s.regen := rfl
@[simp] theorem setField_regenPos (s : State) (off hi lo v : Nat) : (s.setField off hi lo v).regenPos = s.regenPos := rfl
@[simp] theorem setField_regenBad (s : State) (off hi lo v : Nat) : (s.setField off hi lo v).regenBad = s.regenBad := rfl
@[simp] theorem setField_waveCtl (s : State) (off hi lo v : Nat) : (s.setField off hi lo v).waveCtl = s.waveCtl := rfl
@[simp] theorem setField_log (s : State) (off hi lo v : Nat) : (s.setField off hi lo v).log = s.log := rfl
@[simp] theorem setField_rings (s : State) (off hi lo v : Nat) : (s.setField off hi lo v).rings = s.rings := rfl
@[simp] theorem setField_compQ (s : State) (off hi lo v : Nat) : (s.setField off hi lo v).compQ = s.compQ := rfl
@[simp] theorem setField_compSent (s : State) (off hi lo v : Nat) : (s.setField off hi lo v).compSent = s.compSent := rfl
@[simp] theorem setField_evHeld (s : State) (off hi lo v : Nat) : (s.setField off hi lo v).evHeld = s.evHeld := rfl
@[simp] theorem setField_evSent (s : State) (off hi lo v : Nat) : (s.setField off hi lo v).evSent = s.evSent := rfl
@[simp] theorem setField_evLog (s : State) (off hi lo v : Nat) : (s.setField off hi lo v).evLog = s.evLog := rfl
@[simp] theorem setField_outQ (s : State) (off hi lo v : Nat) : (s.setField off hi lo v).outQ = s.outQ := rfl
@[simp] theorem setField_outSent (s : State) (off hi lo v : Nat) : (s.setField off hi lo v).outSent = s.outSent := rfl
@[simp] theorem setField_nextTag (s : State) (off hi lo v : Nat) : (s.setField off hi lo v).nextTag = s.nextTag := rfl
@[simp] theorem setField_quads (s : State) (off hi lo v : Nat) : (s.setField off hi lo v).quads = s.quads := rfl
@[simp] theorem setField_rotor (s : State) (off hi lo v : Nat) : (s.setField off hi lo v).rotor = s.rotor := rfl
@[simp] theorem setField_peerRx (s : State) (off hi lo v : Nat) : (s.setField off hi lo v).peerRx = s.peerRx := rfl
@[simp] theorem setField_netChurn (s : State) (off hi lo v : Nat) : (s.setField off hi lo v).netChurn = s.netChurn := rfl
@[simp] theorem setField_parFail (s : State) (off hi lo v : Nat) : (s.setField off hi lo v).parFail = s.parFail := rfl
@[simp] theorem setField_edgesDown (s : State) (off hi lo v : Nat) : (s.setField off hi lo v).edgesDown = s.edgesDown := rfl
@[simp] theorem setField_grain (s : State) (off hi lo v : Nat) : (s.setField off hi lo v).grain = s.grain := rfl
@[simp] theorem setField_flash (s : State) (off hi lo v : Nat) : (s.setField off hi lo v).flash = s.flash := rfl
@[simp] theorem setField_pins (s : State) (off hi lo v : Nat) : (s.setField off hi lo v).pins = s.pins := rfl
@[simp] theorem setField_boot (s : State) (off hi lo v : Nat) : (s.setField off hi lo v).boot = s.boot := rfl
@[simp] theorem setField_power (s : State) (off hi lo v : Nat) : (s.setField off hi lo v).power = s.power := rfl
@[simp] theorem setField_trust (s : State) (off hi lo v : Nat) : (s.setField off hi lo v).trust = s.trust := rfl
@[simp] theorem setField_cnt (s : State) (off hi lo v : Nat) : (s.setField off hi lo v).cnt = s.cnt := rfl
@[simp] theorem setField_outbox (s : State) (off hi lo v : Nat) : (s.setField off hi lo v).outbox = s.outbox := rfl
@[simp] theorem setField_time (s : State) (off hi lo v : Nat) : (s.setField off hi lo v).time = s.time := rfl
@[simp] theorem setField_churns (s : State) (off hi lo v : Nat) : (s.setField off hi lo v).churns = s.churns := rfl
@[simp] theorem setField_idleChurns (s : State) (off hi lo v : Nat) : (s.setField off hi lo v).idleChurns = s.idleChurns := rfl
@[simp] theorem setField_lastCommit (s : State) (off hi lo v : Nat) : (s.setField off hi lo v).lastCommit = s.lastCommit := rfl
@[simp] theorem setField_lastCkpt (s : State) (off hi lo v : Nat) : (s.setField off hi lo v).lastCkpt = s.lastCkpt := rfl
@[simp] theorem setField_dumpDue (s : State) (off hi lo v : Nat) : (s.setField off hi lo v).dumpDue = s.dumpDue := rfl
@[simp] theorem setField_dumps (s : State) (off hi lo v : Nat) : (s.setField off hi lo v).dumps = s.dumps := rfl
@[simp] theorem setField_dumpGone (s : State) (off hi lo v : Nat) : (s.setField off hi lo v).dumpGone = s.dumpGone := rfl
@[simp] theorem setField_failover (s : State) (off hi lo v : Nat) : (s.setField off hi lo v).failover = s.failover := rfl
@[simp] theorem setField_failed (s : State) (off hi lo v : Nat) : (s.setField off hi lo v).failed = s.failed := rfl
@[simp] theorem setField_resume (s : State) (off hi lo v : Nat) : (s.setField off hi lo v).resume = s.resume := rfl
@[simp] theorem setField_degCl (s : State) (off hi lo v : Nat) : (s.setField off hi lo v).degCl = s.degCl := rfl
@[simp] theorem setField_rotNext (s : State) (off hi lo v : Nat) : (s.setField off hi lo v).rotNext = s.rotNext := rfl
@[simp] theorem setField_stopped (s : State) (off hi lo v : Nat) : (s.setField off hi lo v).stopped = s.stopped := rfl
@[simp] theorem setField_freeCtr (s : State) (off hi lo v : Nat) : (s.setField off hi lo v).freeCtr = s.freeCtr := rfl

@[simp] theorem setBit_pending (s : State) (off i : Nat) : (s.setBit off i).pending = s.pending := rfl
@[simp] theorem setBit_func (s : State) (off i : Nat) : (s.setBit off i).func = s.func := rfl
@[simp] theorem setBit_mem (s : State) (off i : Nat) : (s.setBit off i).mem = s.mem := rfl
@[simp] theorem setBit_cmem (s : State) (off i : Nat) : (s.setBit off i).cmem = s.cmem := rfl
@[simp] theorem setBit_host (s : State) (off i : Nat) : (s.setBit off i).host = s.host := rfl
@[simp] theorem setBit_cores (s : State) (off i : Nat) : (s.setBit off i).cores = s.cores := rfl
@[simp] theorem setBit_streams (s : State) (off i : Nat) : (s.setBit off i).streams = s.streams := rfl
@[simp] theorem setBit_image (s : State) (off i : Nat) : (s.setBit off i).image = s.image := rfl
@[simp] theorem setBit_reqs (s : State) (off i : Nat) : (s.setBit off i).reqs = s.reqs := rfl
@[simp] theorem setBit_nextReq (s : State) (off i : Nat) : (s.setBit off i).nextReq = s.nextReq := rfl
@[simp] theorem setBit_lines (s : State) (off i : Nat) : (s.setBit off i).lines = s.lines := rfl
@[simp] theorem setBit_evicts (s : State) (off i : Nat) : (s.setBit off i).evicts = s.evicts := rfl
@[simp] theorem setBit_fills (s : State) (off i : Nat) : (s.setBit off i).fills = s.fills := rfl
@[simp] theorem setBit_plru (s : State) (off i : Nat) : (s.setBit off i).plru = s.plru := rfl
@[simp] theorem setBit_setAcc (s : State) (off i : Nat) : (s.setBit off i).setAcc = s.setAcc := rfl
@[simp] theorem setBit_thrash (s : State) (off i : Nat) : (s.setBit off i).thrash = s.thrash := rfl
@[simp] theorem setBit_flushes (s : State) (off i : Nat) : (s.setBit off i).flushes = s.flushes := rfl
@[simp] theorem setBit_ctls (s : State) (off i : Nat) : (s.setBit off i).ctls = s.ctls := rfl
@[simp] theorem setBit_steps (s : State) (off i : Nat) : (s.setBit off i).steps = s.steps := rfl
@[simp] theorem setBit_movers (s : State) (off i : Nat) : (s.setBit off i).movers = s.movers := rfl
@[simp] theorem setBit_backs (s : State) (off i : Nat) : (s.setBit off i).backs = s.backs := rfl
@[simp] theorem setBit_restored (s : State) (off i : Nat) : (s.setBit off i).restored = s.restored := rfl
@[simp] theorem setBit_badAgain (s : State) (off i : Nat) : (s.setBit off i).badAgain = s.badAgain := rfl
@[simp] theorem setBit_splits (s : State) (off i : Nat) : (s.setBit off i).splits = s.splits := rfl
@[simp] theorem setBit_fillQ (s : State) (off i : Nat) : (s.setBit off i).fillQ = s.fillQ := rfl
@[simp] theorem setBit_fillAt (s : State) (off i : Nat) : (s.setBit off i).fillAt = s.fillAt := rfl
@[simp] theorem setBit_pipes (s : State) (off i : Nat) : (s.setBit off i).pipes = s.pipes := rfl
@[simp] theorem setBit_pageIds (s : State) (off i : Nat) : (s.setBit off i).pageIds = s.pageIds := rfl
@[simp] theorem setBit_slots (s : State) (off i : Nat) : (s.setBit off i).slots = s.slots := rfl
@[simp] theorem setBit_freeNext (s : State) (off i : Nat) : (s.setBit off i).freeNext = s.freeNext := rfl
@[simp] theorem setBit_slotNext (s : State) (off i : Nat) : (s.setBit off i).slotNext = s.slotNext := rfl
@[simp] theorem setBit_hpages (s : State) (off i : Nat) : (s.setBit off i).hpages = s.hpages := rfl
@[simp] theorem setBit_stuck (s : State) (off i : Nat) : (s.setBit off i).stuck = s.stuck := rfl
@[simp] theorem setBit_seqs (s : State) (off i : Nat) : (s.setBit off i).seqs = s.seqs := rfl
@[simp] theorem setBit_nextOrder (s : State) (off i : Nat) : (s.setBit off i).nextOrder = s.nextOrder := rfl
@[simp] theorem setBit_prefixes (s : State) (off i : Nat) : (s.setBit off i).prefixes = s.prefixes := rfl
@[simp] theorem setBit_waves (s : State) (off i : Nat) : (s.setBit off i).waves = s.waves := rfl
@[simp] theorem setBit_lastWave (s : State) (off i : Nat) : (s.setBit off i).lastWave = s.lastWave := rfl
@[simp] theorem setBit_periods (s : State) (off i : Nat) : (s.setBit off i).periods = s.periods := rfl
@[simp] theorem setBit_measure (s : State) (off i : Nat) : (s.setBit off i).measure = s.measure := rfl
@[simp] theorem setBit_inserted (s : State) (off i : Nat) : (s.setBit off i).inserted = s.inserted := rfl
@[simp] theorem setBit_regen (s : State) (off i : Nat) : (s.setBit off i).regen = s.regen := rfl
@[simp] theorem setBit_regenPos (s : State) (off i : Nat) : (s.setBit off i).regenPos = s.regenPos := rfl
@[simp] theorem setBit_regenBad (s : State) (off i : Nat) : (s.setBit off i).regenBad = s.regenBad := rfl
@[simp] theorem setBit_waveCtl (s : State) (off i : Nat) : (s.setBit off i).waveCtl = s.waveCtl := rfl
@[simp] theorem setBit_log (s : State) (off i : Nat) : (s.setBit off i).log = s.log := rfl
@[simp] theorem setBit_rings (s : State) (off i : Nat) : (s.setBit off i).rings = s.rings := rfl
@[simp] theorem setBit_compQ (s : State) (off i : Nat) : (s.setBit off i).compQ = s.compQ := rfl
@[simp] theorem setBit_compSent (s : State) (off i : Nat) : (s.setBit off i).compSent = s.compSent := rfl
@[simp] theorem setBit_evHeld (s : State) (off i : Nat) : (s.setBit off i).evHeld = s.evHeld := rfl
@[simp] theorem setBit_evSent (s : State) (off i : Nat) : (s.setBit off i).evSent = s.evSent := rfl
@[simp] theorem setBit_evLog (s : State) (off i : Nat) : (s.setBit off i).evLog = s.evLog := rfl
@[simp] theorem setBit_outQ (s : State) (off i : Nat) : (s.setBit off i).outQ = s.outQ := rfl
@[simp] theorem setBit_outSent (s : State) (off i : Nat) : (s.setBit off i).outSent = s.outSent := rfl
@[simp] theorem setBit_nextTag (s : State) (off i : Nat) : (s.setBit off i).nextTag = s.nextTag := rfl
@[simp] theorem setBit_quads (s : State) (off i : Nat) : (s.setBit off i).quads = s.quads := rfl
@[simp] theorem setBit_rotor (s : State) (off i : Nat) : (s.setBit off i).rotor = s.rotor := rfl
@[simp] theorem setBit_peerRx (s : State) (off i : Nat) : (s.setBit off i).peerRx = s.peerRx := rfl
@[simp] theorem setBit_netChurn (s : State) (off i : Nat) : (s.setBit off i).netChurn = s.netChurn := rfl
@[simp] theorem setBit_parFail (s : State) (off i : Nat) : (s.setBit off i).parFail = s.parFail := rfl
@[simp] theorem setBit_edgesDown (s : State) (off i : Nat) : (s.setBit off i).edgesDown = s.edgesDown := rfl
@[simp] theorem setBit_grain (s : State) (off i : Nat) : (s.setBit off i).grain = s.grain := rfl
@[simp] theorem setBit_flash (s : State) (off i : Nat) : (s.setBit off i).flash = s.flash := rfl
@[simp] theorem setBit_pins (s : State) (off i : Nat) : (s.setBit off i).pins = s.pins := rfl
@[simp] theorem setBit_boot (s : State) (off i : Nat) : (s.setBit off i).boot = s.boot := rfl
@[simp] theorem setBit_power (s : State) (off i : Nat) : (s.setBit off i).power = s.power := rfl
@[simp] theorem setBit_trust (s : State) (off i : Nat) : (s.setBit off i).trust = s.trust := rfl
@[simp] theorem setBit_cnt (s : State) (off i : Nat) : (s.setBit off i).cnt = s.cnt := rfl
@[simp] theorem setBit_outbox (s : State) (off i : Nat) : (s.setBit off i).outbox = s.outbox := rfl
@[simp] theorem setBit_time (s : State) (off i : Nat) : (s.setBit off i).time = s.time := rfl
@[simp] theorem setBit_churns (s : State) (off i : Nat) : (s.setBit off i).churns = s.churns := rfl
@[simp] theorem setBit_idleChurns (s : State) (off i : Nat) : (s.setBit off i).idleChurns = s.idleChurns := rfl
@[simp] theorem setBit_lastCommit (s : State) (off i : Nat) : (s.setBit off i).lastCommit = s.lastCommit := rfl
@[simp] theorem setBit_lastCkpt (s : State) (off i : Nat) : (s.setBit off i).lastCkpt = s.lastCkpt := rfl
@[simp] theorem setBit_dumpDue (s : State) (off i : Nat) : (s.setBit off i).dumpDue = s.dumpDue := rfl
@[simp] theorem setBit_dumps (s : State) (off i : Nat) : (s.setBit off i).dumps = s.dumps := rfl
@[simp] theorem setBit_dumpGone (s : State) (off i : Nat) : (s.setBit off i).dumpGone = s.dumpGone := rfl
@[simp] theorem setBit_failover (s : State) (off i : Nat) : (s.setBit off i).failover = s.failover := rfl
@[simp] theorem setBit_failed (s : State) (off i : Nat) : (s.setBit off i).failed = s.failed := rfl
@[simp] theorem setBit_resume (s : State) (off i : Nat) : (s.setBit off i).resume = s.resume := rfl
@[simp] theorem setBit_degCl (s : State) (off i : Nat) : (s.setBit off i).degCl = s.degCl := rfl
@[simp] theorem setBit_rotNext (s : State) (off i : Nat) : (s.setBit off i).rotNext = s.rotNext := rfl
@[simp] theorem setBit_stopped (s : State) (off i : Nat) : (s.setBit off i).stopped = s.stopped := rfl
@[simp] theorem setBit_freeCtr (s : State) (off i : Nat) : (s.setBit off i).freeCtr = s.freeCtr := rfl

@[simp] theorem clearBit_pending (s : State) (off i : Nat) : (s.clearBit off i).pending = s.pending := rfl
@[simp] theorem clearBit_func (s : State) (off i : Nat) : (s.clearBit off i).func = s.func := rfl
@[simp] theorem clearBit_mem (s : State) (off i : Nat) : (s.clearBit off i).mem = s.mem := rfl
@[simp] theorem clearBit_cmem (s : State) (off i : Nat) : (s.clearBit off i).cmem = s.cmem := rfl
@[simp] theorem clearBit_host (s : State) (off i : Nat) : (s.clearBit off i).host = s.host := rfl
@[simp] theorem clearBit_cores (s : State) (off i : Nat) : (s.clearBit off i).cores = s.cores := rfl
@[simp] theorem clearBit_streams (s : State) (off i : Nat) : (s.clearBit off i).streams = s.streams := rfl
@[simp] theorem clearBit_image (s : State) (off i : Nat) : (s.clearBit off i).image = s.image := rfl
@[simp] theorem clearBit_reqs (s : State) (off i : Nat) : (s.clearBit off i).reqs = s.reqs := rfl
@[simp] theorem clearBit_nextReq (s : State) (off i : Nat) : (s.clearBit off i).nextReq = s.nextReq := rfl
@[simp] theorem clearBit_lines (s : State) (off i : Nat) : (s.clearBit off i).lines = s.lines := rfl
@[simp] theorem clearBit_evicts (s : State) (off i : Nat) : (s.clearBit off i).evicts = s.evicts := rfl
@[simp] theorem clearBit_fills (s : State) (off i : Nat) : (s.clearBit off i).fills = s.fills := rfl
@[simp] theorem clearBit_plru (s : State) (off i : Nat) : (s.clearBit off i).plru = s.plru := rfl
@[simp] theorem clearBit_setAcc (s : State) (off i : Nat) : (s.clearBit off i).setAcc = s.setAcc := rfl
@[simp] theorem clearBit_thrash (s : State) (off i : Nat) : (s.clearBit off i).thrash = s.thrash := rfl
@[simp] theorem clearBit_flushes (s : State) (off i : Nat) : (s.clearBit off i).flushes = s.flushes := rfl
@[simp] theorem clearBit_ctls (s : State) (off i : Nat) : (s.clearBit off i).ctls = s.ctls := rfl
@[simp] theorem clearBit_steps (s : State) (off i : Nat) : (s.clearBit off i).steps = s.steps := rfl
@[simp] theorem clearBit_movers (s : State) (off i : Nat) : (s.clearBit off i).movers = s.movers := rfl
@[simp] theorem clearBit_backs (s : State) (off i : Nat) : (s.clearBit off i).backs = s.backs := rfl
@[simp] theorem clearBit_restored (s : State) (off i : Nat) : (s.clearBit off i).restored = s.restored := rfl
@[simp] theorem clearBit_badAgain (s : State) (off i : Nat) : (s.clearBit off i).badAgain = s.badAgain := rfl
@[simp] theorem clearBit_splits (s : State) (off i : Nat) : (s.clearBit off i).splits = s.splits := rfl
@[simp] theorem clearBit_fillQ (s : State) (off i : Nat) : (s.clearBit off i).fillQ = s.fillQ := rfl
@[simp] theorem clearBit_fillAt (s : State) (off i : Nat) : (s.clearBit off i).fillAt = s.fillAt := rfl
@[simp] theorem clearBit_pipes (s : State) (off i : Nat) : (s.clearBit off i).pipes = s.pipes := rfl
@[simp] theorem clearBit_pageIds (s : State) (off i : Nat) : (s.clearBit off i).pageIds = s.pageIds := rfl
@[simp] theorem clearBit_slots (s : State) (off i : Nat) : (s.clearBit off i).slots = s.slots := rfl
@[simp] theorem clearBit_freeNext (s : State) (off i : Nat) : (s.clearBit off i).freeNext = s.freeNext := rfl
@[simp] theorem clearBit_slotNext (s : State) (off i : Nat) : (s.clearBit off i).slotNext = s.slotNext := rfl
@[simp] theorem clearBit_hpages (s : State) (off i : Nat) : (s.clearBit off i).hpages = s.hpages := rfl
@[simp] theorem clearBit_stuck (s : State) (off i : Nat) : (s.clearBit off i).stuck = s.stuck := rfl
@[simp] theorem clearBit_seqs (s : State) (off i : Nat) : (s.clearBit off i).seqs = s.seqs := rfl
@[simp] theorem clearBit_nextOrder (s : State) (off i : Nat) : (s.clearBit off i).nextOrder = s.nextOrder := rfl
@[simp] theorem clearBit_prefixes (s : State) (off i : Nat) : (s.clearBit off i).prefixes = s.prefixes := rfl
@[simp] theorem clearBit_waves (s : State) (off i : Nat) : (s.clearBit off i).waves = s.waves := rfl
@[simp] theorem clearBit_lastWave (s : State) (off i : Nat) : (s.clearBit off i).lastWave = s.lastWave := rfl
@[simp] theorem clearBit_periods (s : State) (off i : Nat) : (s.clearBit off i).periods = s.periods := rfl
@[simp] theorem clearBit_measure (s : State) (off i : Nat) : (s.clearBit off i).measure = s.measure := rfl
@[simp] theorem clearBit_inserted (s : State) (off i : Nat) : (s.clearBit off i).inserted = s.inserted := rfl
@[simp] theorem clearBit_regen (s : State) (off i : Nat) : (s.clearBit off i).regen = s.regen := rfl
@[simp] theorem clearBit_regenPos (s : State) (off i : Nat) : (s.clearBit off i).regenPos = s.regenPos := rfl
@[simp] theorem clearBit_regenBad (s : State) (off i : Nat) : (s.clearBit off i).regenBad = s.regenBad := rfl
@[simp] theorem clearBit_waveCtl (s : State) (off i : Nat) : (s.clearBit off i).waveCtl = s.waveCtl := rfl
@[simp] theorem clearBit_log (s : State) (off i : Nat) : (s.clearBit off i).log = s.log := rfl
@[simp] theorem clearBit_rings (s : State) (off i : Nat) : (s.clearBit off i).rings = s.rings := rfl
@[simp] theorem clearBit_compQ (s : State) (off i : Nat) : (s.clearBit off i).compQ = s.compQ := rfl
@[simp] theorem clearBit_compSent (s : State) (off i : Nat) : (s.clearBit off i).compSent = s.compSent := rfl
@[simp] theorem clearBit_evHeld (s : State) (off i : Nat) : (s.clearBit off i).evHeld = s.evHeld := rfl
@[simp] theorem clearBit_evSent (s : State) (off i : Nat) : (s.clearBit off i).evSent = s.evSent := rfl
@[simp] theorem clearBit_evLog (s : State) (off i : Nat) : (s.clearBit off i).evLog = s.evLog := rfl
@[simp] theorem clearBit_outQ (s : State) (off i : Nat) : (s.clearBit off i).outQ = s.outQ := rfl
@[simp] theorem clearBit_outSent (s : State) (off i : Nat) : (s.clearBit off i).outSent = s.outSent := rfl
@[simp] theorem clearBit_nextTag (s : State) (off i : Nat) : (s.clearBit off i).nextTag = s.nextTag := rfl
@[simp] theorem clearBit_quads (s : State) (off i : Nat) : (s.clearBit off i).quads = s.quads := rfl
@[simp] theorem clearBit_rotor (s : State) (off i : Nat) : (s.clearBit off i).rotor = s.rotor := rfl
@[simp] theorem clearBit_peerRx (s : State) (off i : Nat) : (s.clearBit off i).peerRx = s.peerRx := rfl
@[simp] theorem clearBit_netChurn (s : State) (off i : Nat) : (s.clearBit off i).netChurn = s.netChurn := rfl
@[simp] theorem clearBit_parFail (s : State) (off i : Nat) : (s.clearBit off i).parFail = s.parFail := rfl
@[simp] theorem clearBit_edgesDown (s : State) (off i : Nat) : (s.clearBit off i).edgesDown = s.edgesDown := rfl
@[simp] theorem clearBit_grain (s : State) (off i : Nat) : (s.clearBit off i).grain = s.grain := rfl
@[simp] theorem clearBit_flash (s : State) (off i : Nat) : (s.clearBit off i).flash = s.flash := rfl
@[simp] theorem clearBit_pins (s : State) (off i : Nat) : (s.clearBit off i).pins = s.pins := rfl
@[simp] theorem clearBit_boot (s : State) (off i : Nat) : (s.clearBit off i).boot = s.boot := rfl
@[simp] theorem clearBit_power (s : State) (off i : Nat) : (s.clearBit off i).power = s.power := rfl
@[simp] theorem clearBit_trust (s : State) (off i : Nat) : (s.clearBit off i).trust = s.trust := rfl
@[simp] theorem clearBit_cnt (s : State) (off i : Nat) : (s.clearBit off i).cnt = s.cnt := rfl
@[simp] theorem clearBit_outbox (s : State) (off i : Nat) : (s.clearBit off i).outbox = s.outbox := rfl
@[simp] theorem clearBit_time (s : State) (off i : Nat) : (s.clearBit off i).time = s.time := rfl
@[simp] theorem clearBit_churns (s : State) (off i : Nat) : (s.clearBit off i).churns = s.churns := rfl
@[simp] theorem clearBit_idleChurns (s : State) (off i : Nat) : (s.clearBit off i).idleChurns = s.idleChurns := rfl
@[simp] theorem clearBit_lastCommit (s : State) (off i : Nat) : (s.clearBit off i).lastCommit = s.lastCommit := rfl
@[simp] theorem clearBit_lastCkpt (s : State) (off i : Nat) : (s.clearBit off i).lastCkpt = s.lastCkpt := rfl
@[simp] theorem clearBit_dumpDue (s : State) (off i : Nat) : (s.clearBit off i).dumpDue = s.dumpDue := rfl
@[simp] theorem clearBit_dumps (s : State) (off i : Nat) : (s.clearBit off i).dumps = s.dumps := rfl
@[simp] theorem clearBit_dumpGone (s : State) (off i : Nat) : (s.clearBit off i).dumpGone = s.dumpGone := rfl
@[simp] theorem clearBit_failover (s : State) (off i : Nat) : (s.clearBit off i).failover = s.failover := rfl
@[simp] theorem clearBit_failed (s : State) (off i : Nat) : (s.clearBit off i).failed = s.failed := rfl
@[simp] theorem clearBit_resume (s : State) (off i : Nat) : (s.clearBit off i).resume = s.resume := rfl
@[simp] theorem clearBit_degCl (s : State) (off i : Nat) : (s.clearBit off i).degCl = s.degCl := rfl
@[simp] theorem clearBit_rotNext (s : State) (off i : Nat) : (s.clearBit off i).rotNext = s.rotNext := rfl
@[simp] theorem clearBit_stopped (s : State) (off i : Nat) : (s.clearBit off i).stopped = s.stopped := rfl
@[simp] theorem clearBit_freeCtr (s : State) (off i : Nat) : (s.clearBit off i).freeCtr = s.freeCtr := rfl

@[simp] theorem putBit_pending (s : State) (off i : Nat) (b : Bool) : (s.putBit off i b).pending = s.pending := rfl
@[simp] theorem putBit_func (s : State) (off i : Nat) (b : Bool) : (s.putBit off i b).func = s.func := rfl
@[simp] theorem putBit_mem (s : State) (off i : Nat) (b : Bool) : (s.putBit off i b).mem = s.mem := rfl
@[simp] theorem putBit_cmem (s : State) (off i : Nat) (b : Bool) : (s.putBit off i b).cmem = s.cmem := rfl
@[simp] theorem putBit_host (s : State) (off i : Nat) (b : Bool) : (s.putBit off i b).host = s.host := rfl
@[simp] theorem putBit_cores (s : State) (off i : Nat) (b : Bool) : (s.putBit off i b).cores = s.cores := rfl
@[simp] theorem putBit_streams (s : State) (off i : Nat) (b : Bool) : (s.putBit off i b).streams = s.streams := rfl
@[simp] theorem putBit_image (s : State) (off i : Nat) (b : Bool) : (s.putBit off i b).image = s.image := rfl
@[simp] theorem putBit_reqs (s : State) (off i : Nat) (b : Bool) : (s.putBit off i b).reqs = s.reqs := rfl
@[simp] theorem putBit_nextReq (s : State) (off i : Nat) (b : Bool) : (s.putBit off i b).nextReq = s.nextReq := rfl
@[simp] theorem putBit_lines (s : State) (off i : Nat) (b : Bool) : (s.putBit off i b).lines = s.lines := rfl
@[simp] theorem putBit_evicts (s : State) (off i : Nat) (b : Bool) : (s.putBit off i b).evicts = s.evicts := rfl
@[simp] theorem putBit_fills (s : State) (off i : Nat) (b : Bool) : (s.putBit off i b).fills = s.fills := rfl
@[simp] theorem putBit_plru (s : State) (off i : Nat) (b : Bool) : (s.putBit off i b).plru = s.plru := rfl
@[simp] theorem putBit_setAcc (s : State) (off i : Nat) (b : Bool) : (s.putBit off i b).setAcc = s.setAcc := rfl
@[simp] theorem putBit_thrash (s : State) (off i : Nat) (b : Bool) : (s.putBit off i b).thrash = s.thrash := rfl
@[simp] theorem putBit_flushes (s : State) (off i : Nat) (b : Bool) : (s.putBit off i b).flushes = s.flushes := rfl
@[simp] theorem putBit_ctls (s : State) (off i : Nat) (b : Bool) : (s.putBit off i b).ctls = s.ctls := rfl
@[simp] theorem putBit_steps (s : State) (off i : Nat) (b : Bool) : (s.putBit off i b).steps = s.steps := rfl
@[simp] theorem putBit_movers (s : State) (off i : Nat) (b : Bool) : (s.putBit off i b).movers = s.movers := rfl
@[simp] theorem putBit_backs (s : State) (off i : Nat) (b : Bool) : (s.putBit off i b).backs = s.backs := rfl
@[simp] theorem putBit_restored (s : State) (off i : Nat) (b : Bool) : (s.putBit off i b).restored = s.restored := rfl
@[simp] theorem putBit_badAgain (s : State) (off i : Nat) (b : Bool) : (s.putBit off i b).badAgain = s.badAgain := rfl
@[simp] theorem putBit_splits (s : State) (off i : Nat) (b : Bool) : (s.putBit off i b).splits = s.splits := rfl
@[simp] theorem putBit_fillQ (s : State) (off i : Nat) (b : Bool) : (s.putBit off i b).fillQ = s.fillQ := rfl
@[simp] theorem putBit_fillAt (s : State) (off i : Nat) (b : Bool) : (s.putBit off i b).fillAt = s.fillAt := rfl
@[simp] theorem putBit_pipes (s : State) (off i : Nat) (b : Bool) : (s.putBit off i b).pipes = s.pipes := rfl
@[simp] theorem putBit_pageIds (s : State) (off i : Nat) (b : Bool) : (s.putBit off i b).pageIds = s.pageIds := rfl
@[simp] theorem putBit_slots (s : State) (off i : Nat) (b : Bool) : (s.putBit off i b).slots = s.slots := rfl
@[simp] theorem putBit_freeNext (s : State) (off i : Nat) (b : Bool) : (s.putBit off i b).freeNext = s.freeNext := rfl
@[simp] theorem putBit_slotNext (s : State) (off i : Nat) (b : Bool) : (s.putBit off i b).slotNext = s.slotNext := rfl
@[simp] theorem putBit_hpages (s : State) (off i : Nat) (b : Bool) : (s.putBit off i b).hpages = s.hpages := rfl
@[simp] theorem putBit_stuck (s : State) (off i : Nat) (b : Bool) : (s.putBit off i b).stuck = s.stuck := rfl
@[simp] theorem putBit_seqs (s : State) (off i : Nat) (b : Bool) : (s.putBit off i b).seqs = s.seqs := rfl
@[simp] theorem putBit_nextOrder (s : State) (off i : Nat) (b : Bool) : (s.putBit off i b).nextOrder = s.nextOrder := rfl
@[simp] theorem putBit_prefixes (s : State) (off i : Nat) (b : Bool) : (s.putBit off i b).prefixes = s.prefixes := rfl
@[simp] theorem putBit_waves (s : State) (off i : Nat) (b : Bool) : (s.putBit off i b).waves = s.waves := rfl
@[simp] theorem putBit_lastWave (s : State) (off i : Nat) (b : Bool) : (s.putBit off i b).lastWave = s.lastWave := rfl
@[simp] theorem putBit_periods (s : State) (off i : Nat) (b : Bool) : (s.putBit off i b).periods = s.periods := rfl
@[simp] theorem putBit_measure (s : State) (off i : Nat) (b : Bool) : (s.putBit off i b).measure = s.measure := rfl
@[simp] theorem putBit_inserted (s : State) (off i : Nat) (b : Bool) : (s.putBit off i b).inserted = s.inserted := rfl
@[simp] theorem putBit_regen (s : State) (off i : Nat) (b : Bool) : (s.putBit off i b).regen = s.regen := rfl
@[simp] theorem putBit_regenPos (s : State) (off i : Nat) (b : Bool) : (s.putBit off i b).regenPos = s.regenPos := rfl
@[simp] theorem putBit_regenBad (s : State) (off i : Nat) (b : Bool) : (s.putBit off i b).regenBad = s.regenBad := rfl
@[simp] theorem putBit_waveCtl (s : State) (off i : Nat) (b : Bool) : (s.putBit off i b).waveCtl = s.waveCtl := rfl
@[simp] theorem putBit_log (s : State) (off i : Nat) (b : Bool) : (s.putBit off i b).log = s.log := rfl
@[simp] theorem putBit_rings (s : State) (off i : Nat) (b : Bool) : (s.putBit off i b).rings = s.rings := rfl
@[simp] theorem putBit_compQ (s : State) (off i : Nat) (b : Bool) : (s.putBit off i b).compQ = s.compQ := rfl
@[simp] theorem putBit_compSent (s : State) (off i : Nat) (b : Bool) : (s.putBit off i b).compSent = s.compSent := rfl
@[simp] theorem putBit_evHeld (s : State) (off i : Nat) (b : Bool) : (s.putBit off i b).evHeld = s.evHeld := rfl
@[simp] theorem putBit_evSent (s : State) (off i : Nat) (b : Bool) : (s.putBit off i b).evSent = s.evSent := rfl
@[simp] theorem putBit_evLog (s : State) (off i : Nat) (b : Bool) : (s.putBit off i b).evLog = s.evLog := rfl
@[simp] theorem putBit_outQ (s : State) (off i : Nat) (b : Bool) : (s.putBit off i b).outQ = s.outQ := rfl
@[simp] theorem putBit_outSent (s : State) (off i : Nat) (b : Bool) : (s.putBit off i b).outSent = s.outSent := rfl
@[simp] theorem putBit_nextTag (s : State) (off i : Nat) (b : Bool) : (s.putBit off i b).nextTag = s.nextTag := rfl
@[simp] theorem putBit_quads (s : State) (off i : Nat) (b : Bool) : (s.putBit off i b).quads = s.quads := rfl
@[simp] theorem putBit_rotor (s : State) (off i : Nat) (b : Bool) : (s.putBit off i b).rotor = s.rotor := rfl
@[simp] theorem putBit_peerRx (s : State) (off i : Nat) (b : Bool) : (s.putBit off i b).peerRx = s.peerRx := rfl
@[simp] theorem putBit_netChurn (s : State) (off i : Nat) (b : Bool) : (s.putBit off i b).netChurn = s.netChurn := rfl
@[simp] theorem putBit_parFail (s : State) (off i : Nat) (b : Bool) : (s.putBit off i b).parFail = s.parFail := rfl
@[simp] theorem putBit_edgesDown (s : State) (off i : Nat) (b : Bool) : (s.putBit off i b).edgesDown = s.edgesDown := rfl
@[simp] theorem putBit_grain (s : State) (off i : Nat) (b : Bool) : (s.putBit off i b).grain = s.grain := rfl
@[simp] theorem putBit_flash (s : State) (off i : Nat) (b : Bool) : (s.putBit off i b).flash = s.flash := rfl
@[simp] theorem putBit_pins (s : State) (off i : Nat) (b : Bool) : (s.putBit off i b).pins = s.pins := rfl
@[simp] theorem putBit_boot (s : State) (off i : Nat) (b : Bool) : (s.putBit off i b).boot = s.boot := rfl
@[simp] theorem putBit_power (s : State) (off i : Nat) (b : Bool) : (s.putBit off i b).power = s.power := rfl
@[simp] theorem putBit_trust (s : State) (off i : Nat) (b : Bool) : (s.putBit off i b).trust = s.trust := rfl
@[simp] theorem putBit_cnt (s : State) (off i : Nat) (b : Bool) : (s.putBit off i b).cnt = s.cnt := rfl
@[simp] theorem putBit_outbox (s : State) (off i : Nat) (b : Bool) : (s.putBit off i b).outbox = s.outbox := rfl
@[simp] theorem putBit_time (s : State) (off i : Nat) (b : Bool) : (s.putBit off i b).time = s.time := rfl
@[simp] theorem putBit_churns (s : State) (off i : Nat) (b : Bool) : (s.putBit off i b).churns = s.churns := rfl
@[simp] theorem putBit_idleChurns (s : State) (off i : Nat) (b : Bool) : (s.putBit off i b).idleChurns = s.idleChurns := rfl
@[simp] theorem putBit_lastCommit (s : State) (off i : Nat) (b : Bool) : (s.putBit off i b).lastCommit = s.lastCommit := rfl
@[simp] theorem putBit_lastCkpt (s : State) (off i : Nat) (b : Bool) : (s.putBit off i b).lastCkpt = s.lastCkpt := rfl
@[simp] theorem putBit_dumpDue (s : State) (off i : Nat) (b : Bool) : (s.putBit off i b).dumpDue = s.dumpDue := rfl
@[simp] theorem putBit_dumps (s : State) (off i : Nat) (b : Bool) : (s.putBit off i b).dumps = s.dumps := rfl
@[simp] theorem putBit_dumpGone (s : State) (off i : Nat) (b : Bool) : (s.putBit off i b).dumpGone = s.dumpGone := rfl
@[simp] theorem putBit_failover (s : State) (off i : Nat) (b : Bool) : (s.putBit off i b).failover = s.failover := rfl
@[simp] theorem putBit_failed (s : State) (off i : Nat) (b : Bool) : (s.putBit off i b).failed = s.failed := rfl
@[simp] theorem putBit_resume (s : State) (off i : Nat) (b : Bool) : (s.putBit off i b).resume = s.resume := rfl
@[simp] theorem putBit_degCl (s : State) (off i : Nat) (b : Bool) : (s.putBit off i b).degCl = s.degCl := rfl
@[simp] theorem putBit_rotNext (s : State) (off i : Nat) (b : Bool) : (s.putBit off i b).rotNext = s.rotNext := rfl
@[simp] theorem putBit_stopped (s : State) (off i : Nat) (b : Bool) : (s.putBit off i b).stopped = s.stopped := rfl
@[simp] theorem putBit_freeCtr (s : State) (off i : Nat) (b : Bool) : (s.putBit off i b).freeCtr = s.freeCtr := rfl

@[simp] theorem setCore_pending (s : State) (n : Nat) (k : Core) : (s.setCore n k).pending = s.pending := rfl
@[simp] theorem setCore_func (s : State) (n : Nat) (k : Core) : (s.setCore n k).func = s.func := rfl
@[simp] theorem setCore_regs (s : State) (n : Nat) (k : Core) : (s.setCore n k).regs = s.regs := rfl
@[simp] theorem setCore_mem (s : State) (n : Nat) (k : Core) : (s.setCore n k).mem = s.mem := rfl
@[simp] theorem setCore_cmem (s : State) (n : Nat) (k : Core) : (s.setCore n k).cmem = s.cmem := rfl
@[simp] theorem setCore_host (s : State) (n : Nat) (k : Core) : (s.setCore n k).host = s.host := rfl
@[simp] theorem setCore_streams (s : State) (n : Nat) (k : Core) : (s.setCore n k).streams = s.streams := rfl
@[simp] theorem setCore_image (s : State) (n : Nat) (k : Core) : (s.setCore n k).image = s.image := rfl
@[simp] theorem setCore_reqs (s : State) (n : Nat) (k : Core) : (s.setCore n k).reqs = s.reqs := rfl
@[simp] theorem setCore_nextReq (s : State) (n : Nat) (k : Core) : (s.setCore n k).nextReq = s.nextReq := rfl
@[simp] theorem setCore_lines (s : State) (n : Nat) (k : Core) : (s.setCore n k).lines = s.lines := rfl
@[simp] theorem setCore_evicts (s : State) (n : Nat) (k : Core) : (s.setCore n k).evicts = s.evicts := rfl
@[simp] theorem setCore_fills (s : State) (n : Nat) (k : Core) : (s.setCore n k).fills = s.fills := rfl
@[simp] theorem setCore_plru (s : State) (n : Nat) (k : Core) : (s.setCore n k).plru = s.plru := rfl
@[simp] theorem setCore_setAcc (s : State) (n : Nat) (k : Core) : (s.setCore n k).setAcc = s.setAcc := rfl
@[simp] theorem setCore_thrash (s : State) (n : Nat) (k : Core) : (s.setCore n k).thrash = s.thrash := rfl
@[simp] theorem setCore_flushes (s : State) (n : Nat) (k : Core) : (s.setCore n k).flushes = s.flushes := rfl
@[simp] theorem setCore_ctls (s : State) (n : Nat) (k : Core) : (s.setCore n k).ctls = s.ctls := rfl
@[simp] theorem setCore_steps (s : State) (n : Nat) (k : Core) : (s.setCore n k).steps = s.steps := rfl
@[simp] theorem setCore_movers (s : State) (n : Nat) (k : Core) : (s.setCore n k).movers = s.movers := rfl
@[simp] theorem setCore_backs (s : State) (n : Nat) (k : Core) : (s.setCore n k).backs = s.backs := rfl
@[simp] theorem setCore_restored (s : State) (n : Nat) (k : Core) : (s.setCore n k).restored = s.restored := rfl
@[simp] theorem setCore_badAgain (s : State) (n : Nat) (k : Core) : (s.setCore n k).badAgain = s.badAgain := rfl
@[simp] theorem setCore_splits (s : State) (n : Nat) (k : Core) : (s.setCore n k).splits = s.splits := rfl
@[simp] theorem setCore_fillQ (s : State) (n : Nat) (k : Core) : (s.setCore n k).fillQ = s.fillQ := rfl
@[simp] theorem setCore_fillAt (s : State) (n : Nat) (k : Core) : (s.setCore n k).fillAt = s.fillAt := rfl
@[simp] theorem setCore_pipes (s : State) (n : Nat) (k : Core) : (s.setCore n k).pipes = s.pipes := rfl
@[simp] theorem setCore_pageIds (s : State) (n : Nat) (k : Core) : (s.setCore n k).pageIds = s.pageIds := rfl
@[simp] theorem setCore_slots (s : State) (n : Nat) (k : Core) : (s.setCore n k).slots = s.slots := rfl
@[simp] theorem setCore_freeNext (s : State) (n : Nat) (k : Core) : (s.setCore n k).freeNext = s.freeNext := rfl
@[simp] theorem setCore_slotNext (s : State) (n : Nat) (k : Core) : (s.setCore n k).slotNext = s.slotNext := rfl
@[simp] theorem setCore_hpages (s : State) (n : Nat) (k : Core) : (s.setCore n k).hpages = s.hpages := rfl
@[simp] theorem setCore_stuck (s : State) (n : Nat) (k : Core) : (s.setCore n k).stuck = s.stuck := rfl
@[simp] theorem setCore_seqs (s : State) (n : Nat) (k : Core) : (s.setCore n k).seqs = s.seqs := rfl
@[simp] theorem setCore_nextOrder (s : State) (n : Nat) (k : Core) : (s.setCore n k).nextOrder = s.nextOrder := rfl
@[simp] theorem setCore_prefixes (s : State) (n : Nat) (k : Core) : (s.setCore n k).prefixes = s.prefixes := rfl
@[simp] theorem setCore_waves (s : State) (n : Nat) (k : Core) : (s.setCore n k).waves = s.waves := rfl
@[simp] theorem setCore_lastWave (s : State) (n : Nat) (k : Core) : (s.setCore n k).lastWave = s.lastWave := rfl
@[simp] theorem setCore_periods (s : State) (n : Nat) (k : Core) : (s.setCore n k).periods = s.periods := rfl
@[simp] theorem setCore_measure (s : State) (n : Nat) (k : Core) : (s.setCore n k).measure = s.measure := rfl
@[simp] theorem setCore_inserted (s : State) (n : Nat) (k : Core) : (s.setCore n k).inserted = s.inserted := rfl
@[simp] theorem setCore_regen (s : State) (n : Nat) (k : Core) : (s.setCore n k).regen = s.regen := rfl
@[simp] theorem setCore_regenPos (s : State) (n : Nat) (k : Core) : (s.setCore n k).regenPos = s.regenPos := rfl
@[simp] theorem setCore_regenBad (s : State) (n : Nat) (k : Core) : (s.setCore n k).regenBad = s.regenBad := rfl
@[simp] theorem setCore_waveCtl (s : State) (n : Nat) (k : Core) : (s.setCore n k).waveCtl = s.waveCtl := rfl
@[simp] theorem setCore_log (s : State) (n : Nat) (k : Core) : (s.setCore n k).log = s.log := rfl
@[simp] theorem setCore_rings (s : State) (n : Nat) (k : Core) : (s.setCore n k).rings = s.rings := rfl
@[simp] theorem setCore_compQ (s : State) (n : Nat) (k : Core) : (s.setCore n k).compQ = s.compQ := rfl
@[simp] theorem setCore_compSent (s : State) (n : Nat) (k : Core) : (s.setCore n k).compSent = s.compSent := rfl
@[simp] theorem setCore_evHeld (s : State) (n : Nat) (k : Core) : (s.setCore n k).evHeld = s.evHeld := rfl
@[simp] theorem setCore_evSent (s : State) (n : Nat) (k : Core) : (s.setCore n k).evSent = s.evSent := rfl
@[simp] theorem setCore_evLog (s : State) (n : Nat) (k : Core) : (s.setCore n k).evLog = s.evLog := rfl
@[simp] theorem setCore_outQ (s : State) (n : Nat) (k : Core) : (s.setCore n k).outQ = s.outQ := rfl
@[simp] theorem setCore_outSent (s : State) (n : Nat) (k : Core) : (s.setCore n k).outSent = s.outSent := rfl
@[simp] theorem setCore_nextTag (s : State) (n : Nat) (k : Core) : (s.setCore n k).nextTag = s.nextTag := rfl
@[simp] theorem setCore_quads (s : State) (n : Nat) (k : Core) : (s.setCore n k).quads = s.quads := rfl
@[simp] theorem setCore_rotor (s : State) (n : Nat) (k : Core) : (s.setCore n k).rotor = s.rotor := rfl
@[simp] theorem setCore_peerRx (s : State) (n : Nat) (k : Core) : (s.setCore n k).peerRx = s.peerRx := rfl
@[simp] theorem setCore_netChurn (s : State) (n : Nat) (k : Core) : (s.setCore n k).netChurn = s.netChurn := rfl
@[simp] theorem setCore_parFail (s : State) (n : Nat) (k : Core) : (s.setCore n k).parFail = s.parFail := rfl
@[simp] theorem setCore_edgesDown (s : State) (n : Nat) (k : Core) : (s.setCore n k).edgesDown = s.edgesDown := rfl
@[simp] theorem setCore_grain (s : State) (n : Nat) (k : Core) : (s.setCore n k).grain = s.grain := rfl
@[simp] theorem setCore_flash (s : State) (n : Nat) (k : Core) : (s.setCore n k).flash = s.flash := rfl
@[simp] theorem setCore_pins (s : State) (n : Nat) (k : Core) : (s.setCore n k).pins = s.pins := rfl
@[simp] theorem setCore_boot (s : State) (n : Nat) (k : Core) : (s.setCore n k).boot = s.boot := rfl
@[simp] theorem setCore_power (s : State) (n : Nat) (k : Core) : (s.setCore n k).power = s.power := rfl
@[simp] theorem setCore_trust (s : State) (n : Nat) (k : Core) : (s.setCore n k).trust = s.trust := rfl
@[simp] theorem setCore_cnt (s : State) (n : Nat) (k : Core) : (s.setCore n k).cnt = s.cnt := rfl
@[simp] theorem setCore_outbox (s : State) (n : Nat) (k : Core) : (s.setCore n k).outbox = s.outbox := rfl
@[simp] theorem setCore_time (s : State) (n : Nat) (k : Core) : (s.setCore n k).time = s.time := rfl
@[simp] theorem setCore_churns (s : State) (n : Nat) (k : Core) : (s.setCore n k).churns = s.churns := rfl
@[simp] theorem setCore_idleChurns (s : State) (n : Nat) (k : Core) : (s.setCore n k).idleChurns = s.idleChurns := rfl
@[simp] theorem setCore_lastCommit (s : State) (n : Nat) (k : Core) : (s.setCore n k).lastCommit = s.lastCommit := rfl
@[simp] theorem setCore_lastCkpt (s : State) (n : Nat) (k : Core) : (s.setCore n k).lastCkpt = s.lastCkpt := rfl
@[simp] theorem setCore_dumpDue (s : State) (n : Nat) (k : Core) : (s.setCore n k).dumpDue = s.dumpDue := rfl
@[simp] theorem setCore_dumps (s : State) (n : Nat) (k : Core) : (s.setCore n k).dumps = s.dumps := rfl
@[simp] theorem setCore_dumpGone (s : State) (n : Nat) (k : Core) : (s.setCore n k).dumpGone = s.dumpGone := rfl
@[simp] theorem setCore_failover (s : State) (n : Nat) (k : Core) : (s.setCore n k).failover = s.failover := rfl
@[simp] theorem setCore_failed (s : State) (n : Nat) (k : Core) : (s.setCore n k).failed = s.failed := rfl
@[simp] theorem setCore_resume (s : State) (n : Nat) (k : Core) : (s.setCore n k).resume = s.resume := rfl
@[simp] theorem setCore_degCl (s : State) (n : Nat) (k : Core) : (s.setCore n k).degCl = s.degCl := rfl
@[simp] theorem setCore_rotNext (s : State) (n : Nat) (k : Core) : (s.setCore n k).rotNext = s.rotNext := rfl
@[simp] theorem setCore_stopped (s : State) (n : Nat) (k : Core) : (s.setCore n k).stopped = s.stopped := rfl
@[simp] theorem setCore_freeCtr (s : State) (n : Nat) (k : Core) : (s.setCore n k).freeCtr = s.freeCtr := rfl

@[simp] theorem setCtx_pending (s : State) (n : Nat) (c : Ctx) (x : Context) : (s.setCtx n c x).pending = s.pending := rfl
@[simp] theorem setCtx_func (s : State) (n : Nat) (c : Ctx) (x : Context) : (s.setCtx n c x).func = s.func := rfl
@[simp] theorem setCtx_regs (s : State) (n : Nat) (c : Ctx) (x : Context) : (s.setCtx n c x).regs = s.regs := rfl
@[simp] theorem setCtx_mem (s : State) (n : Nat) (c : Ctx) (x : Context) : (s.setCtx n c x).mem = s.mem := rfl
@[simp] theorem setCtx_cmem (s : State) (n : Nat) (c : Ctx) (x : Context) : (s.setCtx n c x).cmem = s.cmem := rfl
@[simp] theorem setCtx_host (s : State) (n : Nat) (c : Ctx) (x : Context) : (s.setCtx n c x).host = s.host := rfl
@[simp] theorem setCtx_streams (s : State) (n : Nat) (c : Ctx) (x : Context) : (s.setCtx n c x).streams = s.streams := rfl
@[simp] theorem setCtx_image (s : State) (n : Nat) (c : Ctx) (x : Context) : (s.setCtx n c x).image = s.image := rfl
@[simp] theorem setCtx_reqs (s : State) (n : Nat) (c : Ctx) (x : Context) : (s.setCtx n c x).reqs = s.reqs := rfl
@[simp] theorem setCtx_nextReq (s : State) (n : Nat) (c : Ctx) (x : Context) : (s.setCtx n c x).nextReq = s.nextReq := rfl
@[simp] theorem setCtx_lines (s : State) (n : Nat) (c : Ctx) (x : Context) : (s.setCtx n c x).lines = s.lines := rfl
@[simp] theorem setCtx_evicts (s : State) (n : Nat) (c : Ctx) (x : Context) : (s.setCtx n c x).evicts = s.evicts := rfl
@[simp] theorem setCtx_fills (s : State) (n : Nat) (c : Ctx) (x : Context) : (s.setCtx n c x).fills = s.fills := rfl
@[simp] theorem setCtx_plru (s : State) (n : Nat) (c : Ctx) (x : Context) : (s.setCtx n c x).plru = s.plru := rfl
@[simp] theorem setCtx_setAcc (s : State) (n : Nat) (c : Ctx) (x : Context) : (s.setCtx n c x).setAcc = s.setAcc := rfl
@[simp] theorem setCtx_thrash (s : State) (n : Nat) (c : Ctx) (x : Context) : (s.setCtx n c x).thrash = s.thrash := rfl
@[simp] theorem setCtx_flushes (s : State) (n : Nat) (c : Ctx) (x : Context) : (s.setCtx n c x).flushes = s.flushes := rfl
@[simp] theorem setCtx_ctls (s : State) (n : Nat) (c : Ctx) (x : Context) : (s.setCtx n c x).ctls = s.ctls := rfl
@[simp] theorem setCtx_steps (s : State) (n : Nat) (c : Ctx) (x : Context) : (s.setCtx n c x).steps = s.steps := rfl
@[simp] theorem setCtx_movers (s : State) (n : Nat) (c : Ctx) (x : Context) : (s.setCtx n c x).movers = s.movers := rfl
@[simp] theorem setCtx_backs (s : State) (n : Nat) (c : Ctx) (x : Context) : (s.setCtx n c x).backs = s.backs := rfl
@[simp] theorem setCtx_restored (s : State) (n : Nat) (c : Ctx) (x : Context) : (s.setCtx n c x).restored = s.restored := rfl
@[simp] theorem setCtx_badAgain (s : State) (n : Nat) (c : Ctx) (x : Context) : (s.setCtx n c x).badAgain = s.badAgain := rfl
@[simp] theorem setCtx_splits (s : State) (n : Nat) (c : Ctx) (x : Context) : (s.setCtx n c x).splits = s.splits := rfl
@[simp] theorem setCtx_fillQ (s : State) (n : Nat) (c : Ctx) (x : Context) : (s.setCtx n c x).fillQ = s.fillQ := rfl
@[simp] theorem setCtx_fillAt (s : State) (n : Nat) (c : Ctx) (x : Context) : (s.setCtx n c x).fillAt = s.fillAt := rfl
@[simp] theorem setCtx_pipes (s : State) (n : Nat) (c : Ctx) (x : Context) : (s.setCtx n c x).pipes = s.pipes := rfl
@[simp] theorem setCtx_pageIds (s : State) (n : Nat) (c : Ctx) (x : Context) : (s.setCtx n c x).pageIds = s.pageIds := rfl
@[simp] theorem setCtx_slots (s : State) (n : Nat) (c : Ctx) (x : Context) : (s.setCtx n c x).slots = s.slots := rfl
@[simp] theorem setCtx_freeNext (s : State) (n : Nat) (c : Ctx) (x : Context) : (s.setCtx n c x).freeNext = s.freeNext := rfl
@[simp] theorem setCtx_slotNext (s : State) (n : Nat) (c : Ctx) (x : Context) : (s.setCtx n c x).slotNext = s.slotNext := rfl
@[simp] theorem setCtx_hpages (s : State) (n : Nat) (c : Ctx) (x : Context) : (s.setCtx n c x).hpages = s.hpages := rfl
@[simp] theorem setCtx_stuck (s : State) (n : Nat) (c : Ctx) (x : Context) : (s.setCtx n c x).stuck = s.stuck := rfl
@[simp] theorem setCtx_seqs (s : State) (n : Nat) (c : Ctx) (x : Context) : (s.setCtx n c x).seqs = s.seqs := rfl
@[simp] theorem setCtx_nextOrder (s : State) (n : Nat) (c : Ctx) (x : Context) : (s.setCtx n c x).nextOrder = s.nextOrder := rfl
@[simp] theorem setCtx_prefixes (s : State) (n : Nat) (c : Ctx) (x : Context) : (s.setCtx n c x).prefixes = s.prefixes := rfl
@[simp] theorem setCtx_waves (s : State) (n : Nat) (c : Ctx) (x : Context) : (s.setCtx n c x).waves = s.waves := rfl
@[simp] theorem setCtx_lastWave (s : State) (n : Nat) (c : Ctx) (x : Context) : (s.setCtx n c x).lastWave = s.lastWave := rfl
@[simp] theorem setCtx_periods (s : State) (n : Nat) (c : Ctx) (x : Context) : (s.setCtx n c x).periods = s.periods := rfl
@[simp] theorem setCtx_measure (s : State) (n : Nat) (c : Ctx) (x : Context) : (s.setCtx n c x).measure = s.measure := rfl
@[simp] theorem setCtx_inserted (s : State) (n : Nat) (c : Ctx) (x : Context) : (s.setCtx n c x).inserted = s.inserted := rfl
@[simp] theorem setCtx_regen (s : State) (n : Nat) (c : Ctx) (x : Context) : (s.setCtx n c x).regen = s.regen := rfl
@[simp] theorem setCtx_regenPos (s : State) (n : Nat) (c : Ctx) (x : Context) : (s.setCtx n c x).regenPos = s.regenPos := rfl
@[simp] theorem setCtx_regenBad (s : State) (n : Nat) (c : Ctx) (x : Context) : (s.setCtx n c x).regenBad = s.regenBad := rfl
@[simp] theorem setCtx_waveCtl (s : State) (n : Nat) (c : Ctx) (x : Context) : (s.setCtx n c x).waveCtl = s.waveCtl := rfl
@[simp] theorem setCtx_log (s : State) (n : Nat) (c : Ctx) (x : Context) : (s.setCtx n c x).log = s.log := rfl
@[simp] theorem setCtx_rings (s : State) (n : Nat) (c : Ctx) (x : Context) : (s.setCtx n c x).rings = s.rings := rfl
@[simp] theorem setCtx_compQ (s : State) (n : Nat) (c : Ctx) (x : Context) : (s.setCtx n c x).compQ = s.compQ := rfl
@[simp] theorem setCtx_compSent (s : State) (n : Nat) (c : Ctx) (x : Context) : (s.setCtx n c x).compSent = s.compSent := rfl
@[simp] theorem setCtx_evHeld (s : State) (n : Nat) (c : Ctx) (x : Context) : (s.setCtx n c x).evHeld = s.evHeld := rfl
@[simp] theorem setCtx_evSent (s : State) (n : Nat) (c : Ctx) (x : Context) : (s.setCtx n c x).evSent = s.evSent := rfl
@[simp] theorem setCtx_evLog (s : State) (n : Nat) (c : Ctx) (x : Context) : (s.setCtx n c x).evLog = s.evLog := rfl
@[simp] theorem setCtx_outQ (s : State) (n : Nat) (c : Ctx) (x : Context) : (s.setCtx n c x).outQ = s.outQ := rfl
@[simp] theorem setCtx_outSent (s : State) (n : Nat) (c : Ctx) (x : Context) : (s.setCtx n c x).outSent = s.outSent := rfl
@[simp] theorem setCtx_nextTag (s : State) (n : Nat) (c : Ctx) (x : Context) : (s.setCtx n c x).nextTag = s.nextTag := rfl
@[simp] theorem setCtx_quads (s : State) (n : Nat) (c : Ctx) (x : Context) : (s.setCtx n c x).quads = s.quads := rfl
@[simp] theorem setCtx_rotor (s : State) (n : Nat) (c : Ctx) (x : Context) : (s.setCtx n c x).rotor = s.rotor := rfl
@[simp] theorem setCtx_peerRx (s : State) (n : Nat) (c : Ctx) (x : Context) : (s.setCtx n c x).peerRx = s.peerRx := rfl
@[simp] theorem setCtx_netChurn (s : State) (n : Nat) (c : Ctx) (x : Context) : (s.setCtx n c x).netChurn = s.netChurn := rfl
@[simp] theorem setCtx_parFail (s : State) (n : Nat) (c : Ctx) (x : Context) : (s.setCtx n c x).parFail = s.parFail := rfl
@[simp] theorem setCtx_edgesDown (s : State) (n : Nat) (c : Ctx) (x : Context) : (s.setCtx n c x).edgesDown = s.edgesDown := rfl
@[simp] theorem setCtx_grain (s : State) (n : Nat) (c : Ctx) (x : Context) : (s.setCtx n c x).grain = s.grain := rfl
@[simp] theorem setCtx_flash (s : State) (n : Nat) (c : Ctx) (x : Context) : (s.setCtx n c x).flash = s.flash := rfl
@[simp] theorem setCtx_pins (s : State) (n : Nat) (c : Ctx) (x : Context) : (s.setCtx n c x).pins = s.pins := rfl
@[simp] theorem setCtx_boot (s : State) (n : Nat) (c : Ctx) (x : Context) : (s.setCtx n c x).boot = s.boot := rfl
@[simp] theorem setCtx_power (s : State) (n : Nat) (c : Ctx) (x : Context) : (s.setCtx n c x).power = s.power := rfl
@[simp] theorem setCtx_trust (s : State) (n : Nat) (c : Ctx) (x : Context) : (s.setCtx n c x).trust = s.trust := rfl
@[simp] theorem setCtx_cnt (s : State) (n : Nat) (c : Ctx) (x : Context) : (s.setCtx n c x).cnt = s.cnt := rfl
@[simp] theorem setCtx_outbox (s : State) (n : Nat) (c : Ctx) (x : Context) : (s.setCtx n c x).outbox = s.outbox := rfl
@[simp] theorem setCtx_time (s : State) (n : Nat) (c : Ctx) (x : Context) : (s.setCtx n c x).time = s.time := rfl
@[simp] theorem setCtx_churns (s : State) (n : Nat) (c : Ctx) (x : Context) : (s.setCtx n c x).churns = s.churns := rfl
@[simp] theorem setCtx_idleChurns (s : State) (n : Nat) (c : Ctx) (x : Context) : (s.setCtx n c x).idleChurns = s.idleChurns := rfl
@[simp] theorem setCtx_lastCommit (s : State) (n : Nat) (c : Ctx) (x : Context) : (s.setCtx n c x).lastCommit = s.lastCommit := rfl
@[simp] theorem setCtx_lastCkpt (s : State) (n : Nat) (c : Ctx) (x : Context) : (s.setCtx n c x).lastCkpt = s.lastCkpt := rfl
@[simp] theorem setCtx_dumpDue (s : State) (n : Nat) (c : Ctx) (x : Context) : (s.setCtx n c x).dumpDue = s.dumpDue := rfl
@[simp] theorem setCtx_dumps (s : State) (n : Nat) (c : Ctx) (x : Context) : (s.setCtx n c x).dumps = s.dumps := rfl
@[simp] theorem setCtx_dumpGone (s : State) (n : Nat) (c : Ctx) (x : Context) : (s.setCtx n c x).dumpGone = s.dumpGone := rfl
@[simp] theorem setCtx_failover (s : State) (n : Nat) (c : Ctx) (x : Context) : (s.setCtx n c x).failover = s.failover := rfl
@[simp] theorem setCtx_failed (s : State) (n : Nat) (c : Ctx) (x : Context) : (s.setCtx n c x).failed = s.failed := rfl
@[simp] theorem setCtx_resume (s : State) (n : Nat) (c : Ctx) (x : Context) : (s.setCtx n c x).resume = s.resume := rfl
@[simp] theorem setCtx_degCl (s : State) (n : Nat) (c : Ctx) (x : Context) : (s.setCtx n c x).degCl = s.degCl := rfl
@[simp] theorem setCtx_rotNext (s : State) (n : Nat) (c : Ctx) (x : Context) : (s.setCtx n c x).rotNext = s.rotNext := rfl
@[simp] theorem setCtx_stopped (s : State) (n : Nat) (c : Ctx) (x : Context) : (s.setCtx n c x).stopped = s.stopped := rfl
@[simp] theorem setCtx_freeCtr (s : State) (n : Nat) (c : Ctx) (x : Context) : (s.setCtx n c x).freeCtr = s.freeCtr := rfl

@[simp] theorem setRing_pending (s : State) (r : RingId) (v : RingRt) : (s.setRing r v).pending = s.pending := rfl
@[simp] theorem setRing_func (s : State) (r : RingId) (v : RingRt) : (s.setRing r v).func = s.func := rfl
@[simp] theorem setRing_regs (s : State) (r : RingId) (v : RingRt) : (s.setRing r v).regs = s.regs := rfl
@[simp] theorem setRing_mem (s : State) (r : RingId) (v : RingRt) : (s.setRing r v).mem = s.mem := rfl
@[simp] theorem setRing_cmem (s : State) (r : RingId) (v : RingRt) : (s.setRing r v).cmem = s.cmem := rfl
@[simp] theorem setRing_host (s : State) (r : RingId) (v : RingRt) : (s.setRing r v).host = s.host := rfl
@[simp] theorem setRing_cores (s : State) (r : RingId) (v : RingRt) : (s.setRing r v).cores = s.cores := rfl
@[simp] theorem setRing_streams (s : State) (r : RingId) (v : RingRt) : (s.setRing r v).streams = s.streams := rfl
@[simp] theorem setRing_image (s : State) (r : RingId) (v : RingRt) : (s.setRing r v).image = s.image := rfl
@[simp] theorem setRing_reqs (s : State) (r : RingId) (v : RingRt) : (s.setRing r v).reqs = s.reqs := rfl
@[simp] theorem setRing_nextReq (s : State) (r : RingId) (v : RingRt) : (s.setRing r v).nextReq = s.nextReq := rfl
@[simp] theorem setRing_lines (s : State) (r : RingId) (v : RingRt) : (s.setRing r v).lines = s.lines := rfl
@[simp] theorem setRing_evicts (s : State) (r : RingId) (v : RingRt) : (s.setRing r v).evicts = s.evicts := rfl
@[simp] theorem setRing_fills (s : State) (r : RingId) (v : RingRt) : (s.setRing r v).fills = s.fills := rfl
@[simp] theorem setRing_plru (s : State) (r : RingId) (v : RingRt) : (s.setRing r v).plru = s.plru := rfl
@[simp] theorem setRing_setAcc (s : State) (r : RingId) (v : RingRt) : (s.setRing r v).setAcc = s.setAcc := rfl
@[simp] theorem setRing_thrash (s : State) (r : RingId) (v : RingRt) : (s.setRing r v).thrash = s.thrash := rfl
@[simp] theorem setRing_flushes (s : State) (r : RingId) (v : RingRt) : (s.setRing r v).flushes = s.flushes := rfl
@[simp] theorem setRing_ctls (s : State) (r : RingId) (v : RingRt) : (s.setRing r v).ctls = s.ctls := rfl
@[simp] theorem setRing_steps (s : State) (r : RingId) (v : RingRt) : (s.setRing r v).steps = s.steps := rfl
@[simp] theorem setRing_movers (s : State) (r : RingId) (v : RingRt) : (s.setRing r v).movers = s.movers := rfl
@[simp] theorem setRing_backs (s : State) (r : RingId) (v : RingRt) : (s.setRing r v).backs = s.backs := rfl
@[simp] theorem setRing_restored (s : State) (r : RingId) (v : RingRt) : (s.setRing r v).restored = s.restored := rfl
@[simp] theorem setRing_badAgain (s : State) (r : RingId) (v : RingRt) : (s.setRing r v).badAgain = s.badAgain := rfl
@[simp] theorem setRing_splits (s : State) (r : RingId) (v : RingRt) : (s.setRing r v).splits = s.splits := rfl
@[simp] theorem setRing_fillQ (s : State) (r : RingId) (v : RingRt) : (s.setRing r v).fillQ = s.fillQ := rfl
@[simp] theorem setRing_fillAt (s : State) (r : RingId) (v : RingRt) : (s.setRing r v).fillAt = s.fillAt := rfl
@[simp] theorem setRing_pipes (s : State) (r : RingId) (v : RingRt) : (s.setRing r v).pipes = s.pipes := rfl
@[simp] theorem setRing_pageIds (s : State) (r : RingId) (v : RingRt) : (s.setRing r v).pageIds = s.pageIds := rfl
@[simp] theorem setRing_slots (s : State) (r : RingId) (v : RingRt) : (s.setRing r v).slots = s.slots := rfl
@[simp] theorem setRing_freeNext (s : State) (r : RingId) (v : RingRt) : (s.setRing r v).freeNext = s.freeNext := rfl
@[simp] theorem setRing_slotNext (s : State) (r : RingId) (v : RingRt) : (s.setRing r v).slotNext = s.slotNext := rfl
@[simp] theorem setRing_hpages (s : State) (r : RingId) (v : RingRt) : (s.setRing r v).hpages = s.hpages := rfl
@[simp] theorem setRing_stuck (s : State) (r : RingId) (v : RingRt) : (s.setRing r v).stuck = s.stuck := rfl
@[simp] theorem setRing_seqs (s : State) (r : RingId) (v : RingRt) : (s.setRing r v).seqs = s.seqs := rfl
@[simp] theorem setRing_nextOrder (s : State) (r : RingId) (v : RingRt) : (s.setRing r v).nextOrder = s.nextOrder := rfl
@[simp] theorem setRing_prefixes (s : State) (r : RingId) (v : RingRt) : (s.setRing r v).prefixes = s.prefixes := rfl
@[simp] theorem setRing_waves (s : State) (r : RingId) (v : RingRt) : (s.setRing r v).waves = s.waves := rfl
@[simp] theorem setRing_lastWave (s : State) (r : RingId) (v : RingRt) : (s.setRing r v).lastWave = s.lastWave := rfl
@[simp] theorem setRing_periods (s : State) (r : RingId) (v : RingRt) : (s.setRing r v).periods = s.periods := rfl
@[simp] theorem setRing_measure (s : State) (r : RingId) (v : RingRt) : (s.setRing r v).measure = s.measure := rfl
@[simp] theorem setRing_inserted (s : State) (r : RingId) (v : RingRt) : (s.setRing r v).inserted = s.inserted := rfl
@[simp] theorem setRing_regen (s : State) (r : RingId) (v : RingRt) : (s.setRing r v).regen = s.regen := rfl
@[simp] theorem setRing_regenPos (s : State) (r : RingId) (v : RingRt) : (s.setRing r v).regenPos = s.regenPos := rfl
@[simp] theorem setRing_regenBad (s : State) (r : RingId) (v : RingRt) : (s.setRing r v).regenBad = s.regenBad := rfl
@[simp] theorem setRing_waveCtl (s : State) (r : RingId) (v : RingRt) : (s.setRing r v).waveCtl = s.waveCtl := rfl
@[simp] theorem setRing_log (s : State) (r : RingId) (v : RingRt) : (s.setRing r v).log = s.log := rfl
@[simp] theorem setRing_compQ (s : State) (r : RingId) (v : RingRt) : (s.setRing r v).compQ = s.compQ := rfl
@[simp] theorem setRing_compSent (s : State) (r : RingId) (v : RingRt) : (s.setRing r v).compSent = s.compSent := rfl
@[simp] theorem setRing_evHeld (s : State) (r : RingId) (v : RingRt) : (s.setRing r v).evHeld = s.evHeld := rfl
@[simp] theorem setRing_evSent (s : State) (r : RingId) (v : RingRt) : (s.setRing r v).evSent = s.evSent := rfl
@[simp] theorem setRing_evLog (s : State) (r : RingId) (v : RingRt) : (s.setRing r v).evLog = s.evLog := rfl
@[simp] theorem setRing_outQ (s : State) (r : RingId) (v : RingRt) : (s.setRing r v).outQ = s.outQ := rfl
@[simp] theorem setRing_outSent (s : State) (r : RingId) (v : RingRt) : (s.setRing r v).outSent = s.outSent := rfl
@[simp] theorem setRing_nextTag (s : State) (r : RingId) (v : RingRt) : (s.setRing r v).nextTag = s.nextTag := rfl
@[simp] theorem setRing_quads (s : State) (r : RingId) (v : RingRt) : (s.setRing r v).quads = s.quads := rfl
@[simp] theorem setRing_rotor (s : State) (r : RingId) (v : RingRt) : (s.setRing r v).rotor = s.rotor := rfl
@[simp] theorem setRing_peerRx (s : State) (r : RingId) (v : RingRt) : (s.setRing r v).peerRx = s.peerRx := rfl
@[simp] theorem setRing_netChurn (s : State) (r : RingId) (v : RingRt) : (s.setRing r v).netChurn = s.netChurn := rfl
@[simp] theorem setRing_parFail (s : State) (r : RingId) (v : RingRt) : (s.setRing r v).parFail = s.parFail := rfl
@[simp] theorem setRing_edgesDown (s : State) (r : RingId) (v : RingRt) : (s.setRing r v).edgesDown = s.edgesDown := rfl
@[simp] theorem setRing_grain (s : State) (r : RingId) (v : RingRt) : (s.setRing r v).grain = s.grain := rfl
@[simp] theorem setRing_flash (s : State) (r : RingId) (v : RingRt) : (s.setRing r v).flash = s.flash := rfl
@[simp] theorem setRing_pins (s : State) (r : RingId) (v : RingRt) : (s.setRing r v).pins = s.pins := rfl
@[simp] theorem setRing_boot (s : State) (r : RingId) (v : RingRt) : (s.setRing r v).boot = s.boot := rfl
@[simp] theorem setRing_power (s : State) (r : RingId) (v : RingRt) : (s.setRing r v).power = s.power := rfl
@[simp] theorem setRing_trust (s : State) (r : RingId) (v : RingRt) : (s.setRing r v).trust = s.trust := rfl
@[simp] theorem setRing_cnt (s : State) (r : RingId) (v : RingRt) : (s.setRing r v).cnt = s.cnt := rfl
@[simp] theorem setRing_outbox (s : State) (r : RingId) (v : RingRt) : (s.setRing r v).outbox = s.outbox := rfl
@[simp] theorem setRing_time (s : State) (r : RingId) (v : RingRt) : (s.setRing r v).time = s.time := rfl
@[simp] theorem setRing_churns (s : State) (r : RingId) (v : RingRt) : (s.setRing r v).churns = s.churns := rfl
@[simp] theorem setRing_idleChurns (s : State) (r : RingId) (v : RingRt) : (s.setRing r v).idleChurns = s.idleChurns := rfl
@[simp] theorem setRing_lastCommit (s : State) (r : RingId) (v : RingRt) : (s.setRing r v).lastCommit = s.lastCommit := rfl
@[simp] theorem setRing_lastCkpt (s : State) (r : RingId) (v : RingRt) : (s.setRing r v).lastCkpt = s.lastCkpt := rfl
@[simp] theorem setRing_dumpDue (s : State) (r : RingId) (v : RingRt) : (s.setRing r v).dumpDue = s.dumpDue := rfl
@[simp] theorem setRing_dumps (s : State) (r : RingId) (v : RingRt) : (s.setRing r v).dumps = s.dumps := rfl
@[simp] theorem setRing_dumpGone (s : State) (r : RingId) (v : RingRt) : (s.setRing r v).dumpGone = s.dumpGone := rfl
@[simp] theorem setRing_failover (s : State) (r : RingId) (v : RingRt) : (s.setRing r v).failover = s.failover := rfl
@[simp] theorem setRing_failed (s : State) (r : RingId) (v : RingRt) : (s.setRing r v).failed = s.failed := rfl
@[simp] theorem setRing_resume (s : State) (r : RingId) (v : RingRt) : (s.setRing r v).resume = s.resume := rfl
@[simp] theorem setRing_degCl (s : State) (r : RingId) (v : RingRt) : (s.setRing r v).degCl = s.degCl := rfl
@[simp] theorem setRing_rotNext (s : State) (r : RingId) (v : RingRt) : (s.setRing r v).rotNext = s.rotNext := rfl
@[simp] theorem setRing_stopped (s : State) (r : RingId) (v : RingRt) : (s.setRing r v).stopped = s.stopped := rfl
@[simp] theorem setRing_freeCtr (s : State) (r : RingId) (v : RingRt) : (s.setRing r v).freeCtr = s.freeCtr := rfl

end Sys2Proof.Machine
end

