-- ==== Sys2Proof/Laws/Bits.lean ====
section
/-!
SUPPORT. Bits.lean: fields and bits of a word after a field is replaced, and the same of registers.
-/
namespace Sys2Proof.Machine

/-! Words. -/

/-- The sum that maskBy takes: below 2^w, with the bits of the predicate. -/
theorem maskBy_sum (p : Nat → Bool) : ∀ w, (List.range w).foldl (fun acc i => acc + (if p i then 2 ^ i else 0)) 0 < 2 ^ w ∧
   ∀ i, ((List.range w).foldl (fun acc i => acc + (if p i then 2 ^ i else 0)) 0).testBit i = (decide (i < w) && p i) := by
  intro w; induction w with
  | zero => simp
  | succ w ih =>
    rw [List.range_succ, List.foldl_append]
    simp only [List.foldl_cons, List.foldl_nil]
    generalize (List.range w).foldl (fun acc i => acc + (if p i then 2 ^ i else 0)) 0 = z at *
    obtain ⟨h1, h2⟩ := ih
    refine ⟨by split <;> rw [Nat.pow_succ] <;> omega, fun i => ?_⟩
    split
    · rename_i hp
      by_cases hi : i < w
      · rw [Nat.add_comm, Nat.testBit_two_pow_add_gt hi, h2]; simp [hi]; omega
      · by_cases hi2 : i = w
        · subst hi2; rw [Nat.add_comm, Nat.testBit_two_pow_add_eq, h2]; simp [hp]
        · rw [Nat.testBit_lt_two_pow (Nat.lt_of_lt_of_le (by rw [Nat.pow_succ]; omega : z + 2 ^ w < 2 ^ (w+1)) (Nat.pow_le_pow_right (by omega) (by omega)))]
          simp; omega
    · rename_i hp
      rw [Nat.add_zero, h2]
      by_cases hi2 : i = w
      · subst hi2; simp_all
      · congr 1; simp; omega

/-- A bit of a mask built from a predicate. -/
theorem maskBy_getLsbD (w : Nat) (p : Nat → Bool) (i : Nat) : (maskBy w p).getLsbD i = (decide (i < w) && p i) := by
  simp only [maskBy, BitVec.getLsbD_ofNat, (maskBy_sum p w).2]; cases decide (i < w) <;> simp

/-- The bits of a mask. -/
theorem maskOf_getLsbD (hi lo i : Nat) : (maskOf hi lo).getLsbD i = decide (lo ≤ i ∧ i ≤ hi ∧ i < 64) := by
  simp only [maskOf, BitVec.getLsbD_ofNat, Nat.testBit_shiftLeft, Nat.testBit_two_pow_sub_one]
  by_cases h1 : lo ≤ i <;> by_cases h2 : i < 64 <;> simp [h1, h2] <;> omega

/-- The bits of a word with a field replaced. -/
theorem putField_getLsbD (w : Word) (hi lo v i : Nat) (h : hi < 64) :
    (putField w hi lo v).getLsbD i = if lo ≤ i ∧ i ≤ hi then v.testBit (i - lo) else w.getLsbD i := by
  by_cases h2 : i < 64
  · simp only [putField, BitVec.getLsbD_or, BitVec.getLsbD_and, BitVec.getLsbD_not, maskOf_getLsbD, BitVec.getLsbD_ofNat,
      Nat.testBit_shiftLeft]
    by_cases h1 : lo ≤ i <;> by_cases h3 : i ≤ hi <;> simp [h1, h2, h3]
  · rw [BitVec.getLsbD_of_ge _ _ (by omega), BitVec.getLsbD_of_ge w _ (by omega), if_neg (by omega)]

/-- The bits of a field. -/
theorem fieldOf_testBit (w : Word) (hi lo i : Nat) :
    (fieldOf w hi lo).testBit i = (decide (i < hi + 1 - lo) && w.getLsbD (lo + i)) := by
  simp [fieldOf, bitsOf, Nat.testBit_mod_two_pow, Nat.testBit_shiftRight, BitVec.getLsbD]

/-- A field that has been replaced holds the value cut to its width. -/
theorem fieldOf_putField_same (w : Word) (hi lo v : Nat) (h : hi < 64) :
    fieldOf (putField w hi lo v) hi lo = v % 2 ^ (hi + 1 - lo) := by
  apply Nat.eq_of_testBit_eq
  intro i
  rw [fieldOf_testBit, putField_getLsbD _ _ _ _ _ h, Nat.testBit_mod_two_pow]
  by_cases hi' : i < hi + 1 - lo
  · rw [if_pos (by omega), Nat.add_sub_cancel_left]
  · simp [hi']

/-- A field apart from the one that has been replaced keeps its value. -/
theorem fieldOf_putField_other (w : Word) {hi lo a b : Nat} (v : Nat) (h : hi < 64) (hd : a < lo ∨ hi < b) :
    fieldOf (putField w hi lo v) a b = fieldOf w a b := by
  apply Nat.eq_of_testBit_eq
  intro i
  rw [fieldOf_testBit, fieldOf_testBit, putField_getLsbD _ _ _ _ _ h]
  by_cases hi' : i < a + 1 - b
  · rw [if_neg (by omega)]
  · simp [hi']

/-- A field is below its bound. -/
theorem fieldOf_lt (w : Word) (hi lo : Nat) : fieldOf w hi lo < 2 ^ (hi + 1 - lo) := Nat.mod_lt _ (Nat.two_pow_pos _)

/-- A bit inside the field that has been replaced. -/
theorem bitOf_putField_in (w : Word) {hi lo i : Nat} (v : Nat) (h : hi < 64) (h1 : lo ≤ i) (h2 : i ≤ hi) :
    bitOf (putField w hi lo v) i = v.testBit (i - lo) := by
  rw [bitOf, putField_getLsbD _ _ _ _ _ h, if_pos ⟨h1, h2⟩]

/-- A bit outside the field that has been replaced. -/
theorem bitOf_putField_out (w : Word) {hi lo i : Nat} (v : Nat) (h : hi < 64) (hd : i < lo ∨ hi < i) :
    bitOf (putField w hi lo v) i = bitOf w i := by
  rw [bitOf, putField_getLsbD _ _ _ _ _ h, if_neg (by omega), bitOf]

/-! Registers. -/

/-- A field that has been set. -/
theorem field_setField_same (s : State) (off hi lo v : Nat) (h : hi < 64) :
    (s.setField off hi lo v).field off hi lo = v % 2 ^ (hi + 1 - lo) := by
  simp [State.field, fieldOf_putField_same _ _ _ _ h]

/-- Another field of the register that has been set. -/
theorem field_setField_apart (s : State) {off hi lo a b : Nat} (v : Nat) (h : hi < 64) (hd : a < lo ∨ hi < b) :
    (s.setField off hi lo v).field off a b = s.field off a b := by
  simp [State.field, fieldOf_putField_other _ v h hd]

/-- A field of another register. -/
theorem field_setField_other (s : State) {off k : Nat} (hi lo v a b : Nat) (h : k ≠ off) :
    (s.setField off hi lo v).field k a b = s.field k a b := by
  simp [State.field, reg_setField_other s hi lo v h]

/-- A field of another register after a register is set. -/
theorem field_setReg_other (s : State) {off k : Nat} (v : Word) (a b : Nat) (h : k ≠ off) :
    (s.setReg off v).field k a b = s.field k a b := by
  simp [State.field, reg_setReg_other s v h]

/-- A field of the register that is set. -/
theorem field_setReg_same (s : State) (off : Nat) (v : Word) (a b : Nat) :
    (s.setReg off v).field off a b = fieldOf v a b := by simp [State.field]

/-- A bit that has been set. -/
theorem bit_setBit_same (s : State) (off i : Nat) (h : i < 64) : (s.setBit off i).bit off i = true := by
  simp [State.bit, State.setBit, bitOf_putField_in _ _ h (Nat.le_refl i) (Nat.le_refl i)]

/-- A bit that has been cleared. -/
theorem bit_clearBit_same (s : State) (off i : Nat) (h : i < 64) : (s.clearBit off i).bit off i = false := by
  simp [State.bit, State.clearBit, bitOf_putField_in _ _ h (Nat.le_refl i) (Nat.le_refl i)]

/-- A bit of the register outside the field that has been set. -/
theorem bit_setField_apart (s : State) {off hi lo i : Nat} (v : Nat) (h : hi < 64) (hd : i < lo ∨ hi < i) :
    (s.setField off hi lo v).bit off i = s.bit off i := by
  simp [State.bit, bitOf_putField_out _ v h hd]

/-- A bit of another register. -/
theorem bit_setField_other (s : State) {off k : Nat} (hi lo v i : Nat) (h : k ≠ off) :
    (s.setField off hi lo v).bit k i = s.bit k i := by
  simp [State.bit, reg_setField_other s hi lo v h]

/-- A bit of another register after a register is set. -/
theorem bit_setReg_other (s : State) {off k : Nat} (v : Word) (i : Nat) (h : k ≠ off) :
    (s.setReg off v).bit k i = s.bit k i := by
  simp [State.bit, reg_setReg_other s v h]

end Sys2Proof.Machine
end

