-- ==== Sys2Proof/Laws/Group.lean ====
section
/-!
SUPPORT. Group.lean: what the issue of a group-code instruction does: of one subgroup, and of a bundle.
-/
namespace Sys2Proof.Machine

theorem subReady_of_ready {s : State} {g : GIssue} {b : Subgroup} (h : s.subgroupReady g b) :
    s.subReady g.core.val g.gctx b = true := by
  obtain ⟨_, _, h3, h4, h5, h6, _⟩ := h
  cases hb : b.fence with
  | none => simp [State.subReady, h3, h4, h5, hb]
  | some id => simp [State.subReady, h3, h4, h5, hb, h6 id hb]

/-- All that the first subgroup of a bundle can do when it is ready and lacks no register: the effect of its instruction and what
follows it. -/
theorem gStep_first {s : State} {g : GIssue} {f : Fields} {w : GUse} {pairs : List Nat} {b : Subgroup}
    {body : GIssue → State → GroupCtx → Subgroup → GEff} (h : s.subgroupReady g b) (hf : w.fault f = none)
    (hp : ∀ r ∈ w.regs f pairs, ∀ l, l < 32 → l * 64 + r ∉ (s.grp g.core.val g.gctx).pend) :
    s.gStep g f w pairs true body =
      match body g s (s.grp g.core.val g.gctx) { b with fence := none } with
      | .stall => none
      | .fault t code => some (t.killGroup g.core.val g.gctx code b.pc.toNat)
      | .subs t x => some (t.afterSplit g x)
      | .jump t x p => some (if x.pcOk p then t.afterGroup g b x p
          else ((t.count (0x100 + g.core.val) 8 1).setGrp g.core.val g.gctx x).killGroup g.core.val g.gctx gPC
            (BitVec.ofInt 20 p).toNat)
      | .next t x => some (t.afterGroup g b x (b.pc.toNat + 8)) := by
  have hr := subReady_of_ready h
  have hn : ((w.regs f pairs).any fun r => (List.range 32).any fun l =>
      (s.grp g.core.val g.gctx).pend.contains (l * 64 + r)) = false := by
    rw [Bool.eq_false_iff]
    intro hc
    simp only [List.any_eq_true, List.mem_range, List.contains_iff_mem] at hc
    obtain ⟨r, hr, l, hl, hm⟩ := hc
    exact hp r hr l hl hm
  simp only [State.gStep, h.1, h.2.1, hr, hf, hn, Bool.not_true, Bool.or_self, Bool.false_eq_true, if_false, if_true]
  cases body g s (s.grp g.core.val g.gctx) { b with fence := none } <;> rfl

/-- An instruction without partners does what its one subgroup does. -/
theorem gIssue_alone {s t : State} {g : GIssue} {f : Fields} {w : GUse} {pairs : List Nat} {b : Subgroup}
    {body : GIssue → State → GroupCtx → Subgroup → GEff} (h : s.subgroupReady g b) (hp : s.partners g f w pairs = [])
    (hs : s.gStep g f w pairs true body = some t) : s.gIssue g f w pairs body = t := by
  have hn : (s.asBackfill g.core.val (s.grp g.core.val g.gctx).owner && s.decodeReady g.core.val) = false := by
    rw [Bool.eq_false_iff]
    intro hc
    simp only [Bool.and_eq_true] at hc
    exact h.2.2.2.2.2.2 hc
  simp only [State.gIssue, hn, hs, hp, List.foldl_nil, Bool.false_eq_true, if_false]

/-- An instruction that is not per-lane, or reads or writes u registers, has no partners (R472). -/
theorem partners_of_not_lanes (s : State) (g : GIssue) (f : Fields) {w : GUse} (pairs : List Nat)
    (h : w.lanes = false ∨ w.dst = .u ∨ w.a = .u ∨ w.b = .u) : s.partners g f w pairs = [] := by
  simp only [State.partners]
  rw [if_pos]
  rcases h with h | h | h | h <;> simp [h]

/-- Without PACKEN no instruction has partners (R488). -/
theorem partners_of_no_packing (s : State) (g : GIssue) (f : Fields) (w : GUse) (pairs : List Nat)
    (h : s.bit (offGX g.core.val) 1 = false) : s.partners g f w pairs = [] := by
  simp only [State.partners]
  rw [if_pos]
  simp [h]

end Sys2Proof.Machine
end

