-- ==== Sys2Proof/Laws/Memory.lean ====
section
/-!
SUPPORT. Memory.lean: every memory operation keeps the canonical form, and what a byte reads as after a write.
-/
namespace Sys2Proof.Machine

/-! One byte. -/

theorem memByte_append_left {l : Memory} (r : Memory) {a : Nat} (h : ∀ c ∈ r, c.1 ≠ a) : memByte (l ++ r) a = memByte l a := by
  induction l with
  | nil =>
    induction r with
    | nil => rfl
    | cons c t ih =>
      obtain ⟨k, b⟩ := c
      have hk : k ≠ a := h (k, b) (List.mem_cons_self ..)
      have ht := ih fun c hc => h c (List.mem_cons_of_mem _ hc)
      simpa [memByte, hk] using ht
  | cons c t ih => obtain ⟨k, b⟩ := c; simp only [List.cons_append, memByte, ih]

theorem memByte_append_right {l : Memory} (r : Memory) {a : Nat} (h : ∀ c ∈ l, c.1 ≠ a) : memByte (l ++ r) a = memByte r a := by
  induction l with
  | nil => rfl
  | cons c t ih =>
    obtain ⟨k, b⟩ := c
    have hk : k ≠ a := h (k, b) (List.mem_cons_self ..)
    have ht := ih fun c hc => h c (List.mem_cons_of_mem _ hc)
    simpa [memByte, hk] using ht

/-- Cells of other addresses may be left out. -/
theorem memByte_filter (m : Memory) (p : Host.Cell → Bool) {a : Nat} (h : ∀ b, p (a, b) = true) :
    memByte (m.filter p) a = memByte m a := by
  induction m with
  | nil => rfl
  | cons c t ih =>
    obtain ⟨k, b⟩ := c
    by_cases hk : k = a
    · subst hk; simp [h, memByte]
    · by_cases hp : p (k, b) = true <;> simp [hp, memByte, hk, ih]

/-- Outside the range that is replaced every byte reads as before. -/
theorem memByte_memSplice_out (m : Memory) {lo hi a : Nat} (cells : List Host.Cell) (h : a < lo ∨ hi ≤ a ∧ lo ≤ a) :
    memByte (memSplice m lo hi cells) a = memByte m a := by
  unfold memSplice
  rcases h with h | ⟨h, h'⟩
  · rw [List.append_assoc, memByte_append_left, memByte_filter]
    · intro b; simpa using h
    · intro c hc
      simp only [List.mem_append, List.mem_filter, Bool.and_eq_true, decide_eq_true_eq] at hc
      omega
  · rw [memByte_append_right, memByte_filter]
    · intro b; simp [h, h']
    · intro c hc
      simp only [List.mem_append, List.mem_filter, Bool.and_eq_true, decide_eq_true_eq] at hc
      omega

/-- Inside the range the new cells are read. -/
theorem memByte_memSplice_in (m : Memory) {lo hi a : Nat} (cells : List Host.Cell) (h1 : lo ≤ a) (h2 : a < hi) :
    memByte (memSplice m lo hi cells) a = memByte cells a := by
  unfold memSplice
  rw [memByte_append_left, memByte_append_right, memByte_filter]
  · intro b; simp [h1, h2]
  · intro c hc; simp only [List.mem_filter, decide_eq_true_eq] at hc; omega
  · intro c hc; simp only [List.mem_filter, Bool.and_eq_true, decide_eq_true_eq] at hc; omega

theorem memByte_cellsAt (bs : List Byte) (a i : Nat) : memByte (cellsAt a bs) (a + i) = bs.getD i 0#8 := by
  have below : ∀ (bs : List Byte) (a k : Nat), k < a → memByte (cellsAt a bs) k = 0#8 := by
    intro bs
    induction bs with
    | nil => intros; rfl
    | cons b t ih =>
      intro a k h
      unfold cellsAt
      split
      · exact ih _ _ (by omega)
      · simp only [memByte, if_neg (by omega : ¬ a = k)]; exact ih _ _ (by omega)
  induction bs generalizing a i with
  | nil => rfl
  | cons b t ih =>
    unfold cellsAt
    cases i with
    | zero =>
      split
      · rename_i h; simp [below _ _ _ (Nat.lt_succ_self a), h]
      · simp [memByte]
    | succ i =>
      have e : a + (i + 1) = (a + 1) + i := by omega
      split
      · rw [e, ih]; simp
      · simp only [memByte, if_neg (by omega : ¬ a = a + (i + 1))]; rw [e, ih]; simp

/-- A written byte reads as written. -/
theorem memByte_memWrite_in (m : Memory) (a : Nat) (bs : List Byte) (i : Nat) (h : i < bs.length) :
    memByte (memWrite m a bs) (a + i) = bs.getD i 0#8 := by
  rw [memWrite, memByte_memSplice_in _ _ (by omega) (by omega), memByte_cellsAt]

/-- Every other byte reads as before. -/
theorem memByte_memWrite_out (m : Memory) (a : Nat) (bs : List Byte) {k : Nat} (h : k < a ∨ a + bs.length ≤ k) :
    memByte (memWrite m a bs) k = memByte m k := by
  rw [memWrite, memByte_memSplice_out]; omega

/-- Erased bytes read as zero. -/
theorem memByte_memErase_in (m : Memory) {lo hi a : Nat} (h1 : lo ≤ a) (h2 : a < hi) : memByte (memErase m lo hi) a = 0#8 := by
  rw [memErase, memByte_memSplice_in _ _ h1 h2]; rfl

/-- Every other byte reads as before. -/
theorem memByte_memErase_out (m : Memory) {lo hi a : Nat} (h : a < lo ∨ hi ≤ a ∧ lo ≤ a) :
    memByte (memErase m lo hi) a = memByte m a := by rw [memErase, memByte_memSplice_out _ _ h]

/-! The canonical form. -/

theorem wf_nil : Memory.wf [] := ⟨List.Pairwise.nil, fun _ h => nomatch h⟩

theorem wf_filter {m : Memory} (p : Host.Cell → Bool) (h : Memory.wf m) : Memory.wf (m.filter p) :=
  ⟨h.1.filter _, fun c hc => h.2 c (List.mem_filter.1 hc).1⟩

/-- Replacing a range keeps the canonical form. -/
theorem memSplice_wf {m cells : Memory} (lo hi : Nat) (hm : Memory.wf m) (hc : Memory.wf cells) :
    Memory.wf (memSplice m lo hi cells) := by
  unfold memSplice
  have h1 := wf_filter (fun c : Host.Cell => decide (c.1 < lo)) hm
  have h2 := wf_filter (fun c : Host.Cell => decide (lo ≤ c.1) && decide (c.1 < hi)) hc
  have h3 := wf_filter (fun c : Host.Cell => decide (hi ≤ c.1) && decide (lo ≤ c.1)) hm
  refine ⟨?_, ?_⟩
  · refine List.pairwise_append.2 ⟨List.pairwise_append.2 ⟨h1.1, h2.1, ?_⟩, h3.1, ?_⟩
    · intro a ha b hb
      simp only [List.mem_filter, decide_eq_true_eq, Bool.and_eq_true] at ha hb
      omega
    · intro a ha b hb
      simp only [List.mem_append, List.mem_filter, decide_eq_true_eq, Bool.and_eq_true] at ha hb
      omega
  · intro c hc
    simp only [List.mem_append] at hc
    rcases hc with (hc | hc) | hc
    · exact h1.2 c hc
    · exact h2.2 c hc
    · exact h3.2 c hc

theorem cellsAt_ge (bs : List Byte) (a : Nat) : ∀ c ∈ cellsAt a bs, a ≤ c.1 := by
  induction bs generalizing a with
  | nil => intro c hc; exact nomatch hc
  | cons b t ih =>
    intro c hc
    unfold cellsAt at hc
    split at hc
    · exact Nat.le_of_succ_le (ih _ c hc)
    · rcases List.mem_cons.1 hc with rfl | hc
      · exact Nat.le_refl _
      · exact Nat.le_of_succ_le (ih _ c hc)

theorem cellsAt_wf (bs : List Byte) (a : Nat) : Memory.wf (cellsAt a bs) := by
  induction bs generalizing a with
  | nil => exact wf_nil
  | cons b t ih =>
    unfold cellsAt
    split
    · exact ih _
    · rename_i h
      exact ⟨List.pairwise_cons.2 ⟨fun c hc => cellsAt_ge _ _ c hc, (ih _).1⟩,
        fun c hc => (List.mem_cons.1 hc).elim (fun e => by rw [e]; exact h) ((ih _).2 c)⟩

/-- A write keeps the canonical form. -/
theorem memWrite_wf {m : Memory} (a : Nat) (bs : List Byte) (h : Memory.wf m) : Memory.wf (memWrite m a bs) :=
  memSplice_wf _ _ h (cellsAt_wf _ _)

/-- Erasing a range keeps the canonical form. -/
theorem memErase_wf {m : Memory} (lo hi : Nat) (h : Memory.wf m) : Memory.wf (memErase m lo hi) :=
  memSplice_wf _ _ h wf_nil

/-- Copying a range keeps the canonical form. -/
theorem memCopy_wf {m src : Memory} (a b n : Nat) (h : Memory.wf m) (hs : Memory.wf src) : Memory.wf (memCopy m src a b n) := by
  refine memSplice_wf _ _ h ⟨?_, ?_⟩
  · have hp := (wf_filter (fun c : Host.Cell => decide (a ≤ c.1) && decide (c.1 < a + n)) hs).1
    refine List.pairwise_map.2 (hp.imp_of_mem fun {x y} hx hy hxy => ?_)
    simp only [memCells, List.mem_filter, decide_eq_true_eq, Bool.and_eq_true] at hx hy
    show x.1 - a + b < y.1 - a + b
    omega
  · intro c hc
    obtain ⟨x, hx, rfl⟩ := List.mem_map.1 hc
    exact hs.2 x (List.mem_filter.1 hx).1

/-! Stores. -/

/-- The memories of a store are in canonical form. -/
def Store.ok (st : Store) : Prop := Memory.wf st.bytes ∧ Memory.wf st.flips ∧ Memory.wf st.chk

theorem Store.empty_ok : Store.empty.ok := ⟨wf_nil, wf_nil, wf_nil⟩

theorem Store.write_ok {st : Store} (a : Nat) (bs : List Byte) (h : st.ok) : (st.write a bs).ok :=
  ⟨memWrite_wf _ _ h.1, memErase_wf _ _ h.2.1, memErase_wf _ _ h.2.2⟩

theorem Store.erase_ok {st : Store} (lo hi : Nat) (h : st.ok) : (st.erase lo hi).ok :=
  ⟨memErase_wf _ _ h.1, memErase_wf _ _ h.2.1, memErase_wf _ _ h.2.2⟩

theorem Store.markSram_ok {st : Store} (f : Nat) (h : st.ok) : (st.markSram f).ok :=
  ⟨h.1, memErase_wf _ _ h.2.1, memWrite_wf _ _ h.2.2⟩

theorem Store.setMarks_ok {st : Store} (f : Nat) (m : BitVec 8) (h : st.ok) : (st.setMarks f m).ok := h

theorem Store.flipData_ok {st : Store} (a : Nat) (mask : Word) (h : st.ok) : (st.flipData a mask).ok :=
  ⟨memWrite_wf _ _ h.1, memWrite_wf _ _ h.2.1, h.2.2⟩

theorem Store.flipParity_ok {st : Store} (a : Nat) (mask : Word) (h : st.ok) : (st.flipParity a mask).ok :=
  ⟨h.1, h.2.1, memWrite_wf _ _ h.2.2⟩

theorem Store.flipCheck_ok {st : Store} (a n : Nat) (mask : Word) (h : st.ok) : (st.flipCheck a n mask).ok :=
  ⟨h.1, h.2.1, memWrite_wf _ _ h.2.2⟩

end Sys2Proof.Machine
end

