-- ==== Sys2Proof/Laws/Registers.lean ====
section
/-!
SUPPORT. Registers.lean: the common paths of register writes, host commands and SPDM requests.
-/
namespace Sys2Proof.Machine

/-- An 8-byte write that arrives at an aligned offset acts, unless sealed mode ignores it. -/
theorem regWrite_arrives {s : State} {p : Port} {off : Nat} {v : Word} {b : Bool} (h : s.portUp p = true)
    (h2 : s.boot.recovering = false) (ho : off % 8 = 0) :
    s.regWrite p off 8 v b = if s.isSealed && sealedIgnores off then s else s.regEffect p off v b := by
  simp [State.regWrite, wholeAccess, h, h2, ho]

/-- A narrower or misaligned write through a port that is up has no effect and is recorded. -/
theorem regWrite_narrow {s : State} {p : Port} {off bytes : Nat} {v : Word} {b : Bool} (h : s.portUp p = true)
    (ho : bytes ≠ 8 ∨ off % 8 ≠ 0) : s.regWrite p off bytes v b = s.narrowAccess off := by
  rcases ho with ho | ho <;> simp [State.regWrite, wholeAccess, h, ho]

/-- A write through a port that is down, or during a recovery anywhere but to BOOT_CTL, changes nothing. -/
theorem regWrite_unheard {s : State} {p : Port} {off : Nat} {v : Word} {b : Bool}
    (h : s.portUp p = false ∨ (s.boot.recovering = true ∧ off % 8 = 0)) (ho : off ≠ offBOOT + 0x10) :
    s.regWrite p off 8 v b = s := by
  rcases h with h | ⟨h, h8⟩
  · simp [State.regWrite, h]
  · by_cases hp : s.portUp p = true
    · simp [State.regWrite, wholeAccess, hp, h, h8, ho]
    · simp [State.regWrite, hp]

/-- A write under the access codes of a row that the port may write. -/
theorem regPlain_row {s : State} {p : Port} {off : Nat} {r : RegRow} (v : Word) (h : regRow? off = some r)
    (hl : r.lease = false ∨ s.holder = some p) : s.regPlain p off v = s.setReg off (r.written (s.reg off) v) := by
  simp only [State.regPlain, h]
  rw [if_neg]
  rcases hl with h1 | h1 <;> simp [h1]

/-- What a write does at an offset outside the banked blocks and the counter windows. -/
theorem regEffect_unbanked {s : State} {p : Port} {off : Nat} {v : Word} {b : Bool} (h1 : stnAt? off = none)
    (h2 : cacheAt? off = none) (h3 : tierAt? off = none) (h4 : chkAt? off = none) (h5 : s.windowAt? off = none) :
    s.regEffect p off v b =
      (if offHQ ≤ off ∧ off < offHQ + 0x10000 then s.hqWrite p off v
       else if off = offMBX then s.mailbox p v b
       else if off = offTHM then s.throttleWrite p v
       else if off = offCNT + 0x10 then s.wdogWrite p v
       else if off = offLANE + 0x10 then (s.regPlain p off v).writeRecord 1
       else if off = offGRN + 0x800 then (s.regPlain p off v).setReg (offGRN + 0x808) (s.probeBond v)
       else if off = offTIME + 0x108 then s.traceCfg v
       else s.regPlain p off v) := by
  simp only [State.regEffect, h1, h2, h3, h4, h5]

/-- A host command that takes effect runs its body with its log entry. -/
theorem hostCmd_takes {s : State} {c : HostCmd} {opc : Nat} {masks : List Nat} {e : LogEntry}
    {body : LogEntry → State → State} (h : s.cmdTakes c opc masks e) : s.hostCmd c opc masks body = body e s := by
  obtain ⟨h1, h2, h3, h4⟩ := h
  simp only [State.hostCmd, h1]
  rw [if_neg (by simp [h2, h3])]
  rcases h4 with h4 | ⟨h5, h6, h7, h8⟩
  · simp [h4]
  · by_cases hb : e.begun = true
    · simp [hb]
    · rw [if_neg hb, if_neg (by simp [h5]), if_neg (by rcases h6 with h | h <;> simp [h]), if_neg (by simp [h7]),
        if_neg (by rcases h8 with h | h <;> simp [h])]

/-- A command without an open log entry changes nothing. -/
theorem hostCmd_none {s : State} {c : HostCmd} {opc : Nat} {masks : List Nat} {body : LogEntry → State → State}
    (h : s.entryOf c = none) : s.hostCmd c opc masks body = s := by simp only [State.hostCmd, h]

/-- An SPDM request that is heard by a seal engine with its keys, on a connection that has come far enough, acts. -/
theorem spdm_acts {s : State} {t : SpdmPort} {need : Nat} {body : State → State} (h : s.spdmHears t = true)
    (hu : s.sealUp = true) (hc : need ≤ s.conn t) : s.spdm t need body = body s := by
  simp [State.spdm, h, hu, Nat.not_lt.mpr hc]

end Sys2Proof.Machine
end

