-- ==== Sys2Proof/Laws/Station.lean ====
section
/-!
SUPPORT. Station.lean: what the issue of a station-code instruction does, and the fields of IMM as numbers.
-/
namespace Sys2Proof.Machine

/-- A field of IMM by division. -/
theorem immBits_eq (f : Fields) (hi lo : Nat) : immBits f hi lo = f.imm.toNat / 2 ^ lo % 2 ^ (hi + 1 - lo) := by
  simp [immBits, bitsOf, Nat.shiftRight_eq_div_pow]

/-- All that an issue can do: hold, or the instruction's effect and what follows it. -/
theorem issue_eq (s : State) (u : Issue) (f : Fields) (use : Use) (body : State → Eff) (h : s.canIssue u f use) :
    s.issue u f use body =
      match body s with
      | .stall => s
      | .hold t => t
      | .fault t code => t.programFault u.core.val u.ctx code (s.at u).pc.toNat
      | .jump t p => t.afterIssue u p
      | .next t => t.afterIssue u (s.nextPc u) := by
  obtain ⟨h1, h2, h3, h4⟩ := h
  simp only [State.issue, State.at, State.afterIssue, State.nextPc] at *
  simp [h1, h2, h3, h4] <;> cases body s <;> rfl

theorem issue_next {s t : State} {u : Issue} {f : Fields} {use : Use} {body : State → Eff} (h : s.canIssue u f use)
    (hb : body s = .next t) : s.issue u f use body = t.afterIssue u (s.nextPc u) := by rw [issue_eq s u f use body h, hb]

theorem issue_jump {s t : State} {u : Issue} {f : Fields} {use : Use} {body : State → Eff} {p : Int}
    (h : s.canIssue u f use) (hb : body s = .jump t p) : s.issue u f use body = t.afterIssue u p := by
  rw [issue_eq s u f use body h, hb]

theorem issue_fault {s t : State} {u : Issue} {f : Fields} {use : Use} {body : State → Eff} {code : Nat}
    (h : s.canIssue u f use) (hb : body s = .fault t code) :
    s.issue u f use body = t.programFault u.core.val u.ctx code (s.at u).pc.toNat := by
  rw [issue_eq s u f use body h, hb]

theorem issue_stall {s : State} {u : Issue} {f : Fields} {use : Use} {body : State → Eff} (h : s.canIssue u f use)
    (hb : body s = .stall) : s.issue u f use body = s := by rw [issue_eq s u f use body h, hb]

theorem issue_hold {s t : State} {u : Issue} {f : Fields} {use : Use} {body : State → Eff} (h : s.canIssue u f use)
    (hb : body s = .hold t) : s.issue u f use body = t := by rw [issue_eq s u f use body h, hb]

end Sys2Proof.Machine
end

