-- ==== Sys2Proof/Laws/Units.lean ====
section
/-!
SUPPORT. Units.lean: one lemma per field of the state for the update of a stream, a pipeline, a memory controller, a mover, a sequence,
a quad and a cache line, and what the unit reads as after it.
-/
namespace Sys2Proof.Machine

@[simp] theorem strm_setStrm_same (s : State) (i : Nat) (r : StreamRt) : (s.setStrm i r).strm i = r := by
  simp [State.strm, State.setStrm]

theorem strm_setStrm_other (s : State) {i j : Nat} (r : StreamRt) (h : j ≠ i) : (s.setStrm i r).strm j = s.strm j := by
  simp only [State.strm, State.setStrm]; exact tabGetD_tabSet_other _ _ _ h

@[simp] theorem setStrm_pending (s : State) (i : Nat) (r : StreamRt) : (s.setStrm i r).pending = s.pending := rfl
@[simp] theorem setStrm_func (s : State) (i : Nat) (r : StreamRt) : (s.setStrm i r).func = s.func := rfl
@[simp] theorem setStrm_regs (s : State) (i : Nat) (r : StreamRt) : (s.setStrm i r).regs = s.regs := rfl
@[simp] theorem setStrm_mem (s : State) (i : Nat) (r : StreamRt) : (s.setStrm i r).mem = s.mem := rfl
@[simp] theorem setStrm_cmem (s : State) (i : Nat) (r : StreamRt) : (s.setStrm i r).cmem = s.cmem := rfl
@[simp] theorem setStrm_host (s : State) (i : Nat) (r : StreamRt) : (s.setStrm i r).host = s.host := rfl
@[simp] theorem setStrm_cores (s : State) (i : Nat) (r : StreamRt) : (s.setStrm i r).cores = s.cores := rfl
@[simp] theorem setStrm_image (s : State) (i : Nat) (r : StreamRt) : (s.setStrm i r).image = s.image := rfl
@[simp] theorem setStrm_reqs (s : State) (i : Nat) (r : StreamRt) : (s.setStrm i r).reqs = s.reqs := rfl
@[simp] theorem setStrm_nextReq (s : State) (i : Nat) (r : StreamRt) : (s.setStrm i r).nextReq = s.nextReq := rfl
@[simp] theorem setStrm_lines (s : State) (i : Nat) (r : StreamRt) : (s.setStrm i r).lines = s.lines := rfl
@[simp] theorem setStrm_evicts (s : State) (i : Nat) (r : StreamRt) : (s.setStrm i r).evicts = s.evicts := rfl
@[simp] theorem setStrm_fills (s : State) (i : Nat) (r : StreamRt) : (s.setStrm i r).fills = s.fills := rfl
@[simp] theorem setStrm_plru (s : State) (i : Nat) (r : StreamRt) : (s.setStrm i r).plru = s.plru := rfl
@[simp] theorem setStrm_setAcc (s : State) (i : Nat) (r : StreamRt) : (s.setStrm i r).setAcc = s.setAcc := rfl
@[simp] theorem setStrm_thrash (s : State) (i : Nat) (r : StreamRt) : (s.setStrm i r).thrash = s.thrash := rfl
@[simp] theorem setStrm_flushes (s : State) (i : Nat) (r : StreamRt) : (s.setStrm i r).flushes = s.flushes := rfl
@[simp] theorem setStrm_ctls (s : State) (i : Nat) (r : StreamRt) : (s.setStrm i r).ctls = s.ctls := rfl
@[simp] theorem setStrm_steps (s : State) (i : Nat) (r : StreamRt) : (s.setStrm i r).steps = s.steps := rfl
@[simp] theorem setStrm_movers (s : State) (i : Nat) (r : StreamRt) : (s.setStrm i r).movers = s.movers := rfl
@[simp] theorem setStrm_backs (s : State) (i : Nat) (r : StreamRt) : (s.setStrm i r).backs = s.backs := rfl
@[simp] theorem setStrm_restored (s : State) (i : Nat) (r : StreamRt) : (s.setStrm i r).restored = s.restored := rfl
@[simp] theorem setStrm_badAgain (s : State) (i : Nat) (r : StreamRt) : (s.setStrm i r).badAgain = s.badAgain := rfl
@[simp] theorem setStrm_splits (s : State) (i : Nat) (r : StreamRt) : (s.setStrm i r).splits = s.splits := rfl
@[simp] theorem setStrm_fillQ (s : State) (i : Nat) (r : StreamRt) : (s.setStrm i r).fillQ = s.fillQ := rfl
@[simp] theorem setStrm_fillAt (s : State) (i : Nat) (r : StreamRt) : (s.setStrm i r).fillAt = s.fillAt := rfl
@[simp] theorem setStrm_pipes (s : State) (i : Nat) (r : StreamRt) : (s.setStrm i r).pipes = s.pipes := rfl
@[simp] theorem setStrm_pageIds (s : State) (i : Nat) (r : StreamRt) : (s.setStrm i r).pageIds = s.pageIds := rfl
@[simp] theorem setStrm_slots (s : State) (i : Nat) (r : StreamRt) : (s.setStrm i r).slots = s.slots := rfl
@[simp] theorem setStrm_freeNext (s : State) (i : Nat) (r : StreamRt) : (s.setStrm i r).freeNext = s.freeNext := rfl
@[simp] theorem setStrm_slotNext (s : State) (i : Nat) (r : StreamRt) : (s.setStrm i r).slotNext = s.slotNext := rfl
@[simp] theorem setStrm_hpages (s : State) (i : Nat) (r : StreamRt) : (s.setStrm i r).hpages = s.hpages := rfl
@[simp] theorem setStrm_stuck (s : State) (i : Nat) (r : StreamRt) : (s.setStrm i r).stuck = s.stuck := rfl
@[simp] theorem setStrm_seqs (s : State) (i : Nat) (r : StreamRt) : (s.setStrm i r).seqs = s.seqs := rfl
@[simp] theorem setStrm_nextOrder (s : State) (i : Nat) (r : StreamRt) : (s.setStrm i r).nextOrder = s.nextOrder := rfl
@[simp] theorem setStrm_prefixes (s : State) (i : Nat) (r : StreamRt) : (s.setStrm i r).prefixes = s.prefixes := rfl
@[simp] theorem setStrm_waves (s : State) (i : Nat) (r : StreamRt) : (s.setStrm i r).waves = s.waves := rfl
@[simp] theorem setStrm_lastWave (s : State) (i : Nat) (r : StreamRt) : (s.setStrm i r).lastWave = s.lastWave := rfl
@[simp] theorem setStrm_periods (s : State) (i : Nat) (r : StreamRt) : (s.setStrm i r).periods = s.periods := rfl
@[simp] theorem setStrm_measure (s : State) (i : Nat) (r : StreamRt) : (s.setStrm i r).measure = s.measure := rfl
@[simp] theorem setStrm_inserted (s : State) (i : Nat) (r : StreamRt) : (s.setStrm i r).inserted = s.inserted := rfl
@[simp] theorem setStrm_regen (s : State) (i : Nat) (r : StreamRt) : (s.setStrm i r).regen = s.regen := rfl
@[simp] theorem setStrm_regenPos (s : State) (i : Nat) (r : StreamRt) : (s.setStrm i r).regenPos = s.regenPos := rfl
@[simp] theorem setStrm_regenBad (s : State) (i : Nat) (r : StreamRt) : (s.setStrm i r).regenBad = s.regenBad := rfl
@[simp] theorem setStrm_waveCtl (s : State) (i : Nat) (r : StreamRt) : (s.setStrm i r).waveCtl = s.waveCtl := rfl
@[simp] theorem setStrm_log (s : State) (i : Nat) (r : StreamRt) : (s.setStrm i r).log = s.log := rfl
@[simp] theorem setStrm_rings (s : State) (i : Nat) (r : StreamRt) : (s.setStrm i r).rings = s.rings := rfl
@[simp] theorem setStrm_compQ (s : State) (i : Nat) (r : StreamRt) : (s.setStrm i r).compQ = s.compQ := rfl
@[simp] theorem setStrm_compSent (s : State) (i : Nat) (r : StreamRt) : (s.setStrm i r).compSent = s.compSent := rfl
@[simp] theorem setStrm_evHeld (s : State) (i : Nat) (r : StreamRt) : (s.setStrm i r).evHeld = s.evHeld := rfl
@[simp] theorem setStrm_evSent (s : State) (i : Nat) (r : StreamRt) : (s.setStrm i r).evSent = s.evSent := rfl
@[simp] theorem setStrm_evLog (s : State) (i : Nat) (r : StreamRt) : (s.setStrm i r).evLog = s.evLog := rfl
@[simp] theorem setStrm_outQ (s : State) (i : Nat) (r : StreamRt) : (s.setStrm i r).outQ = s.outQ := rfl
@[simp] theorem setStrm_outSent (s : State) (i : Nat) (r : StreamRt) : (s.setStrm i r).outSent = s.outSent := rfl
@[simp] theorem setStrm_nextTag (s : State) (i : Nat) (r : StreamRt) : (s.setStrm i r).nextTag = s.nextTag := rfl
@[simp] theorem setStrm_quads (s : State) (i : Nat) (r : StreamRt) : (s.setStrm i r).quads = s.quads := rfl
@[simp] theorem setStrm_rotor (s : State) (i : Nat) (r : StreamRt) : (s.setStrm i r).rotor = s.rotor := rfl
@[simp] theorem setStrm_peerRx (s : State) (i : Nat) (r : StreamRt) : (s.setStrm i r).peerRx = s.peerRx := rfl
@[simp] theorem setStrm_netChurn (s : State) (i : Nat) (r : StreamRt) : (s.setStrm i r).netChurn = s.netChurn := rfl
@[simp] theorem setStrm_parFail (s : State) (i : Nat) (r : StreamRt) : (s.setStrm i r).parFail = s.parFail := rfl
@[simp] theorem setStrm_edgesDown (s : State) (i : Nat) (r : StreamRt) : (s.setStrm i r).edgesDown = s.edgesDown := rfl
@[simp] theorem setStrm_grain (s : State) (i : Nat) (r : StreamRt) : (s.setStrm i r).grain = s.grain := rfl
@[simp] theorem setStrm_flash (s : State) (i : Nat) (r : StreamRt) : (s.setStrm i r).flash = s.flash := rfl
@[simp] theorem setStrm_pins (s : State) (i : Nat) (r : StreamRt) : (s.setStrm i r).pins = s.pins := rfl
@[simp] theorem setStrm_boot (s : State) (i : Nat) (r : StreamRt) : (s.setStrm i r).boot = s.boot := rfl
@[simp] theorem setStrm_power (s : State) (i : Nat) (r : StreamRt) : (s.setStrm i r).power = s.power := rfl
@[simp] theorem setStrm_trust (s : State) (i : Nat) (r : StreamRt) : (s.setStrm i r).trust = s.trust := rfl
@[simp] theorem setStrm_cnt (s : State) (i : Nat) (r : StreamRt) : (s.setStrm i r).cnt = s.cnt := rfl
@[simp] theorem setStrm_outbox (s : State) (i : Nat) (r : StreamRt) : (s.setStrm i r).outbox = s.outbox := rfl
@[simp] theorem setStrm_time (s : State) (i : Nat) (r : StreamRt) : (s.setStrm i r).time = s.time := rfl
@[simp] theorem setStrm_churns (s : State) (i : Nat) (r : StreamRt) : (s.setStrm i r).churns = s.churns := rfl
@[simp] theorem setStrm_idleChurns (s : State) (i : Nat) (r : StreamRt) : (s.setStrm i r).idleChurns = s.idleChurns := rfl
@[simp] theorem setStrm_lastCommit (s : State) (i : Nat) (r : StreamRt) : (s.setStrm i r).lastCommit = s.lastCommit := rfl
@[simp] theorem setStrm_lastCkpt (s : State) (i : Nat) (r : StreamRt) : (s.setStrm i r).lastCkpt = s.lastCkpt := rfl
@[simp] theorem setStrm_dumpDue (s : State) (i : Nat) (r : StreamRt) : (s.setStrm i r).dumpDue = s.dumpDue := rfl
@[simp] theorem setStrm_dumps (s : State) (i : Nat) (r : StreamRt) : (s.setStrm i r).dumps = s.dumps := rfl
@[simp] theorem setStrm_dumpGone (s : State) (i : Nat) (r : StreamRt) : (s.setStrm i r).dumpGone = s.dumpGone := rfl
@[simp] theorem setStrm_failover (s : State) (i : Nat) (r : StreamRt) : (s.setStrm i r).failover = s.failover := rfl
@[simp] theorem setStrm_failed (s : State) (i : Nat) (r : StreamRt) : (s.setStrm i r).failed = s.failed := rfl
@[simp] theorem setStrm_resume (s : State) (i : Nat) (r : StreamRt) : (s.setStrm i r).resume = s.resume := rfl
@[simp] theorem setStrm_degCl (s : State) (i : Nat) (r : StreamRt) : (s.setStrm i r).degCl = s.degCl := rfl
@[simp] theorem setStrm_rotNext (s : State) (i : Nat) (r : StreamRt) : (s.setStrm i r).rotNext = s.rotNext := rfl
@[simp] theorem setStrm_stopped (s : State) (i : Nat) (r : StreamRt) : (s.setStrm i r).stopped = s.stopped := rfl
@[simp] theorem setStrm_freeCtr (s : State) (i : Nat) (r : StreamRt) : (s.setStrm i r).freeCtr = s.freeCtr := rfl

@[simp] theorem pipe_setPipe_same (s : State) (q : Nat) (p : Pipe) : (s.setPipe q p).pipe q = p := by
  simp [State.pipe, State.setPipe]

theorem pipe_setPipe_other (s : State) {q j : Nat} (p : Pipe) (h : j ≠ q) : (s.setPipe q p).pipe j = s.pipe j := by
  simp only [State.pipe, State.setPipe]; exact tabGetD_tabSet_other _ _ _ h

@[simp] theorem setPipe_pending (s : State) (q : Nat) (p : Pipe) : (s.setPipe q p).pending = s.pending := rfl
@[simp] theorem setPipe_func (s : State) (q : Nat) (p : Pipe) : (s.setPipe q p).func = s.func := rfl
@[simp] theorem setPipe_regs (s : State) (q : Nat) (p : Pipe) : (s.setPipe q p).regs = s.regs := rfl
@[simp] theorem setPipe_mem (s : State) (q : Nat) (p : Pipe) : (s.setPipe q p).mem = s.mem := rfl
@[simp] theorem setPipe_cmem (s : State) (q : Nat) (p : Pipe) : (s.setPipe q p).cmem = s.cmem := rfl
@[simp] theorem setPipe_host (s : State) (q : Nat) (p : Pipe) : (s.setPipe q p).host = s.host := rfl
@[simp] theorem setPipe_cores (s : State) (q : Nat) (p : Pipe) : (s.setPipe q p).cores = s.cores := rfl
@[simp] theorem setPipe_streams (s : State) (q : Nat) (p : Pipe) : (s.setPipe q p).streams = s.streams := rfl
@[simp] theorem setPipe_image (s : State) (q : Nat) (p : Pipe) : (s.setPipe q p).image = s.image := rfl
@[simp] theorem setPipe_reqs (s : State) (q : Nat) (p : Pipe) : (s.setPipe q p).reqs = s.reqs := rfl
@[simp] theorem setPipe_nextReq (s : State) (q : Nat) (p : Pipe) : (s.setPipe q p).nextReq = s.nextReq := rfl
@[simp] theorem setPipe_lines (s : State) (q : Nat) (p : Pipe) : (s.setPipe q p).lines = s.lines := rfl
@[simp] theorem setPipe_evicts (s : State) (q : Nat) (p : Pipe) : (s.setPipe q p).evicts = s.evicts := rfl
@[simp] theorem setPipe_fills (s : State) (q : Nat) (p : Pipe) : (s.setPipe q p).fills = s.fills := rfl
@[simp] theorem setPipe_plru (s : State) (q : Nat) (p : Pipe) : (s.setPipe q p).plru = s.plru := rfl
@[simp] theorem setPipe_setAcc (s : State) (q : Nat) (p : Pipe) : (s.setPipe q p).setAcc = s.setAcc := rfl
@[simp] theorem setPipe_thrash (s : State) (q : Nat) (p : Pipe) : (s.setPipe q p).thrash = s.thrash := rfl
@[simp] theorem setPipe_flushes (s : State) (q : Nat) (p : Pipe) : (s.setPipe q p).flushes = s.flushes := rfl
@[simp] theorem setPipe_ctls (s : State) (q : Nat) (p : Pipe) : (s.setPipe q p).ctls = s.ctls := rfl
@[simp] theorem setPipe_steps (s : State) (q : Nat) (p : Pipe) : (s.setPipe q p).steps = s.steps := rfl
@[simp] theorem setPipe_movers (s : State) (q : Nat) (p : Pipe) : (s.setPipe q p).movers = s.movers := rfl
@[simp] theorem setPipe_backs (s : State) (q : Nat) (p : Pipe) : (s.setPipe q p).backs = s.backs := rfl
@[simp] theorem setPipe_restored (s : State) (q : Nat) (p : Pipe) : (s.setPipe q p).restored = s.restored := rfl
@[simp] theorem setPipe_badAgain (s : State) (q : Nat) (p : Pipe) : (s.setPipe q p).badAgain = s.badAgain := rfl
@[simp] theorem setPipe_splits (s : State) (q : Nat) (p : Pipe) : (s.setPipe q p).splits = s.splits := rfl
@[simp] theorem setPipe_fillQ (s : State) (q : Nat) (p : Pipe) : (s.setPipe q p).fillQ = s.fillQ := rfl
@[simp] theorem setPipe_fillAt (s : State) (q : Nat) (p : Pipe) : (s.setPipe q p).fillAt = s.fillAt := rfl
@[simp] theorem setPipe_pageIds (s : State) (q : Nat) (p : Pipe) : (s.setPipe q p).pageIds = s.pageIds := rfl
@[simp] theorem setPipe_slots (s : State) (q : Nat) (p : Pipe) : (s.setPipe q p).slots = s.slots := rfl
@[simp] theorem setPipe_freeNext (s : State) (q : Nat) (p : Pipe) : (s.setPipe q p).freeNext = s.freeNext := rfl
@[simp] theorem setPipe_slotNext (s : State) (q : Nat) (p : Pipe) : (s.setPipe q p).slotNext = s.slotNext := rfl
@[simp] theorem setPipe_hpages (s : State) (q : Nat) (p : Pipe) : (s.setPipe q p).hpages = s.hpages := rfl
@[simp] theorem setPipe_stuck (s : State) (q : Nat) (p : Pipe) : (s.setPipe q p).stuck = s.stuck := rfl
@[simp] theorem setPipe_seqs (s : State) (q : Nat) (p : Pipe) : (s.setPipe q p).seqs = s.seqs := rfl
@[simp] theorem setPipe_nextOrder (s : State) (q : Nat) (p : Pipe) : (s.setPipe q p).nextOrder = s.nextOrder := rfl
@[simp] theorem setPipe_prefixes (s : State) (q : Nat) (p : Pipe) : (s.setPipe q p).prefixes = s.prefixes := rfl
@[simp] theorem setPipe_waves (s : State) (q : Nat) (p : Pipe) : (s.setPipe q p).waves = s.waves := rfl
@[simp] theorem setPipe_lastWave (s : State) (q : Nat) (p : Pipe) : (s.setPipe q p).lastWave = s.lastWave := rfl
@[simp] theorem setPipe_periods (s : State) (q : Nat) (p : Pipe) : (s.setPipe q p).periods = s.periods := rfl
@[simp] theorem setPipe_measure (s : State) (q : Nat) (p : Pipe) : (s.setPipe q p).measure = s.measure := rfl
@[simp] theorem setPipe_inserted (s : State) (q : Nat) (p : Pipe) : (s.setPipe q p).inserted = s.inserted := rfl
@[simp] theorem setPipe_regen (s : State) (q : Nat) (p : Pipe) : (s.setPipe q p).regen = s.regen := rfl
@[simp] theorem setPipe_regenPos (s : State) (q : Nat) (p : Pipe) : (s.setPipe q p).regenPos = s.regenPos := rfl
@[simp] theorem setPipe_regenBad (s : State) (q : Nat) (p : Pipe) : (s.setPipe q p).regenBad = s.regenBad := rfl
@[simp] theorem setPipe_waveCtl (s : State) (q : Nat) (p : Pipe) : (s.setPipe q p).waveCtl = s.waveCtl := rfl
@[simp] theorem setPipe_log (s : State) (q : Nat) (p : Pipe) : (s.setPipe q p).log = s.log := rfl
@[simp] theorem setPipe_rings (s : State) (q : Nat) (p : Pipe) : (s.setPipe q p).rings = s.rings := rfl
@[simp] theorem setPipe_compQ (s : State) (q : Nat) (p : Pipe) : (s.setPipe q p).compQ = s.compQ := rfl
@[simp] theorem setPipe_compSent (s : State) (q : Nat) (p : Pipe) : (s.setPipe q p).compSent = s.compSent := rfl
@[simp] theorem setPipe_evHeld (s : State) (q : Nat) (p : Pipe) : (s.setPipe q p).evHeld = s.evHeld := rfl
@[simp] theorem setPipe_evSent (s : State) (q : Nat) (p : Pipe) : (s.setPipe q p).evSent = s.evSent := rfl
@[simp] theorem setPipe_evLog (s : State) (q : Nat) (p : Pipe) : (s.setPipe q p).evLog = s.evLog := rfl
@[simp] theorem setPipe_outQ (s : State) (q : Nat) (p : Pipe) : (s.setPipe q p).outQ = s.outQ := rfl
@[simp] theorem setPipe_outSent (s : State) (q : Nat) (p : Pipe) : (s.setPipe q p).outSent = s.outSent := rfl
@[simp] theorem setPipe_nextTag (s : State) (q : Nat) (p : Pipe) : (s.setPipe q p).nextTag = s.nextTag := rfl
@[simp] theorem setPipe_quads (s : State) (q : Nat) (p : Pipe) : (s.setPipe q p).quads = s.quads := rfl
@[simp] theorem setPipe_rotor (s : State) (q : Nat) (p : Pipe) : (s.setPipe q p).rotor = s.rotor := rfl
@[simp] theorem setPipe_peerRx (s : State) (q : Nat) (p : Pipe) : (s.setPipe q p).peerRx = s.peerRx := rfl
@[simp] theorem setPipe_netChurn (s : State) (q : Nat) (p : Pipe) : (s.setPipe q p).netChurn = s.netChurn := rfl
@[simp] theorem setPipe_parFail (s : State) (q : Nat) (p : Pipe) : (s.setPipe q p).parFail = s.parFail := rfl
@[simp] theorem setPipe_edgesDown (s : State) (q : Nat) (p : Pipe) : (s.setPipe q p).edgesDown = s.edgesDown := rfl
@[simp] theorem setPipe_grain (s : State) (q : Nat) (p : Pipe) : (s.setPipe q p).grain = s.grain := rfl
@[simp] theorem setPipe_flash (s : State) (q : Nat) (p : Pipe) : (s.setPipe q p).flash = s.flash := rfl
@[simp] theorem setPipe_pins (s : State) (q : Nat) (p : Pipe) : (s.setPipe q p).pins = s.pins := rfl
@[simp] theorem setPipe_boot (s : State) (q : Nat) (p : Pipe) : (s.setPipe q p).boot = s.boot := rfl
@[simp] theorem setPipe_power (s : State) (q : Nat) (p : Pipe) : (s.setPipe q p).power = s.power := rfl
@[simp] theorem setPipe_trust (s : State) (q : Nat) (p : Pipe) : (s.setPipe q p).trust = s.trust := rfl
@[simp] theorem setPipe_cnt (s : State) (q : Nat) (p : Pipe) : (s.setPipe q p).cnt = s.cnt := rfl
@[simp] theorem setPipe_outbox (s : State) (q : Nat) (p : Pipe) : (s.setPipe q p).outbox = s.outbox := rfl
@[simp] theorem setPipe_time (s : State) (q : Nat) (p : Pipe) : (s.setPipe q p).time = s.time := rfl
@[simp] theorem setPipe_churns (s : State) (q : Nat) (p : Pipe) : (s.setPipe q p).churns = s.churns := rfl
@[simp] theorem setPipe_idleChurns (s : State) (q : Nat) (p : Pipe) : (s.setPipe q p).idleChurns = s.idleChurns := rfl
@[simp] theorem setPipe_lastCommit (s : State) (q : Nat) (p : Pipe) : (s.setPipe q p).lastCommit = s.lastCommit := rfl
@[simp] theorem setPipe_lastCkpt (s : State) (q : Nat) (p : Pipe) : (s.setPipe q p).lastCkpt = s.lastCkpt := rfl
@[simp] theorem setPipe_dumpDue (s : State) (q : Nat) (p : Pipe) : (s.setPipe q p).dumpDue = s.dumpDue := rfl
@[simp] theorem setPipe_dumps (s : State) (q : Nat) (p : Pipe) : (s.setPipe q p).dumps = s.dumps := rfl
@[simp] theorem setPipe_dumpGone (s : State) (q : Nat) (p : Pipe) : (s.setPipe q p).dumpGone = s.dumpGone := rfl
@[simp] theorem setPipe_failover (s : State) (q : Nat) (p : Pipe) : (s.setPipe q p).failover = s.failover := rfl
@[simp] theorem setPipe_failed (s : State) (q : Nat) (p : Pipe) : (s.setPipe q p).failed = s.failed := rfl
@[simp] theorem setPipe_resume (s : State) (q : Nat) (p : Pipe) : (s.setPipe q p).resume = s.resume := rfl
@[simp] theorem setPipe_degCl (s : State) (q : Nat) (p : Pipe) : (s.setPipe q p).degCl = s.degCl := rfl
@[simp] theorem setPipe_rotNext (s : State) (q : Nat) (p : Pipe) : (s.setPipe q p).rotNext = s.rotNext := rfl
@[simp] theorem setPipe_stopped (s : State) (q : Nat) (p : Pipe) : (s.setPipe q p).stopped = s.stopped := rfl
@[simp] theorem setPipe_freeCtr (s : State) (q : Nat) (p : Pipe) : (s.setPipe q p).freeCtr = s.freeCtr := rfl

@[simp] theorem ctl_setCtl_same (s : State) (c : Nat) (k : Controller) : (s.setCtl c k).ctl c = k := by
  simp [State.ctl, State.setCtl]

theorem ctl_setCtl_other (s : State) {c j : Nat} (k : Controller) (h : j ≠ c) : (s.setCtl c k).ctl j = s.ctl j := by
  simp only [State.ctl, State.setCtl]; exact tabGetD_tabSet_other _ _ _ h

@[simp] theorem setCtl_pending (s : State) (c : Nat) (k : Controller) : (s.setCtl c k).pending = s.pending := rfl
@[simp] theorem setCtl_func (s : State) (c : Nat) (k : Controller) : (s.setCtl c k).func = s.func := rfl
@[simp] theorem setCtl_regs (s : State) (c : Nat) (k : Controller) : (s.setCtl c k).regs = s.regs := rfl
@[simp] theorem setCtl_mem (s : State) (c : Nat) (k : Controller) : (s.setCtl c k).mem = s.mem := rfl
@[simp] theorem setCtl_cmem (s : State) (c : Nat) (k : Controller) : (s.setCtl c k).cmem = s.cmem := rfl
@[simp] theorem setCtl_host (s : State) (c : Nat) (k : Controller) : (s.setCtl c k).host = s.host := rfl
@[simp] theorem setCtl_cores (s : State) (c : Nat) (k : Controller) : (s.setCtl c k).cores = s.cores := rfl
@[simp] theorem setCtl_streams (s : State) (c : Nat) (k : Controller) : (s.setCtl c k).streams = s.streams := rfl
@[simp] theorem setCtl_image (s : State) (c : Nat) (k : Controller) : (s.setCtl c k).image = s.image := rfl
@[simp] theorem setCtl_reqs (s : State) (c : Nat) (k : Controller) : (s.setCtl c k).reqs = s.reqs := rfl
@[simp] theorem setCtl_nextReq (s : State) (c : Nat) (k : Controller) : (s.setCtl c k).nextReq = s.nextReq := rfl
@[simp] theorem setCtl_lines (s : State) (c : Nat) (k : Controller) : (s.setCtl c k).lines = s.lines := rfl
@[simp] theorem setCtl_evicts (s : State) (c : Nat) (k : Controller) : (s.setCtl c k).evicts = s.evicts := rfl
@[simp] theorem setCtl_fills (s : State) (c : Nat) (k : Controller) : (s.setCtl c k).fills = s.fills := rfl
@[simp] theorem setCtl_plru (s : State) (c : Nat) (k : Controller) : (s.setCtl c k).plru = s.plru := rfl
@[simp] theorem setCtl_setAcc (s : State) (c : Nat) (k : Controller) : (s.setCtl c k).setAcc = s.setAcc := rfl
@[simp] theorem setCtl_thrash (s : State) (c : Nat) (k : Controller) : (s.setCtl c k).thrash = s.thrash := rfl
@[simp] theorem setCtl_flushes (s : State) (c : Nat) (k : Controller) : (s.setCtl c k).flushes = s.flushes := rfl
@[simp] theorem setCtl_steps (s : State) (c : Nat) (k : Controller) : (s.setCtl c k).steps = s.steps := rfl
@[simp] theorem setCtl_movers (s : State) (c : Nat) (k : Controller) : (s.setCtl c k).movers = s.movers := rfl
@[simp] theorem setCtl_backs (s : State) (c : Nat) (k : Controller) : (s.setCtl c k).backs = s.backs := rfl
@[simp] theorem setCtl_restored (s : State) (c : Nat) (k : Controller) : (s.setCtl c k).restored = s.restored := rfl
@[simp] theorem setCtl_badAgain (s : State) (c : Nat) (k : Controller) : (s.setCtl c k).badAgain = s.badAgain := rfl
@[simp] theorem setCtl_splits (s : State) (c : Nat) (k : Controller) : (s.setCtl c k).splits = s.splits := rfl
@[simp] theorem setCtl_fillQ (s : State) (c : Nat) (k : Controller) : (s.setCtl c k).fillQ = s.fillQ := rfl
@[simp] theorem setCtl_fillAt (s : State) (c : Nat) (k : Controller) : (s.setCtl c k).fillAt = s.fillAt := rfl
@[simp] theorem setCtl_pipes (s : State) (c : Nat) (k : Controller) : (s.setCtl c k).pipes = s.pipes := rfl
@[simp] theorem setCtl_pageIds (s : State) (c : Nat) (k : Controller) : (s.setCtl c k).pageIds = s.pageIds := rfl
@[simp] theorem setCtl_slots (s : State) (c : Nat) (k : Controller) : (s.setCtl c k).slots = s.slots := rfl
@[simp] theorem setCtl_freeNext (s : State) (c : Nat) (k : Controller) : (s.setCtl c k).freeNext = s.freeNext := rfl
@[simp] theorem setCtl_slotNext (s : State) (c : Nat) (k : Controller) : (s.setCtl c k).slotNext = s.slotNext := rfl
@[simp] theorem setCtl_hpages (s : State) (c : Nat) (k : Controller) : (s.setCtl c k).hpages = s.hpages := rfl
@[simp] theorem setCtl_stuck (s : State) (c : Nat) (k : Controller) : (s.setCtl c k).stuck = s.stuck := rfl
@[simp] theorem setCtl_seqs (s : State) (c : Nat) (k : Controller) : (s.setCtl c k).seqs = s.seqs := rfl
@[simp] theorem setCtl_nextOrder (s : State) (c : Nat) (k : Controller) : (s.setCtl c k).nextOrder = s.nextOrder := rfl
@[simp] theorem setCtl_prefixes (s : State) (c : Nat) (k : Controller) : (s.setCtl c k).prefixes = s.prefixes := rfl
@[simp] theorem setCtl_waves (s : State) (c : Nat) (k : Controller) : (s.setCtl c k).waves = s.waves := rfl
@[simp] theorem setCtl_lastWave (s : State) (c : Nat) (k : Controller) : (s.setCtl c k).lastWave = s.lastWave := rfl
@[simp] theorem setCtl_periods (s : State) (c : Nat) (k : Controller) : (s.setCtl c k).periods = s.periods := rfl
@[simp] theorem setCtl_measure (s : State) (c : Nat) (k : Controller) : (s.setCtl c k).measure = s.measure := rfl
@[simp] theorem setCtl_inserted (s : State) (c : Nat) (k : Controller) : (s.setCtl c k).inserted = s.inserted := rfl
@[simp] theorem setCtl_regen (s : State) (c : Nat) (k : Controller) : (s.setCtl c k).regen = s.regen := rfl
@[simp] theorem setCtl_regenPos (s : State) (c : Nat) (k : Controller) : (s.setCtl c k).regenPos = s.regenPos := rfl
@[simp] theorem setCtl_regenBad (s : State) (c : Nat) (k : Controller) : (s.setCtl c k).regenBad = s.regenBad := rfl
@[simp] theorem setCtl_waveCtl (s : State) (c : Nat) (k : Controller) : (s.setCtl c k).waveCtl = s.waveCtl := rfl
@[simp] theorem setCtl_log (s : State) (c : Nat) (k : Controller) : (s.setCtl c k).log = s.log := rfl
@[simp] theorem setCtl_rings (s : State) (c : Nat) (k : Controller) : (s.setCtl c k).rings = s.rings := rfl
@[simp] theorem setCtl_compQ (s : State) (c : Nat) (k : Controller) : (s.setCtl c k).compQ = s.compQ := rfl
@[simp] theorem setCtl_compSent (s : State) (c : Nat) (k : Controller) : (s.setCtl c k).compSent = s.compSent := rfl
@[simp] theorem setCtl_evHeld (s : State) (c : Nat) (k : Controller) : (s.setCtl c k).evHeld = s.evHeld := rfl
@[simp] theorem setCtl_evSent (s : State) (c : Nat) (k : Controller) : (s.setCtl c k).evSent = s.evSent := rfl
@[simp] theorem setCtl_evLog (s : State) (c : Nat) (k : Controller) : (s.setCtl c k).evLog = s.evLog := rfl
@[simp] theorem setCtl_outQ (s : State) (c : Nat) (k : Controller) : (s.setCtl c k).outQ = s.outQ := rfl
@[simp] theorem setCtl_outSent (s : State) (c : Nat) (k : Controller) : (s.setCtl c k).outSent = s.outSent := rfl
@[simp] theorem setCtl_nextTag (s : State) (c : Nat) (k : Controller) : (s.setCtl c k).nextTag = s.nextTag := rfl
@[simp] theorem setCtl_quads (s : State) (c : Nat) (k : Controller) : (s.setCtl c k).quads = s.quads := rfl
@[simp] theorem setCtl_rotor (s : State) (c : Nat) (k : Controller) : (s.setCtl c k).rotor = s.rotor := rfl
@[simp] theorem setCtl_peerRx (s : State) (c : Nat) (k : Controller) : (s.setCtl c k).peerRx = s.peerRx := rfl
@[simp] theorem setCtl_netChurn (s : State) (c : Nat) (k : Controller) : (s.setCtl c k).netChurn = s.netChurn := rfl
@[simp] theorem setCtl_parFail (s : State) (c : Nat) (k : Controller) : (s.setCtl c k).parFail = s.parFail := rfl
@[simp] theorem setCtl_edgesDown (s : State) (c : Nat) (k : Controller) : (s.setCtl c k).edgesDown = s.edgesDown := rfl
@[simp] theorem setCtl_grain (s : State) (c : Nat) (k : Controller) : (s.setCtl c k).grain = s.grain := rfl
@[simp] theorem setCtl_flash (s : State) (c : Nat) (k : Controller) : (s.setCtl c k).flash = s.flash := rfl
@[simp] theorem setCtl_pins (s : State) (c : Nat) (k : Controller) : (s.setCtl c k).pins = s.pins := rfl
@[simp] theorem setCtl_boot (s : State) (c : Nat) (k : Controller) : (s.setCtl c k).boot = s.boot := rfl
@[simp] theorem setCtl_power (s : State) (c : Nat) (k : Controller) : (s.setCtl c k).power = s.power := rfl
@[simp] theorem setCtl_trust (s : State) (c : Nat) (k : Controller) : (s.setCtl c k).trust = s.trust := rfl
@[simp] theorem setCtl_cnt (s : State) (c : Nat) (k : Controller) : (s.setCtl c k).cnt = s.cnt := rfl
@[simp] theorem setCtl_outbox (s : State) (c : Nat) (k : Controller) : (s.setCtl c k).outbox = s.outbox := rfl
@[simp] theorem setCtl_time (s : State) (c : Nat) (k : Controller) : (s.setCtl c k).time = s.time := rfl
@[simp] theorem setCtl_churns (s : State) (c : Nat) (k : Controller) : (s.setCtl c k).churns = s.churns := rfl
@[simp] theorem setCtl_idleChurns (s : State) (c : Nat) (k : Controller) : (s.setCtl c k).idleChurns = s.idleChurns := rfl
@[simp] theorem setCtl_lastCommit (s : State) (c : Nat) (k : Controller) : (s.setCtl c k).lastCommit = s.lastCommit := rfl
@[simp] theorem setCtl_lastCkpt (s : State) (c : Nat) (k : Controller) : (s.setCtl c k).lastCkpt = s.lastCkpt := rfl
@[simp] theorem setCtl_dumpDue (s : State) (c : Nat) (k : Controller) : (s.setCtl c k).dumpDue = s.dumpDue := rfl
@[simp] theorem setCtl_dumps (s : State) (c : Nat) (k : Controller) : (s.setCtl c k).dumps = s.dumps := rfl
@[simp] theorem setCtl_dumpGone (s : State) (c : Nat) (k : Controller) : (s.setCtl c k).dumpGone = s.dumpGone := rfl
@[simp] theorem setCtl_failover (s : State) (c : Nat) (k : Controller) : (s.setCtl c k).failover = s.failover := rfl
@[simp] theorem setCtl_failed (s : State) (c : Nat) (k : Controller) : (s.setCtl c k).failed = s.failed := rfl
@[simp] theorem setCtl_resume (s : State) (c : Nat) (k : Controller) : (s.setCtl c k).resume = s.resume := rfl
@[simp] theorem setCtl_degCl (s : State) (c : Nat) (k : Controller) : (s.setCtl c k).degCl = s.degCl := rfl
@[simp] theorem setCtl_rotNext (s : State) (c : Nat) (k : Controller) : (s.setCtl c k).rotNext = s.rotNext := rfl
@[simp] theorem setCtl_stopped (s : State) (c : Nat) (k : Controller) : (s.setCtl c k).stopped = s.stopped := rfl
@[simp] theorem setCtl_freeCtr (s : State) (c : Nat) (k : Controller) : (s.setCtl c k).freeCtr = s.freeCtr := rfl

@[simp] theorem mover_setMover_same (s : State) (m : Nat) (x : Mover) : (s.setMover m x).mover m = x := by
  simp [State.mover, State.setMover]

theorem mover_setMover_other (s : State) {m j : Nat} (x : Mover) (h : j ≠ m) : (s.setMover m x).mover j = s.mover j := by
  simp only [State.mover, State.setMover]; exact tabGetD_tabSet_other _ _ _ h

@[simp] theorem setMover_pending (s : State) (m : Nat) (x : Mover) : (s.setMover m x).pending = s.pending := rfl
@[simp] theorem setMover_func (s : State) (m : Nat) (x : Mover) : (s.setMover m x).func = s.func := rfl
@[simp] theorem setMover_regs (s : State) (m : Nat) (x : Mover) : (s.setMover m x).regs = s.regs := rfl
@[simp] theorem setMover_mem (s : State) (m : Nat) (x : Mover) : (s.setMover m x).mem = s.mem := rfl
@[simp] theorem setMover_cmem (s : State) (m : Nat) (x : Mover) : (s.setMover m x).cmem = s.cmem := rfl
@[simp] theorem setMover_host (s : State) (m : Nat) (x : Mover) : (s.setMover m x).host = s.host := rfl
@[simp] theorem setMover_cores (s : State) (m : Nat) (x : Mover) : (s.setMover m x).cores = s.cores := rfl
@[simp] theorem setMover_streams (s : State) (m : Nat) (x : Mover) : (s.setMover m x).streams = s.streams := rfl
@[simp] theorem setMover_image (s : State) (m : Nat) (x : Mover) : (s.setMover m x).image = s.image := rfl
@[simp] theorem setMover_reqs (s : State) (m : Nat) (x : Mover) : (s.setMover m x).reqs = s.reqs := rfl
@[simp] theorem setMover_nextReq (s : State) (m : Nat) (x : Mover) : (s.setMover m x).nextReq = s.nextReq := rfl
@[simp] theorem setMover_lines (s : State) (m : Nat) (x : Mover) : (s.setMover m x).lines = s.lines := rfl
@[simp] theorem setMover_evicts (s : State) (m : Nat) (x : Mover) : (s.setMover m x).evicts = s.evicts := rfl
@[simp] theorem setMover_fills (s : State) (m : Nat) (x : Mover) : (s.setMover m x).fills = s.fills := rfl
@[simp] theorem setMover_plru (s : State) (m : Nat) (x : Mover) : (s.setMover m x).plru = s.plru := rfl
@[simp] theorem setMover_setAcc (s : State) (m : Nat) (x : Mover) : (s.setMover m x).setAcc = s.setAcc := rfl
@[simp] theorem setMover_thrash (s : State) (m : Nat) (x : Mover) : (s.setMover m x).thrash = s.thrash := rfl
@[simp] theorem setMover_flushes (s : State) (m : Nat) (x : Mover) : (s.setMover m x).flushes = s.flushes := rfl
@[simp] theorem setMover_ctls (s : State) (m : Nat) (x : Mover) : (s.setMover m x).ctls = s.ctls := rfl
@[simp] theorem setMover_steps (s : State) (m : Nat) (x : Mover) : (s.setMover m x).steps = s.steps := rfl
@[simp] theorem setMover_backs (s : State) (m : Nat) (x : Mover) : (s.setMover m x).backs = s.backs := rfl
@[simp] theorem setMover_restored (s : State) (m : Nat) (x : Mover) : (s.setMover m x).restored = s.restored := rfl
@[simp] theorem setMover_badAgain (s : State) (m : Nat) (x : Mover) : (s.setMover m x).badAgain = s.badAgain := rfl
@[simp] theorem setMover_splits (s : State) (m : Nat) (x : Mover) : (s.setMover m x).splits = s.splits := rfl
@[simp] theorem setMover_fillQ (s : State) (m : Nat) (x : Mover) : (s.setMover m x).fillQ = s.fillQ := rfl
@[simp] theorem setMover_fillAt (s : State) (m : Nat) (x : Mover) : (s.setMover m x).fillAt = s.fillAt := rfl
@[simp] theorem setMover_pipes (s : State) (m : Nat) (x : Mover) : (s.setMover m x).pipes = s.pipes := rfl
@[simp] theorem setMover_pageIds (s : State) (m : Nat) (x : Mover) : (s.setMover m x).pageIds = s.pageIds := rfl
@[simp] theorem setMover_slots (s : State) (m : Nat) (x : Mover) : (s.setMover m x).slots = s.slots := rfl
@[simp] theorem setMover_freeNext (s : State) (m : Nat) (x : Mover) : (s.setMover m x).freeNext = s.freeNext := rfl
@[simp] theorem setMover_slotNext (s : State) (m : Nat) (x : Mover) : (s.setMover m x).slotNext = s.slotNext := rfl
@[simp] theorem setMover_hpages (s : State) (m : Nat) (x : Mover) : (s.setMover m x).hpages = s.hpages := rfl
@[simp] theorem setMover_stuck (s : State) (m : Nat) (x : Mover) : (s.setMover m x).stuck = s.stuck := rfl
@[simp] theorem setMover_seqs (s : State) (m : Nat) (x : Mover) : (s.setMover m x).seqs = s.seqs := rfl
@[simp] theorem setMover_nextOrder (s : State) (m : Nat) (x : Mover) : (s.setMover m x).nextOrder = s.nextOrder := rfl
@[simp] theorem setMover_prefixes (s : State) (m : Nat) (x : Mover) : (s.setMover m x).prefixes = s.prefixes := rfl
@[simp] theorem setMover_waves (s : State) (m : Nat) (x : Mover) : (s.setMover m x).waves = s.waves := rfl
@[simp] theorem setMover_lastWave (s : State) (m : Nat) (x : Mover) : (s.setMover m x).lastWave = s.lastWave := rfl
@[simp] theorem setMover_periods (s : State) (m : Nat) (x : Mover) : (s.setMover m x).periods = s.periods := rfl
@[simp] theorem setMover_measure (s : State) (m : Nat) (x : Mover) : (s.setMover m x).measure = s.measure := rfl
@[simp] theorem setMover_inserted (s : State) (m : Nat) (x : Mover) : (s.setMover m x).inserted = s.inserted := rfl
@[simp] theorem setMover_regen (s : State) (m : Nat) (x : Mover) : (s.setMover m x).regen = s.regen := rfl
@[simp] theorem setMover_regenPos (s : State) (m : Nat) (x : Mover) : (s.setMover m x).regenPos = s.regenPos := rfl
@[simp] theorem setMover_regenBad (s : State) (m : Nat) (x : Mover) : (s.setMover m x).regenBad = s.regenBad := rfl
@[simp] theorem setMover_waveCtl (s : State) (m : Nat) (x : Mover) : (s.setMover m x).waveCtl = s.waveCtl := rfl
@[simp] theorem setMover_log (s : State) (m : Nat) (x : Mover) : (s.setMover m x).log = s.log := rfl
@[simp] theorem setMover_rings (s : State) (m : Nat) (x : Mover) : (s.setMover m x).rings = s.rings := rfl
@[simp] theorem setMover_compQ (s : State) (m : Nat) (x : Mover) : (s.setMover m x).compQ = s.compQ := rfl
@[simp] theorem setMover_compSent (s : State) (m : Nat) (x : Mover) : (s.setMover m x).compSent = s.compSent := rfl
@[simp] theorem setMover_evHeld (s : State) (m : Nat) (x : Mover) : (s.setMover m x).evHeld = s.evHeld := rfl
@[simp] theorem setMover_evSent (s : State) (m : Nat) (x : Mover) : (s.setMover m x).evSent = s.evSent := rfl
@[simp] theorem setMover_evLog (s : State) (m : Nat) (x : Mover) : (s.setMover m x).evLog = s.evLog := rfl
@[simp] theorem setMover_outQ (s : State) (m : Nat) (x : Mover) : (s.setMover m x).outQ = s.outQ := rfl
@[simp] theorem setMover_outSent (s : State) (m : Nat) (x : Mover) : (s.setMover m x).outSent = s.outSent := rfl
@[simp] theorem setMover_nextTag (s : State) (m : Nat) (x : Mover) : (s.setMover m x).nextTag = s.nextTag := rfl
@[simp] theorem setMover_quads (s : State) (m : Nat) (x : Mover) : (s.setMover m x).quads = s.quads := rfl
@[simp] theorem setMover_rotor (s : State) (m : Nat) (x : Mover) : (s.setMover m x).rotor = s.rotor := rfl
@[simp] theorem setMover_peerRx (s : State) (m : Nat) (x : Mover) : (s.setMover m x).peerRx = s.peerRx := rfl
@[simp] theorem setMover_netChurn (s : State) (m : Nat) (x : Mover) : (s.setMover m x).netChurn = s.netChurn := rfl
@[simp] theorem setMover_parFail (s : State) (m : Nat) (x : Mover) : (s.setMover m x).parFail = s.parFail := rfl
@[simp] theorem setMover_edgesDown (s : State) (m : Nat) (x : Mover) : (s.setMover m x).edgesDown = s.edgesDown := rfl
@[simp] theorem setMover_grain (s : State) (m : Nat) (x : Mover) : (s.setMover m x).grain = s.grain := rfl
@[simp] theorem setMover_flash (s : State) (m : Nat) (x : Mover) : (s.setMover m x).flash = s.flash := rfl
@[simp] theorem setMover_pins (s : State) (m : Nat) (x : Mover) : (s.setMover m x).pins = s.pins := rfl
@[simp] theorem setMover_boot (s : State) (m : Nat) (x : Mover) : (s.setMover m x).boot = s.boot := rfl
@[simp] theorem setMover_power (s : State) (m : Nat) (x : Mover) : (s.setMover m x).power = s.power := rfl
@[simp] theorem setMover_trust (s : State) (m : Nat) (x : Mover) : (s.setMover m x).trust = s.trust := rfl
@[simp] theorem setMover_cnt (s : State) (m : Nat) (x : Mover) : (s.setMover m x).cnt = s.cnt := rfl
@[simp] theorem setMover_outbox (s : State) (m : Nat) (x : Mover) : (s.setMover m x).outbox = s.outbox := rfl
@[simp] theorem setMover_time (s : State) (m : Nat) (x : Mover) : (s.setMover m x).time = s.time := rfl
@[simp] theorem setMover_churns (s : State) (m : Nat) (x : Mover) : (s.setMover m x).churns = s.churns := rfl
@[simp] theorem setMover_idleChurns (s : State) (m : Nat) (x : Mover) : (s.setMover m x).idleChurns = s.idleChurns := rfl
@[simp] theorem setMover_lastCommit (s : State) (m : Nat) (x : Mover) : (s.setMover m x).lastCommit = s.lastCommit := rfl
@[simp] theorem setMover_lastCkpt (s : State) (m : Nat) (x : Mover) : (s.setMover m x).lastCkpt = s.lastCkpt := rfl
@[simp] theorem setMover_dumpDue (s : State) (m : Nat) (x : Mover) : (s.setMover m x).dumpDue = s.dumpDue := rfl
@[simp] theorem setMover_dumps (s : State) (m : Nat) (x : Mover) : (s.setMover m x).dumps = s.dumps := rfl
@[simp] theorem setMover_dumpGone (s : State) (m : Nat) (x : Mover) : (s.setMover m x).dumpGone = s.dumpGone := rfl
@[simp] theorem setMover_failover (s : State) (m : Nat) (x : Mover) : (s.setMover m x).failover = s.failover := rfl
@[simp] theorem setMover_failed (s : State) (m : Nat) (x : Mover) : (s.setMover m x).failed = s.failed := rfl
@[simp] theorem setMover_resume (s : State) (m : Nat) (x : Mover) : (s.setMover m x).resume = s.resume := rfl
@[simp] theorem setMover_degCl (s : State) (m : Nat) (x : Mover) : (s.setMover m x).degCl = s.degCl := rfl
@[simp] theorem setMover_rotNext (s : State) (m : Nat) (x : Mover) : (s.setMover m x).rotNext = s.rotNext := rfl
@[simp] theorem setMover_stopped (s : State) (m : Nat) (x : Mover) : (s.setMover m x).stopped = s.stopped := rfl
@[simp] theorem setMover_freeCtr (s : State) (m : Nat) (x : Mover) : (s.setMover m x).freeCtr = s.freeCtr := rfl

@[simp] theorem seqs_setSeq_same (s : State) (i : Nat) (q : Sequence) : tabGet? (s.setSeq i q).seqs i = some q := by
  simp [State.setSeq]

@[simp] theorem setSeq_pending (s : State) (i : Nat) (q : Sequence) : (s.setSeq i q).pending = s.pending := rfl
@[simp] theorem setSeq_func (s : State) (i : Nat) (q : Sequence) : (s.setSeq i q).func = s.func := rfl
@[simp] theorem setSeq_regs (s : State) (i : Nat) (q : Sequence) : (s.setSeq i q).regs = s.regs := rfl
@[simp] theorem setSeq_mem (s : State) (i : Nat) (q : Sequence) : (s.setSeq i q).mem = s.mem := rfl
@[simp] theorem setSeq_cmem (s : State) (i : Nat) (q : Sequence) : (s.setSeq i q).cmem = s.cmem := rfl
@[simp] theorem setSeq_host (s : State) (i : Nat) (q : Sequence) : (s.setSeq i q).host = s.host := rfl
@[simp] theorem setSeq_cores (s : State) (i : Nat) (q : Sequence) : (s.setSeq i q).cores = s.cores := rfl
@[simp] theorem setSeq_streams (s : State) (i : Nat) (q : Sequence) : (s.setSeq i q).streams = s.streams := rfl
@[simp] theorem setSeq_image (s : State) (i : Nat) (q : Sequence) : (s.setSeq i q).image = s.image := rfl
@[simp] theorem setSeq_reqs (s : State) (i : Nat) (q : Sequence) : (s.setSeq i q).reqs = s.reqs := rfl
@[simp] theorem setSeq_nextReq (s : State) (i : Nat) (q : Sequence) : (s.setSeq i q).nextReq = s.nextReq := rfl
@[simp] theorem setSeq_lines (s : State) (i : Nat) (q : Sequence) : (s.setSeq i q).lines = s.lines := rfl
@[simp] theorem setSeq_evicts (s : State) (i : Nat) (q : Sequence) : (s.setSeq i q).evicts = s.evicts := rfl
@[simp] theorem setSeq_fills (s : State) (i : Nat) (q : Sequence) : (s.setSeq i q).fills = s.fills := rfl
@[simp] theorem setSeq_plru (s : State) (i : Nat) (q : Sequence) : (s.setSeq i q).plru = s.plru := rfl
@[simp] theorem setSeq_setAcc (s : State) (i : Nat) (q : Sequence) : (s.setSeq i q).setAcc = s.setAcc := rfl
@[simp] theorem setSeq_thrash (s : State) (i : Nat) (q : Sequence) : (s.setSeq i q).thrash = s.thrash := rfl
@[simp] theorem setSeq_flushes (s : State) (i : Nat) (q : Sequence) : (s.setSeq i q).flushes = s.flushes := rfl
@[simp] theorem setSeq_ctls (s : State) (i : Nat) (q : Sequence) : (s.setSeq i q).ctls = s.ctls := rfl
@[simp] theorem setSeq_steps (s : State) (i : Nat) (q : Sequence) : (s.setSeq i q).steps = s.steps := rfl
@[simp] theorem setSeq_movers (s : State) (i : Nat) (q : Sequence) : (s.setSeq i q).movers = s.movers := rfl
@[simp] theorem setSeq_backs (s : State) (i : Nat) (q : Sequence) : (s.setSeq i q).backs = s.backs := rfl
@[simp] theorem setSeq_restored (s : State) (i : Nat) (q : Sequence) : (s.setSeq i q).restored = s.restored := rfl
@[simp] theorem setSeq_badAgain (s : State) (i : Nat) (q : Sequence) : (s.setSeq i q).badAgain = s.badAgain := rfl
@[simp] theorem setSeq_splits (s : State) (i : Nat) (q : Sequence) : (s.setSeq i q).splits = s.splits := rfl
@[simp] theorem setSeq_fillQ (s : State) (i : Nat) (q : Sequence) : (s.setSeq i q).fillQ = s.fillQ := rfl
@[simp] theorem setSeq_fillAt (s : State) (i : Nat) (q : Sequence) : (s.setSeq i q).fillAt = s.fillAt := rfl
@[simp] theorem setSeq_pipes (s : State) (i : Nat) (q : Sequence) : (s.setSeq i q).pipes = s.pipes := rfl
@[simp] theorem setSeq_pageIds (s : State) (i : Nat) (q : Sequence) : (s.setSeq i q).pageIds = s.pageIds := rfl
@[simp] theorem setSeq_slots (s : State) (i : Nat) (q : Sequence) : (s.setSeq i q).slots = s.slots := rfl
@[simp] theorem setSeq_freeNext (s : State) (i : Nat) (q : Sequence) : (s.setSeq i q).freeNext = s.freeNext := rfl
@[simp] theorem setSeq_slotNext (s : State) (i : Nat) (q : Sequence) : (s.setSeq i q).slotNext = s.slotNext := rfl
@[simp] theorem setSeq_hpages (s : State) (i : Nat) (q : Sequence) : (s.setSeq i q).hpages = s.hpages := rfl
@[simp] theorem setSeq_stuck (s : State) (i : Nat) (q : Sequence) : (s.setSeq i q).stuck = s.stuck := rfl
@[simp] theorem setSeq_nextOrder (s : State) (i : Nat) (q : Sequence) : (s.setSeq i q).nextOrder = s.nextOrder := rfl
@[simp] theorem setSeq_prefixes (s : State) (i : Nat) (q : Sequence) : (s.setSeq i q).prefixes = s.prefixes := rfl
@[simp] theorem setSeq_waves (s : State) (i : Nat) (q : Sequence) : (s.setSeq i q).waves = s.waves := rfl
@[simp] theorem setSeq_lastWave (s : State) (i : Nat) (q : Sequence) : (s.setSeq i q).lastWave = s.lastWave := rfl
@[simp] theorem setSeq_periods (s : State) (i : Nat) (q : Sequence) : (s.setSeq i q).periods = s.periods := rfl
@[simp] theorem setSeq_measure (s : State) (i : Nat) (q : Sequence) : (s.setSeq i q).measure = s.measure := rfl
@[simp] theorem setSeq_inserted (s : State) (i : Nat) (q : Sequence) : (s.setSeq i q).inserted = s.inserted := rfl
@[simp] theorem setSeq_regen (s : State) (i : Nat) (q : Sequence) : (s.setSeq i q).regen = s.regen := rfl
@[simp] theorem setSeq_regenPos (s : State) (i : Nat) (q : Sequence) : (s.setSeq i q).regenPos = s.regenPos := rfl
@[simp] theorem setSeq_regenBad (s : State) (i : Nat) (q : Sequence) : (s.setSeq i q).regenBad = s.regenBad := rfl
@[simp] theorem setSeq_waveCtl (s : State) (i : Nat) (q : Sequence) : (s.setSeq i q).waveCtl = s.waveCtl := rfl
@[simp] theorem setSeq_log (s : State) (i : Nat) (q : Sequence) : (s.setSeq i q).log = s.log := rfl
@[simp] theorem setSeq_rings (s : State) (i : Nat) (q : Sequence) : (s.setSeq i q).rings = s.rings := rfl
@[simp] theorem setSeq_compQ (s : State) (i : Nat) (q : Sequence) : (s.setSeq i q).compQ = s.compQ := rfl
@[simp] theorem setSeq_compSent (s : State) (i : Nat) (q : Sequence) : (s.setSeq i q).compSent = s.compSent := rfl
@[simp] theorem setSeq_evHeld (s : State) (i : Nat) (q : Sequence) : (s.setSeq i q).evHeld = s.evHeld := rfl
@[simp] theorem setSeq_evSent (s : State) (i : Nat) (q : Sequence) : (s.setSeq i q).evSent = s.evSent := rfl
@[simp] theorem setSeq_evLog (s : State) (i : Nat) (q : Sequence) : (s.setSeq i q).evLog = s.evLog := rfl
@[simp] theorem setSeq_outQ (s : State) (i : Nat) (q : Sequence) : (s.setSeq i q).outQ = s.outQ := rfl
@[simp] theorem setSeq_outSent (s : State) (i : Nat) (q : Sequence) : (s.setSeq i q).outSent = s.outSent := rfl
@[simp] theorem setSeq_nextTag (s : State) (i : Nat) (q : Sequence) : (s.setSeq i q).nextTag = s.nextTag := rfl
@[simp] theorem setSeq_quads (s : State) (i : Nat) (q : Sequence) : (s.setSeq i q).quads = s.quads := rfl
@[simp] theorem setSeq_rotor (s : State) (i : Nat) (q : Sequence) : (s.setSeq i q).rotor = s.rotor := rfl
@[simp] theorem setSeq_peerRx (s : State) (i : Nat) (q : Sequence) : (s.setSeq i q).peerRx = s.peerRx := rfl
@[simp] theorem setSeq_netChurn (s : State) (i : Nat) (q : Sequence) : (s.setSeq i q).netChurn = s.netChurn := rfl
@[simp] theorem setSeq_parFail (s : State) (i : Nat) (q : Sequence) : (s.setSeq i q).parFail = s.parFail := rfl
@[simp] theorem setSeq_edgesDown (s : State) (i : Nat) (q : Sequence) : (s.setSeq i q).edgesDown = s.edgesDown := rfl
@[simp] theorem setSeq_grain (s : State) (i : Nat) (q : Sequence) : (s.setSeq i q).grain = s.grain := rfl
@[simp] theorem setSeq_flash (s : State) (i : Nat) (q : Sequence) : (s.setSeq i q).flash = s.flash := rfl
@[simp] theorem setSeq_pins (s : State) (i : Nat) (q : Sequence) : (s.setSeq i q).pins = s.pins := rfl
@[simp] theorem setSeq_boot (s : State) (i : Nat) (q : Sequence) : (s.setSeq i q).boot = s.boot := rfl
@[simp] theorem setSeq_power (s : State) (i : Nat) (q : Sequence) : (s.setSeq i q).power = s.power := rfl
@[simp] theorem setSeq_trust (s : State) (i : Nat) (q : Sequence) : (s.setSeq i q).trust = s.trust := rfl
@[simp] theorem setSeq_cnt (s : State) (i : Nat) (q : Sequence) : (s.setSeq i q).cnt = s.cnt := rfl
@[simp] theorem setSeq_outbox (s : State) (i : Nat) (q : Sequence) : (s.setSeq i q).outbox = s.outbox := rfl
@[simp] theorem setSeq_time (s : State) (i : Nat) (q : Sequence) : (s.setSeq i q).time = s.time := rfl
@[simp] theorem setSeq_churns (s : State) (i : Nat) (q : Sequence) : (s.setSeq i q).churns = s.churns := rfl
@[simp] theorem setSeq_idleChurns (s : State) (i : Nat) (q : Sequence) : (s.setSeq i q).idleChurns = s.idleChurns := rfl
@[simp] theorem setSeq_lastCommit (s : State) (i : Nat) (q : Sequence) : (s.setSeq i q).lastCommit = s.lastCommit := rfl
@[simp] theorem setSeq_lastCkpt (s : State) (i : Nat) (q : Sequence) : (s.setSeq i q).lastCkpt = s.lastCkpt := rfl
@[simp] theorem setSeq_dumpDue (s : State) (i : Nat) (q : Sequence) : (s.setSeq i q).dumpDue = s.dumpDue := rfl
@[simp] theorem setSeq_dumps (s : State) (i : Nat) (q : Sequence) : (s.setSeq i q).dumps = s.dumps := rfl
@[simp] theorem setSeq_dumpGone (s : State) (i : Nat) (q : Sequence) : (s.setSeq i q).dumpGone = s.dumpGone := rfl
@[simp] theorem setSeq_failover (s : State) (i : Nat) (q : Sequence) : (s.setSeq i q).failover = s.failover := rfl
@[simp] theorem setSeq_failed (s : State) (i : Nat) (q : Sequence) : (s.setSeq i q).failed = s.failed := rfl
@[simp] theorem setSeq_resume (s : State) (i : Nat) (q : Sequence) : (s.setSeq i q).resume = s.resume := rfl
@[simp] theorem setSeq_degCl (s : State) (i : Nat) (q : Sequence) : (s.setSeq i q).degCl = s.degCl := rfl
@[simp] theorem setSeq_rotNext (s : State) (i : Nat) (q : Sequence) : (s.setSeq i q).rotNext = s.rotNext := rfl
@[simp] theorem setSeq_stopped (s : State) (i : Nat) (q : Sequence) : (s.setSeq i q).stopped = s.stopped := rfl
@[simp] theorem setSeq_freeCtr (s : State) (i : Nat) (q : Sequence) : (s.setSeq i q).freeCtr = s.freeCtr := rfl

@[simp] theorem quad_setQuad_same (s : State) (q : Nat) (x : Quad) : (s.setQuad q x).quad q = x := by
  simp [State.quad, State.setQuad]

theorem quad_setQuad_other (s : State) {q j : Nat} (x : Quad) (h : j ≠ q) : (s.setQuad q x).quad j = s.quad j := by
  simp only [State.quad, State.setQuad]; exact tabGetD_tabSet_other _ _ _ h

@[simp] theorem setQuad_pending (s : State) (q : Nat) (x : Quad) : (s.setQuad q x).pending = s.pending := rfl
@[simp] theorem setQuad_func (s : State) (q : Nat) (x : Quad) : (s.setQuad q x).func = s.func := rfl
@[simp] theorem setQuad_regs (s : State) (q : Nat) (x : Quad) : (s.setQuad q x).regs = s.regs := rfl
@[simp] theorem setQuad_mem (s : State) (q : Nat) (x : Quad) : (s.setQuad q x).mem = s.mem := rfl
@[simp] theorem setQuad_cmem (s : State) (q : Nat) (x : Quad) : (s.setQuad q x).cmem = s.cmem := rfl
@[simp] theorem setQuad_host (s : State) (q : Nat) (x : Quad) : (s.setQuad q x).host = s.host := rfl
@[simp] theorem setQuad_cores (s : State) (q : Nat) (x : Quad) : (s.setQuad q x).cores = s.cores := rfl
@[simp] theorem setQuad_streams (s : State) (q : Nat) (x : Quad) : (s.setQuad q x).streams = s.streams := rfl
@[simp] theorem setQuad_image (s : State) (q : Nat) (x : Quad) : (s.setQuad q x).image = s.image := rfl
@[simp] theorem setQuad_reqs (s : State) (q : Nat) (x : Quad) : (s.setQuad q x).reqs = s.reqs := rfl
@[simp] theorem setQuad_nextReq (s : State) (q : Nat) (x : Quad) : (s.setQuad q x).nextReq = s.nextReq := rfl
@[simp] theorem setQuad_lines (s : State) (q : Nat) (x : Quad) : (s.setQuad q x).lines = s.lines := rfl
@[simp] theorem setQuad_evicts (s : State) (q : Nat) (x : Quad) : (s.setQuad q x).evicts = s.evicts := rfl
@[simp] theorem setQuad_fills (s : State) (q : Nat) (x : Quad) : (s.setQuad q x).fills = s.fills := rfl
@[simp] theorem setQuad_plru (s : State) (q : Nat) (x : Quad) : (s.setQuad q x).plru = s.plru := rfl
@[simp] theorem setQuad_setAcc (s : State) (q : Nat) (x : Quad) : (s.setQuad q x).setAcc = s.setAcc := rfl
@[simp] theorem setQuad_thrash (s : State) (q : Nat) (x : Quad) : (s.setQuad q x).thrash = s.thrash := rfl
@[simp] theorem setQuad_flushes (s : State) (q : Nat) (x : Quad) : (s.setQuad q x).flushes = s.flushes := rfl
@[simp] theorem setQuad_ctls (s : State) (q : Nat) (x : Quad) : (s.setQuad q x).ctls = s.ctls := rfl
@[simp] theorem setQuad_steps (s : State) (q : Nat) (x : Quad) : (s.setQuad q x).steps = s.steps := rfl
@[simp] theorem setQuad_movers (s : State) (q : Nat) (x : Quad) : (s.setQuad q x).movers = s.movers := rfl
@[simp] theorem setQuad_backs (s : State) (q : Nat) (x : Quad) : (s.setQuad q x).backs = s.backs := rfl
@[simp] theorem setQuad_restored (s : State) (q : Nat) (x : Quad) : (s.setQuad q x).restored = s.restored := rfl
@[simp] theorem setQuad_badAgain (s : State) (q : Nat) (x : Quad) : (s.setQuad q x).badAgain = s.badAgain := rfl
@[simp] theorem setQuad_splits (s : State) (q : Nat) (x : Quad) : (s.setQuad q x).splits = s.splits := rfl
@[simp] theorem setQuad_fillQ (s : State) (q : Nat) (x : Quad) : (s.setQuad q x).fillQ = s.fillQ := rfl
@[simp] theorem setQuad_fillAt (s : State) (q : Nat) (x : Quad) : (s.setQuad q x).fillAt = s.fillAt := rfl
@[simp] theorem setQuad_pipes (s : State) (q : Nat) (x : Quad) : (s.setQuad q x).pipes = s.pipes := rfl
@[simp] theorem setQuad_pageIds (s : State) (q : Nat) (x : Quad) : (s.setQuad q x).pageIds = s.pageIds := rfl
@[simp] theorem setQuad_slots (s : State) (q : Nat) (x : Quad) : (s.setQuad q x).slots = s.slots := rfl
@[simp] theorem setQuad_freeNext (s : State) (q : Nat) (x : Quad) : (s.setQuad q x).freeNext = s.freeNext := rfl
@[simp] theorem setQuad_slotNext (s : State) (q : Nat) (x : Quad) : (s.setQuad q x).slotNext = s.slotNext := rfl
@[simp] theorem setQuad_hpages (s : State) (q : Nat) (x : Quad) : (s.setQuad q x).hpages = s.hpages := rfl
@[simp] theorem setQuad_stuck (s : State) (q : Nat) (x : Quad) : (s.setQuad q x).stuck = s.stuck := rfl
@[simp] theorem setQuad_seqs (s : State) (q : Nat) (x : Quad) : (s.setQuad q x).seqs = s.seqs := rfl
@[simp] theorem setQuad_nextOrder (s : State) (q : Nat) (x : Quad) : (s.setQuad q x).nextOrder = s.nextOrder := rfl
@[simp] theorem setQuad_prefixes (s : State) (q : Nat) (x : Quad) : (s.setQuad q x).prefixes = s.prefixes := rfl
@[simp] theorem setQuad_waves (s : State) (q : Nat) (x : Quad) : (s.setQuad q x).waves = s.waves := rfl
@[simp] theorem setQuad_lastWave (s : State) (q : Nat) (x : Quad) : (s.setQuad q x).lastWave = s.lastWave := rfl
@[simp] theorem setQuad_periods (s : State) (q : Nat) (x : Quad) : (s.setQuad q x).periods = s.periods := rfl
@[simp] theorem setQuad_measure (s : State) (q : Nat) (x : Quad) : (s.setQuad q x).measure = s.measure := rfl
@[simp] theorem setQuad_inserted (s : State) (q : Nat) (x : Quad) : (s.setQuad q x).inserted = s.inserted := rfl
@[simp] theorem setQuad_regen (s : State) (q : Nat) (x : Quad) : (s.setQuad q x).regen = s.regen := rfl
@[simp] theorem setQuad_regenPos (s : State) (q : Nat) (x : Quad) : (s.setQuad q x).regenPos = s.regenPos := rfl
@[simp] theorem setQuad_regenBad (s : State) (q : Nat) (x : Quad) : (s.setQuad q x).regenBad = s.regenBad := rfl
@[simp] theorem setQuad_waveCtl (s : State) (q : Nat) (x : Quad) : (s.setQuad q x).waveCtl = s.waveCtl := rfl
@[simp] theorem setQuad_log (s : State) (q : Nat) (x : Quad) : (s.setQuad q x).log = s.log := rfl
@[simp] theorem setQuad_rings (s : State) (q : Nat) (x : Quad) : (s.setQuad q x).rings = s.rings := rfl
@[simp] theorem setQuad_compQ (s : State) (q : Nat) (x : Quad) : (s.setQuad q x).compQ = s.compQ := rfl
@[simp] theorem setQuad_compSent (s : State) (q : Nat) (x : Quad) : (s.setQuad q x).compSent = s.compSent := rfl
@[simp] theorem setQuad_evHeld (s : State) (q : Nat) (x : Quad) : (s.setQuad q x).evHeld = s.evHeld := rfl
@[simp] theorem setQuad_evSent (s : State) (q : Nat) (x : Quad) : (s.setQuad q x).evSent = s.evSent := rfl
@[simp] theorem setQuad_evLog (s : State) (q : Nat) (x : Quad) : (s.setQuad q x).evLog = s.evLog := rfl
@[simp] theorem setQuad_outQ (s : State) (q : Nat) (x : Quad) : (s.setQuad q x).outQ = s.outQ := rfl
@[simp] theorem setQuad_outSent (s : State) (q : Nat) (x : Quad) : (s.setQuad q x).outSent = s.outSent := rfl
@[simp] theorem setQuad_nextTag (s : State) (q : Nat) (x : Quad) : (s.setQuad q x).nextTag = s.nextTag := rfl
@[simp] theorem setQuad_rotor (s : State) (q : Nat) (x : Quad) : (s.setQuad q x).rotor = s.rotor := rfl
@[simp] theorem setQuad_peerRx (s : State) (q : Nat) (x : Quad) : (s.setQuad q x).peerRx = s.peerRx := rfl
@[simp] theorem setQuad_netChurn (s : State) (q : Nat) (x : Quad) : (s.setQuad q x).netChurn = s.netChurn := rfl
@[simp] theorem setQuad_parFail (s : State) (q : Nat) (x : Quad) : (s.setQuad q x).parFail = s.parFail := rfl
@[simp] theorem setQuad_edgesDown (s : State) (q : Nat) (x : Quad) : (s.setQuad q x).edgesDown = s.edgesDown := rfl
@[simp] theorem setQuad_grain (s : State) (q : Nat) (x : Quad) : (s.setQuad q x).grain = s.grain := rfl
@[simp] theorem setQuad_flash (s : State) (q : Nat) (x : Quad) : (s.setQuad q x).flash = s.flash := rfl
@[simp] theorem setQuad_pins (s : State) (q : Nat) (x : Quad) : (s.setQuad q x).pins = s.pins := rfl
@[simp] theorem setQuad_boot (s : State) (q : Nat) (x : Quad) : (s.setQuad q x).boot = s.boot := rfl
@[simp] theorem setQuad_power (s : State) (q : Nat) (x : Quad) : (s.setQuad q x).power = s.power := rfl
@[simp] theorem setQuad_trust (s : State) (q : Nat) (x : Quad) : (s.setQuad q x).trust = s.trust := rfl
@[simp] theorem setQuad_cnt (s : State) (q : Nat) (x : Quad) : (s.setQuad q x).cnt = s.cnt := rfl
@[simp] theorem setQuad_outbox (s : State) (q : Nat) (x : Quad) : (s.setQuad q x).outbox = s.outbox := rfl
@[simp] theorem setQuad_time (s : State) (q : Nat) (x : Quad) : (s.setQuad q x).time = s.time := rfl
@[simp] theorem setQuad_churns (s : State) (q : Nat) (x : Quad) : (s.setQuad q x).churns = s.churns := rfl
@[simp] theorem setQuad_idleChurns (s : State) (q : Nat) (x : Quad) : (s.setQuad q x).idleChurns = s.idleChurns := rfl
@[simp] theorem setQuad_lastCommit (s : State) (q : Nat) (x : Quad) : (s.setQuad q x).lastCommit = s.lastCommit := rfl
@[simp] theorem setQuad_lastCkpt (s : State) (q : Nat) (x : Quad) : (s.setQuad q x).lastCkpt = s.lastCkpt := rfl
@[simp] theorem setQuad_dumpDue (s : State) (q : Nat) (x : Quad) : (s.setQuad q x).dumpDue = s.dumpDue := rfl
@[simp] theorem setQuad_dumps (s : State) (q : Nat) (x : Quad) : (s.setQuad q x).dumps = s.dumps := rfl
@[simp] theorem setQuad_dumpGone (s : State) (q : Nat) (x : Quad) : (s.setQuad q x).dumpGone = s.dumpGone := rfl
@[simp] theorem setQuad_failover (s : State) (q : Nat) (x : Quad) : (s.setQuad q x).failover = s.failover := rfl
@[simp] theorem setQuad_failed (s : State) (q : Nat) (x : Quad) : (s.setQuad q x).failed = s.failed := rfl
@[simp] theorem setQuad_resume (s : State) (q : Nat) (x : Quad) : (s.setQuad q x).resume = s.resume := rfl
@[simp] theorem setQuad_degCl (s : State) (q : Nat) (x : Quad) : (s.setQuad q x).degCl = s.degCl := rfl
@[simp] theorem setQuad_rotNext (s : State) (q : Nat) (x : Quad) : (s.setQuad q x).rotNext = s.rotNext := rfl
@[simp] theorem setQuad_stopped (s : State) (q : Nat) (x : Quad) : (s.setQuad q x).stopped = s.stopped := rfl
@[simp] theorem setQuad_freeCtr (s : State) (q : Nat) (x : Quad) : (s.setQuad q x).freeCtr = s.freeCtr := rfl

@[simp] theorem lines_putLine_same (s : State) (ln : Nat) (l : Line) : tabGet? (s.putLine ln l).lines ln = some l := by
  simp [State.putLine]

@[simp] theorem putLine_pending (s : State) (ln : Nat) (l : Line) : (s.putLine ln l).pending = s.pending := rfl
@[simp] theorem putLine_func (s : State) (ln : Nat) (l : Line) : (s.putLine ln l).func = s.func := rfl
@[simp] theorem putLine_regs (s : State) (ln : Nat) (l : Line) : (s.putLine ln l).regs = s.regs := rfl
@[simp] theorem putLine_mem (s : State) (ln : Nat) (l : Line) : (s.putLine ln l).mem = s.mem := rfl
@[simp] theorem putLine_cmem (s : State) (ln : Nat) (l : Line) : (s.putLine ln l).cmem = s.cmem := rfl
@[simp] theorem putLine_host (s : State) (ln : Nat) (l : Line) : (s.putLine ln l).host = s.host := rfl
@[simp] theorem putLine_cores (s : State) (ln : Nat) (l : Line) : (s.putLine ln l).cores = s.cores := rfl
@[simp] theorem putLine_streams (s : State) (ln : Nat) (l : Line) : (s.putLine ln l).streams = s.streams := rfl
@[simp] theorem putLine_image (s : State) (ln : Nat) (l : Line) : (s.putLine ln l).image = s.image := rfl
@[simp] theorem putLine_reqs (s : State) (ln : Nat) (l : Line) : (s.putLine ln l).reqs = s.reqs := rfl
@[simp] theorem putLine_nextReq (s : State) (ln : Nat) (l : Line) : (s.putLine ln l).nextReq = s.nextReq := rfl
@[simp] theorem putLine_evicts (s : State) (ln : Nat) (l : Line) : (s.putLine ln l).evicts = s.evicts := rfl
@[simp] theorem putLine_fills (s : State) (ln : Nat) (l : Line) : (s.putLine ln l).fills = s.fills := rfl
@[simp] theorem putLine_plru (s : State) (ln : Nat) (l : Line) : (s.putLine ln l).plru = s.plru := rfl
@[simp] theorem putLine_setAcc (s : State) (ln : Nat) (l : Line) : (s.putLine ln l).setAcc = s.setAcc := rfl
@[simp] theorem putLine_thrash (s : State) (ln : Nat) (l : Line) : (s.putLine ln l).thrash = s.thrash := rfl
@[simp] theorem putLine_flushes (s : State) (ln : Nat) (l : Line) : (s.putLine ln l).flushes = s.flushes := rfl
@[simp] theorem putLine_ctls (s : State) (ln : Nat) (l : Line) : (s.putLine ln l).ctls = s.ctls := rfl
@[simp] theorem putLine_steps (s : State) (ln : Nat) (l : Line) : (s.putLine ln l).steps = s.steps := rfl
@[simp] theorem putLine_movers (s : State) (ln : Nat) (l : Line) : (s.putLine ln l).movers = s.movers := rfl
@[simp] theorem putLine_backs (s : State) (ln : Nat) (l : Line) : (s.putLine ln l).backs = s.backs := rfl
@[simp] theorem putLine_restored (s : State) (ln : Nat) (l : Line) : (s.putLine ln l).restored = s.restored := rfl
@[simp] theorem putLine_badAgain (s : State) (ln : Nat) (l : Line) : (s.putLine ln l).badAgain = s.badAgain := rfl
@[simp] theorem putLine_splits (s : State) (ln : Nat) (l : Line) : (s.putLine ln l).splits = s.splits := rfl
@[simp] theorem putLine_fillQ (s : State) (ln : Nat) (l : Line) : (s.putLine ln l).fillQ = s.fillQ := rfl
@[simp] theorem putLine_fillAt (s : State) (ln : Nat) (l : Line) : (s.putLine ln l).fillAt = s.fillAt := rfl
@[simp] theorem putLine_pipes (s : State) (ln : Nat) (l : Line) : (s.putLine ln l).pipes = s.pipes := rfl
@[simp] theorem putLine_pageIds (s : State) (ln : Nat) (l : Line) : (s.putLine ln l).pageIds = s.pageIds := rfl
@[simp] theorem putLine_slots (s : State) (ln : Nat) (l : Line) : (s.putLine ln l).slots = s.slots := rfl
@[simp] theorem putLine_freeNext (s : State) (ln : Nat) (l : Line) : (s.putLine ln l).freeNext = s.freeNext := rfl
@[simp] theorem putLine_slotNext (s : State) (ln : Nat) (l : Line) : (s.putLine ln l).slotNext = s.slotNext := rfl
@[simp] theorem putLine_hpages (s : State) (ln : Nat) (l : Line) : (s.putLine ln l).hpages = s.hpages := rfl
@[simp] theorem putLine_stuck (s : State) (ln : Nat) (l : Line) : (s.putLine ln l).stuck = s.stuck := rfl
@[simp] theorem putLine_seqs (s : State) (ln : Nat) (l : Line) : (s.putLine ln l).seqs = s.seqs := rfl
@[simp] theorem putLine_nextOrder (s : State) (ln : Nat) (l : Line) : (s.putLine ln l).nextOrder = s.nextOrder := rfl
@[simp] theorem putLine_prefixes (s : State) (ln : Nat) (l : Line) : (s.putLine ln l).prefixes = s.prefixes := rfl
@[simp] theorem putLine_waves (s : State) (ln : Nat) (l : Line) : (s.putLine ln l).waves = s.waves := rfl
@[simp] theorem putLine_lastWave (s : State) (ln : Nat) (l : Line) : (s.putLine ln l).lastWave = s.lastWave := rfl
@[simp] theorem putLine_periods (s : State) (ln : Nat) (l : Line) : (s.putLine ln l).periods = s.periods := rfl
@[simp] theorem putLine_measure (s : State) (ln : Nat) (l : Line) : (s.putLine ln l).measure = s.measure := rfl
@[simp] theorem putLine_inserted (s : State) (ln : Nat) (l : Line) : (s.putLine ln l).inserted = s.inserted := rfl
@[simp] theorem putLine_regen (s : State) (ln : Nat) (l : Line) : (s.putLine ln l).regen = s.regen := rfl
@[simp] theorem putLine_regenPos (s : State) (ln : Nat) (l : Line) : (s.putLine ln l).regenPos = s.regenPos := rfl
@[simp] theorem putLine_regenBad (s : State) (ln : Nat) (l : Line) : (s.putLine ln l).regenBad = s.regenBad := rfl
@[simp] theorem putLine_waveCtl (s : State) (ln : Nat) (l : Line) : (s.putLine ln l).waveCtl = s.waveCtl := rfl
@[simp] theorem putLine_log (s : State) (ln : Nat) (l : Line) : (s.putLine ln l).log = s.log := rfl
@[simp] theorem putLine_rings (s : State) (ln : Nat) (l : Line) : (s.putLine ln l).rings = s.rings := rfl
@[simp] theorem putLine_compQ (s : State) (ln : Nat) (l : Line) : (s.putLine ln l).compQ = s.compQ := rfl
@[simp] theorem putLine_compSent (s : State) (ln : Nat) (l : Line) : (s.putLine ln l).compSent = s.compSent := rfl
@[simp] theorem putLine_evHeld (s : State) (ln : Nat) (l : Line) : (s.putLine ln l).evHeld = s.evHeld := rfl
@[simp] theorem putLine_evSent (s : State) (ln : Nat) (l : Line) : (s.putLine ln l).evSent = s.evSent := rfl
@[simp] theorem putLine_evLog (s : State) (ln : Nat) (l : Line) : (s.putLine ln l).evLog = s.evLog := rfl
@[simp] theorem putLine_outQ (s : State) (ln : Nat) (l : Line) : (s.putLine ln l).outQ = s.outQ := rfl
@[simp] theorem putLine_outSent (s : State) (ln : Nat) (l : Line) : (s.putLine ln l).outSent = s.outSent := rfl
@[simp] theorem putLine_nextTag (s : State) (ln : Nat) (l : Line) : (s.putLine ln l).nextTag = s.nextTag := rfl
@[simp] theorem putLine_quads (s : State) (ln : Nat) (l : Line) : (s.putLine ln l).quads = s.quads := rfl
@[simp] theorem putLine_rotor (s : State) (ln : Nat) (l : Line) : (s.putLine ln l).rotor = s.rotor := rfl
@[simp] theorem putLine_peerRx (s : State) (ln : Nat) (l : Line) : (s.putLine ln l).peerRx = s.peerRx := rfl
@[simp] theorem putLine_netChurn (s : State) (ln : Nat) (l : Line) : (s.putLine ln l).netChurn = s.netChurn := rfl
@[simp] theorem putLine_parFail (s : State) (ln : Nat) (l : Line) : (s.putLine ln l).parFail = s.parFail := rfl
@[simp] theorem putLine_edgesDown (s : State) (ln : Nat) (l : Line) : (s.putLine ln l).edgesDown = s.edgesDown := rfl
@[simp] theorem putLine_grain (s : State) (ln : Nat) (l : Line) : (s.putLine ln l).grain = s.grain := rfl
@[simp] theorem putLine_flash (s : State) (ln : Nat) (l : Line) : (s.putLine ln l).flash = s.flash := rfl
@[simp] theorem putLine_pins (s : State) (ln : Nat) (l : Line) : (s.putLine ln l).pins = s.pins := rfl
@[simp] theorem putLine_boot (s : State) (ln : Nat) (l : Line) : (s.putLine ln l).boot = s.boot := rfl
@[simp] theorem putLine_power (s : State) (ln : Nat) (l : Line) : (s.putLine ln l).power = s.power := rfl
@[simp] theorem putLine_trust (s : State) (ln : Nat) (l : Line) : (s.putLine ln l).trust = s.trust := rfl
@[simp] theorem putLine_cnt (s : State) (ln : Nat) (l : Line) : (s.putLine ln l).cnt = s.cnt := rfl
@[simp] theorem putLine_outbox (s : State) (ln : Nat) (l : Line) : (s.putLine ln l).outbox = s.outbox := rfl
@[simp] theorem putLine_time (s : State) (ln : Nat) (l : Line) : (s.putLine ln l).time = s.time := rfl
@[simp] theorem putLine_churns (s : State) (ln : Nat) (l : Line) : (s.putLine ln l).churns = s.churns := rfl
@[simp] theorem putLine_idleChurns (s : State) (ln : Nat) (l : Line) : (s.putLine ln l).idleChurns = s.idleChurns := rfl
@[simp] theorem putLine_lastCommit (s : State) (ln : Nat) (l : Line) : (s.putLine ln l).lastCommit = s.lastCommit := rfl
@[simp] theorem putLine_lastCkpt (s : State) (ln : Nat) (l : Line) : (s.putLine ln l).lastCkpt = s.lastCkpt := rfl
@[simp] theorem putLine_dumpDue (s : State) (ln : Nat) (l : Line) : (s.putLine ln l).dumpDue = s.dumpDue := rfl
@[simp] theorem putLine_dumps (s : State) (ln : Nat) (l : Line) : (s.putLine ln l).dumps = s.dumps := rfl
@[simp] theorem putLine_dumpGone (s : State) (ln : Nat) (l : Line) : (s.putLine ln l).dumpGone = s.dumpGone := rfl
@[simp] theorem putLine_failover (s : State) (ln : Nat) (l : Line) : (s.putLine ln l).failover = s.failover := rfl
@[simp] theorem putLine_failed (s : State) (ln : Nat) (l : Line) : (s.putLine ln l).failed = s.failed := rfl
@[simp] theorem putLine_resume (s : State) (ln : Nat) (l : Line) : (s.putLine ln l).resume = s.resume := rfl
@[simp] theorem putLine_degCl (s : State) (ln : Nat) (l : Line) : (s.putLine ln l).degCl = s.degCl := rfl
@[simp] theorem putLine_rotNext (s : State) (ln : Nat) (l : Line) : (s.putLine ln l).rotNext = s.rotNext := rfl
@[simp] theorem putLine_stopped (s : State) (ln : Nat) (l : Line) : (s.putLine ln l).stopped = s.stopped := rfl
@[simp] theorem putLine_freeCtr (s : State) (ln : Nat) (l : Line) : (s.putLine ln l).freeCtr = s.freeCtr := rfl

end Sys2Proof.Machine
end

