-- ==== Sys2Proof/WellFormed.lean ====
section
/-!
DEFINITION. WellFormed.lean: the commands that the outside world can send: operands in the ranges and sizes
that the spec gives them.
-/
namespace Sys2Proof

/-- A head dimension that R332 allows: 16 to 128 in steps of 16. -/
def headDimOk (d : Nat) : Bool := decide (16 ≤ d) && decide (d ≤ 128) && decide (d % 16 = 0)

/-- A key and a value of one token: equal head dimensions (R332, R343). -/
def keyValueOk (key val : List (BitVec 16)) : Bool :=
  headDimOk key.length && headDimOk val.length && decide (key.length = val.length)

/-- At most one sampled token per lane (R299, R304). -/
def sampledOk (l : List (Fin 8 × BitVec 32)) : Bool := decide (l.map (·.1)).Nodup

/-- A churn reads every die and every HBM stack (R678, R712, R714). -/
def churnOk (c : ChurnSample) : Bool := decide (c.dieTemp.length = 12) && decide (c.hbmTemp.length = 8)

/-- The phase currents of a window, one list per stack (R697). -/
def powerOk (m : PowerSample) : Bool := decide (m.phases.length = 4) && m.phases.all fun l => decide (l.length = 32)

/-- A host write through an HDM window carries 64 bytes and a byte mask, at a 64-byte line (R537). -/
def hdmWriteOk (pa : BitVec 48) (data : List Byte) : Bool :=
  decide (pa.toNat % 64 = 0) && decide (data.length = 64)

/-- A host read through an HDM window reads whole 64-byte lines (R537). -/
def hdmReadOk (pa : BitVec 48) (len : Nat) : Bool :=
  decide (pa.toNat % 64 = 0) && decide (len % 64 = 0) && decide (0 < len)

/-- An access of 1, 2, 4 or 8 bytes inside BAR0 (R10, R500). -/
def accessOk (off bytes : Nat) : Bool :=
  (bytes == 1 || bytes == 2 || bytes == 4 || bytes == 8) && decide (off + bytes ≤ 2 ^ 26)

/-- A TIER command names 1 to 64 descriptors (R516, R527). -/
def tierOk (descs : List DescWords) : Bool := decide (descs.length ≤ 64)

/-- A frame is 288 bytes (R563). -/
def frameOk (f : List Byte) : Bool := decide (f.length = 288)

/-- A submission doorbell hands over at most a ring of entries (R504, R507). -/
def doorbellOk (entries : List HostCmd) (i : Fin 64) : Bool :=
  decide (entries.length < 65536) && entries.all fun c => decide (c.sq = i)

/-- A ring enable writes EN = 1, a disable EN = 0 (R505, R512). -/
def enableOk (v : Word) (en : Bool) : Bool := v.getLsbD 63 == en

/-- The trace ring has 2^8 to 2^20 entries (R778). -/
def traceOk (v : Word) : Bool :=
  v.getLsbD 63 && decide (8 ≤ v.toNat % 32) && decide (v.toNat % 32 ≤ 20)

/-- Well-formed commands. -/
def Instr.wf : Instr → Bool
  | .kvAppend _ _ key val => keyValueOk key val
  | .waveBoundary sampled => sampledOk sampled
  | .churn c => churnOk c
  | .powerWindow m => powerOk m
  | .hdmRead _ pa len => hdmReadOk pa len
  | .hdmWrite _ pa _ data => hdmWriteOk pa data
  | .registerWrite _ off bytes _ => accessOk off bytes
  | .hostTier _ descs _ => tierOk descs
  | .frameReceive _ f => frameOk f
  | .submissionDoorbell i _ entries => doorbellOk entries i
  | .ringEnable _ _ v => enableOk v true
  | .ringDisable _ _ v => enableOk v false
  | .traceRingEnable _ v => traceOk v
  | _ => true

end Sys2Proof
end

