-- ==== Sys2Proof/Tests/Slice0.lean ====
section
/-!
SUPPORT. Slice0.lean: the model's own tests: well-formedness, instruction words written out from the encodings, the worked
examples of the specification, and for each statement with hypotheses a state and operands that meet them (test_met_…).
-/
namespace Sys2Proof.Tests

set_option Elab.async false

open Sys2Proof Sys2Proof.Machine

/-! Helpers. -/

/-- A condition on the next state that an outcome answers. -/
def onNext (o : Host.Outcome State Fault Refusal) (p : State → Bool) : Bool :=
  match o with
  | .next t => p t
  | _ => false

/-- The device at stage 8 with port A up and holding the lease. -/
def live0 : State :=
  State.setField (((({ State.reset with boot := { State.reset.boot with running := none } }).setField offBOOT 3 0 8).setBit
    offHQ 2)) offHQ 1 0 1

def u0 : Issue := { core := 0, ctx := .d }
def u1 : Issue := { core := 0, ctx := .p }
def f0 : Fields := { dst := 0, srca := 0, srcb := 0, imm := 0 }
def fi (n : BitVec 34) : Fields := { f0 with imm := n }

/-- A context with a program of 512 instructions. -/
def ctx0 : Context := { Context.zero with active := true, lo := 0, hi := 4096 }

/-- Context D of core 0 may issue, with a register set. -/
def run0 : State := live0.setCtx 0 .d ctx0
def runWith (x : Context) : State := live0.setCtx 0 .d x

def g0 : GIssue := { core := 0, gctx := 0, lane := 0 }
def sub0 : Subgroup := { pc := 0x100#20, mask := 0xFFFFFFFF#32, entry := none, atRcv := false, fence := none }
def grpCtx0 : GroupCtx := { GroupCtx.zero with busy := true, entryPc := 0#20, stopPc := 0x1000#20, subs := [sub0], count := 1 }

/-- Group context 0 of core 0 runs with all lanes. -/
def runG (x : GroupCtx) : State := live0.setGrp 0 0 x
def grp0 : State := runG grpCtx0

def h0 : HostCmd :=
  { sq := 0, opc := 0, cid := 1, fence := false, seq := 0, rsv0 := 0, w1 := 0, w2 := 0, w3 := 0, w4 := 0, w5 := 0, w6 := 0,
    w7 := 0 }

def churn0 : ChurnSample :=
  { dieTemp := List.replicate 12 30, hbmTemp := List.replicate 8 30, bondTests := [], badRows := [], spareFail := [] }
def power0 : PowerSample := { p := 1000, vin := 48000, vaux := 3300, rails := [], phases := List.replicate 4 (List.replicate 32 0) }

/-! Well-formedness: each check refuses an ill-formed command and takes a well-formed one. -/

theorem test_wf_refuses :
    Instr.wf (.kvAppend 0 0 (List.replicate 24 0#16) (List.replicate 24 0#16)) = false ∧
    Instr.wf (.kvAppend 0 0 (List.replicate 16 0#16) (List.replicate 32 0#16)) = false ∧
    Instr.wf (.waveBoundary [(0, 1#32), (0, 2#32)]) = false ∧
    Instr.wf (.churn { churn0 with dieTemp := [] }) = false ∧ Instr.wf (.churn { churn0 with hbmTemp := [] }) = false ∧
    Instr.wf (.powerWindow { power0 with phases := [] }) = false ∧ Instr.wf (.hdmRead .a 1#48 64) = false ∧
    Instr.wf (.hdmRead .a 0#48 0) = false ∧ Instr.wf (.hdmWrite .a 0#48 0#64 []) = false ∧
    Instr.wf (.registerWrite .a 0 3 .read) = false ∧ Instr.wf (.registerWrite .a 0x3FFFFFC 8 (.write 0#64)) = false ∧
    Instr.wf (.frameReceive 0 []) = false ∧ Instr.wf (.submissionDoorbell 1 ⟨0#64, true⟩ [h0]) = false ∧
    Instr.wf (.ringEnable .a (.sub 0) 6#64) = false ∧ Instr.wf (.ringDisable .a (.sub 0) 0x8000000000000006#64) = false ∧
    Instr.wf (.traceRingEnable .a 0x8000000000000007#64) = false ∧
    Instr.wf (.traceRingEnable .a 0x8000000000000015#64) = false := by decide

theorem test_wf_refuses_tier_of_65_descriptors :
    Instr.wf (.hostTier h0 (List.replicate 65 { w0 := 0, w1 := 0, w2 := 0, w3 := 0, w4 := 0, w5 := 0, w6 := 0, w7 := 0 }) true) =
      false := by decide

theorem test_wf_takes :
    Instr.wf (.kvAppend 0 0 (List.replicate 128 0#16) (List.replicate 128 0#16)) = true ∧
    Instr.wf (.waveBoundary [(0, 1#32), (7, 2#32)]) = true ∧ Instr.wf (.churn churn0) = true ∧
    Instr.wf (.powerWindow power0) = true ∧ Instr.wf (.hdmRead .a 64#48 128) = true ∧
    Instr.wf (.hdmWrite .a 64#48 1#64 (List.replicate 64 0#8)) = true ∧ Instr.wf (.registerWrite .a 0x3FFFFF8 8 (.write 0#64)) = true ∧
    Instr.wf (.frameReceive 0 (List.replicate 288 0#8)) = true ∧ Instr.wf (.submissionDoorbell 0 ⟨0#64, false⟩ [h0]) = true ∧
    Instr.wf (.ringEnable .a (.sub 0) 0x8000000000000006#64) = true ∧ Instr.wf (.ringDisable .a (.sub 0) 6#64) = true ∧
    Instr.wf (.traceRingEnable .a 0x8000000000000008#64) = true ∧ Instr.wf (.nop u0 f0) = true := by decide +kernel

/-! Instruction words: MAJOR [63:58], MINOR [57:52], DST [51:46], SRCA [45:40], SRCB [39:34], IMM [33:0] (R386). -/

theorem test_word_branch : decodeStation u0 0x0010000000000003#64 = some (.br u0 { f0 with imm := 3 }) := by decide
theorem test_word_wave : decodeStation u0 0x0400400000000000#64 = some (.wnext u0 { f0 with dst := 1 }) := by decide
theorem test_word_scalar :
    decodeStation u0 0x1000C2120000000A#64 = some (.add u0 { dst := 3, srca := 2, srcb := 4, imm := 0x20000000A }) := by decide
theorem test_word_special : decodeStation u0 0x1810420000000000#64 = some (.msr u0 { f0 with dst := 1, srca := 2 }) := by decide
theorem test_word_vector : decodeStation u0 0x2000820C00000000#64 = some (.vadd u0 { dst := 2, srca := 2, srcb := 3, imm := 0 }) := by
  decide
theorem test_word_convert : decodeStation u0 0x2400820000100000#64 = some (.vcvt u0 { f0 with dst := 2, srca := 2, imm := 0x100000 }) := by
  decide
theorem test_word_integer : decodeStation u0 0x2860820C00000000#64 = some (.vshl u0 { dst := 2, srca := 2, srcb := 3, imm := 0 }) := by
  decide
theorem test_word_cross : decodeStation u0 0x2C00820000000000#64 = some (.vrsum u0 { f0 with dst := 2, srca := 2 }) := by decide
theorem test_word_memory : decodeStation u0 0x5410020C00000040#64 = some (.stc u0 { dst := 0, srca := 2, srcb := 3, imm := 0x40 }) := by
  decide
theorem test_word_stream : decodeStation u0 0x6000400040000000#64 = some (.srx u0 { f0 with dst := 1, imm := 0x40000000 }) := by
  decide
theorem test_word_attention : decodeStation u0 0x7010010000000000#64 = some (.astart u0 { f0 with srca := 1 }) := by decide
theorem test_word_tier : decodeStation u0 0x7400010040000000#64 = some (.tmv u0 { f0 with srca := 1, imm := 0x40000000 }) := by
  decide
theorem test_word_launch : decodeStation u0 0x8000420000000000#64 = some (.gln u0 { f0 with dst := 1, srca := 2 }) := by decide
theorem test_word_group :
    decodeGroup g0 0xC000000000000000#64 = some (.gnop g0 f0) ∧
    decodeGroup g0 0xC400410808000005#64 = some (.iadd g0 { dst := 1, srca := 1, srcb := 2, imm := 0x8000005 }) ∧
    decodeGroup g0 0xC830410C10000000#64 = some (.ffma g0 { dst := 1, srca := 1, srcb := 3, imm := 0x10000000 }) ∧
    decodeGroup g0 0xCC00410800000000#64 = some (.uadd g0 { dst := 1, srca := 1, srcb := 2, imm := 0 }) ∧
    decodeGroup g0 0xD000410800000000#64 = some (.shfl g0 { dst := 1, srca := 1, srcb := 2, imm := 0 }) ∧
    decodeGroup g0 0xD440410800000000#64 = some (.gatom g0 { dst := 1, srca := 1, srcb := 2, imm := 0 }) ∧
    decodeGroup g0 0xD810400000000005#64 = some (.gspec g0 { f0 with dst := 1, imm := 5 }) := by decide
theorem test_word_reserved :
    decodeStation u0 0x00C0000000000000#64 = none ∧ decodeGroup g0 0xC070000000000000#64 = none ∧
    decodeStation u0 0xFFF0000000000000#64 = none := by decide

/-! Worked examples of the specification. -/

/-- The encodings of spec/03: FP32 into FP16, BF16 and F8. -/
theorem test_conversion_table :
    let row (x : Nat) := ((toIeee fmt16 modeIeee (unpack fmt32 x)).1, (toBf (unpack fmt32 x)).1, toF8 (unpack fmt32 x))
    row 0x3F800000 = (0x3C00, 0x3F80, 0x40, 0#5) ∧ row 0xC0760000 = (0xC3B0, 0xC076, 0xCF, flInx) ∧
    row 0x3DCCCCCD = (0x2E66, 0x3DCD, 0x25, flInx) ∧ row 0x43700000 = (0x5B80, 0x4370, 0x7F, 0#5) ∧
    row 0x43960000 = (0x5CB0, 0x4396, 0x7F, flOfl ||| flInx) ∧ row 0xFF800000 = (0xFC00, 0xFF80, 0xFF, flOfl) := by
  decide +kernel

/-- 3 times 2^-9 into F8: 0x08 with UFL and INX; a NaN: 240 with INV (spec/03). -/
theorem test_conversion_underflow_and_nan :
    toF8 (unpack fmt32 0x3BC00000) = (0x08, flUfl ||| flInx) ∧ toF8 (unpack fmt32 0x7FC00000) = (0x7F, flInv) := by
  decide +kernel

/-- 70,000 into FP16 with and without saturation, and towards zero (spec/03). -/
theorem test_conversion_overflow :
    toIeee fmt16 { rnd := .near, sat := true } (unpack fmt32 0x4788B800) = (0x7BFF, flOfl ||| flInx) ∧
    toIeee fmt16 modeIeee (unpack fmt32 0x4788B800) = (0x7C00, flOfl ||| flInx) ∧
    (toIeee fmt16 { rnd := .zero, sat := false } (unpack fmt32 0x4788B800)).1 = 0x7BFF := by decide +kernel

/-- -3.84375 times 4 narrows to the A8 code 0xF1 with INX (spec/03). -/
theorem test_conversion_a8 :
    live0.convertElem 0 .fp32 .a8 0xC0760000 0x40800000 0 = (0xF1, flInx) := by decide +kernel

/-- The Q2 column of spec/02: 37 at exponent 125 and -40 at exponent 127 combine to -123 at 125. -/
theorem test_alignment : (alignAdd 37#32 125 (BitVec.ofInt 32 (-40)) 127).1 = BitVec.ofInt 32 (-123) ∧
    (alignAdd 37#32 125 (BitVec.ofInt 32 (-40)) 127).2.1 = 125 := by decide

/-- PA 0x0012_3456_7A00 has its home in stack 3 and set 40, and segment 127 is j = 15 of C1.K12 (spec/05). -/
theorem test_home :
    live0.homeStack 0x001234567A00 = some 3 ∧ bitsOf 0x001234567A00 17 9 ^^^ bitsOf 0x001234567A00 26 18 = 40 ∧
    live0.segAt 3 26 0 127 = some (3 * 156 + 13 + 12, 15) := by decide +kernel

/-- The check values of "123456789" (spec/12). -/
theorem test_check_values :
    let bs : List Byte := [0x31, 0x32, 0x33, 0x34, 0x35, 0x36, 0x37, 0x38, 0x39]
    crcOf crc32c bs = 0xE3069283 ∧ crcOf crcFrame bs = 0x6C40DF5F0B497347 ∧
    crcOf { width := 16, poly := 0x1021, init := 0xFFFF, refIn := false, refOut := false, xorOut := 0 } bs = 0x29B1 ∧
    crcOf { width := 8, poly := 0x07, init := 0, refIn := false, refOut := false, xorOut := 0 } bs = 0xF4 := by decide +kernel

/-- The atomics of spec/10: X and Y by ascending lane. -/
theorem test_atomics :
    let x := { grpCtx0 with
      subs := [{ sub0 with mask := 0xFF#32 }],
      t := (grpCtx0.t.set 1 (Vector.ofFn fun i => if i.val = 1 ∨ i.val = 4 ∨ i.val = 6 then 0x40004#32 else 0x40000#32)).set 2
        (Vector.ofFn fun i => [1#32, 5#32, 2#32, 3#32, BitVec.ofInt 32 (-2), 4#32, 1#32, 5#32].getD i.val 0#32) }
    let s := ((runG x).storeWrite 0 0x40000 [100#8, 0, 0, 0] false).storeWrite 0 0x40004 [7#8, 0, 0, 0] false
    onNext (exec (.gatom g0 { dst := 3, srca := 1, srcb := 2, imm := 0 }) s) (fun t =>
      (List.range 8).map (fun i => ((t.grp 0 0).tv 3 i).toNat) = [100, 7, 101, 103, 12, 106, 10, 110] &&
      t.mem.read (2 ^ 48 + 0x40000) 8 = [115#8, 0, 0, 0, 11#8, 0, 0, 0]) = true := by decide +kernel

/-- One instruction of a context: ADD with an immediate, and the PC after it (R395, R389). -/
theorem test_add_immediate :
    onNext (exec (.add u0 { f0 with dst := 1, srca := 2, imm := 0x2FFFFFFFF }) (runWith (ctx0.setA 2 5#64 true)))
      (fun t => (t.at u0).getA 1 = 4#64 && (t.at u0).poisA 1 && (t.at u0).pc = 8#20 && (t.at u0).getA 2 = 5#64) = true := by
  decide +kernel

/-- A step takes the command at the front and leaves the rest (notes/assumptions/1.md). -/
theorem test_step_queue :
    onNext (step { run0 with pending := [.nop u0 f0, .br u0 f0] }) (fun t =>
      decide (t.pending = [.br u0 f0]) && (t.at u0).pc = 8#20) = true ∧
    onNext (step State.reset) (fun t => t.time = 1) = true := by decide +kernel

/-! What the statements ask of a state, as a check (State.issues, State.groupIssues, State.cmdTakes). -/

def mayIssue (s : State) (i : Instr) : Bool :=
  match useOf i with
  | some (u, f, use) =>
    s.coreLive u.core.val && (s.at u).issuing && decide (use.fault f = none) && !use.hazard f (s.at u)
  | none => false

theorem issues_of_check {s : State} {i : Instr} (h : mayIssue s i = true) : s.issues i := by
  unfold mayIssue at h
  unfold State.issues State.canIssue
  rcases hu : useOf i with _ | ⟨u, f, use⟩
  · simp [hu] at h
  · simp only [hu, Bool.and_eq_true, decide_eq_true_eq, Bool.not_eq_true'] at h ⊢
    exact ⟨h.1.1.1, h.1.1.2, h.1.2, h.2⟩

def mayGroup (s : State) (i : Instr) (b : Subgroup) : Bool :=
  match groupUseOf i with
  | some (g, f, w, pairs) =>
    let x := s.grp g.core.val g.gctx
    decide (x.sub? g.lane = some b) && s.coreLive g.core.val && x.busy && !x.killed && !b.atRcv && b.fence.isNone &&
      !(s.asBackfill g.core.val x.owner && s.decodeReady g.core.val) && decide (w.fault f = none) &&
      (w.regs f pairs).all fun r => (List.range 32).all fun l => !x.pend.contains (l * 64 + r)
  | none => false

theorem group_issues_of_check {s : State} {i : Instr} {b : Subgroup} (h : mayGroup s i b = true) : s.groupIssues i b := by
  unfold mayGroup at h
  unfold State.groupIssues State.subgroupReady
  rcases hu : groupUseOf i with _ | ⟨g, f, w, pairs⟩
  · simp [hu] at h
  · simp only [hu, Bool.and_eq_true, decide_eq_true_eq, Bool.not_eq_true', List.all_eq_true, List.mem_range,
      Option.isNone_iff_eq_none, Bool.and_eq_false_iff] at h ⊢
    obtain ⟨⟨⟨⟨⟨⟨⟨⟨h1, h2⟩, h3⟩, h4⟩, h5⟩, h6⟩, h9⟩, h7⟩, h8⟩ := h
    refine ⟨⟨h1, h2, h3, h4, h5, ?_, ?_⟩, h7, ?_⟩
    · intro id hid
      rw [h6] at hid
      cases hid
    · rintro ⟨ha, hd⟩
      rw [ha, hd] at h9
      simp at h9
    · intro r hr l hl hm
      have := h8 r hr l hl
      simp_all

/-! States and operands that meet the hypotheses of the statements. -/

theorem test_met_StepRunsFrontCommand :
    State.reset.pending = [] ∧ onNext (exec .vauxLoss State.reset) (fun _ => true) = true := by decide +kernel

theorem test_met_IdleStepAdvancesDeviceTime :
    State.reset.pending = [] ∧ State.reset.pins.refclk = true ∧
    ({ State.reset with pins := { State.reset.pins with refclk := false } } : State).pins.refclk = false := by decide +kernel

theorem test_met_EveryStepKeepsMemoriesCanonical :
    State.reset.memOk ∧ onNext (step State.reset) (fun _ => true) = true := by decide +kernel

theorem test_met_StationWordsDecodeBack :
    stationParts (.gwt u0 f0) = some (u0, 0x801, f0) ∧ decodeStation u0 0x8010000000000000#64 = some (.gwt u0 f0) := by decide

theorem test_met_GroupWordsDecodeBack :
    groupParts (.gspec g0 f0) = some (g0, 0xD81, f0) ∧ decodeGroup g0 0xD810000000000000#64 = some (.gspec g0 f0) := by decide

theorem test_met_StationCodeHeldWhenNotIssuing :
    (∃ use, useOf (.add u0 { f0 with srca := 1 }) = some (u0, { f0 with srca := 1 }, use) ∧
      use.fault { f0 with srca := 1 } = none ∧ use.hazard { f0 with srca := 1 } ((runWith { ctx0 with pendA := 2#32 }).at u0) = true) ∧
    State.reset.coreLive 0 = false ∧ (live0.at u0).active = false ∧ ((runWith { ctx0 with stopped := true }).at u0).stopped = true ∧
    ((runWith { ctx0 with held := true }).at u0).held = true ∧
    ((runWith { ctx0 with wait := .wnext 1 }).at u0).wait ≠ .none := by
  refine ⟨⟨_, rfl, ?_, ?_⟩, ?_⟩ <;> decide +kernel

theorem test_met_StationEncodingFaults :
    (∃ use, useOf (.add u0 { f0 with imm := 0x100000000 }) = some (u0, { f0 with imm := 0x100000000 }, use) ∧
      (0x100000000#34).toNat &&& use.rsv ≠ 0) ∧
    (∃ use, useOf (.add u0 { f0 with dst := 32 }) = some (u0, { f0 with dst := 32 }, use) ∧ use.dst = .scalar ∧
      (0#34).toNat &&& use.rsv = 0) ∧
    (∃ use, useOf (.pset u0 { f0 with dst := 8 }) = some (u0, { f0 with dst := 8 }, use) ∧ use.dst = .pred) ∧
    run0.coreLive 0 = true ∧ (run0.at u0).issuing = true := by
  refine ⟨⟨_, rfl, ?_⟩, ⟨_, rfl, ?_, ?_⟩, ⟨_, rfl, ?_⟩, ?_, ?_⟩ <;> decide +kernel

theorem test_met_ProgramFaultStopsContext :
    (Ctx.d, BitVec.ofNat 20 8) ∉ (run0.core 0).faults ∧ run0.bit (offSTN 0 + 8) 63 = false ∧
    (Ctx.p, BitVec.ofNat 20 8) ∉ ((run0.programFault 0 .d 1 8).core 0).faults ∧
    (run0.programFault 0 .d 1 8).bit (offSTN 0 + 8) 63 = true := by decide +kernel

theorem test_met_IssueAdvancesPcAndChangesNothingElse :
    (run0.at u0).pcOk 8 = true ∧ (run0.at u0).pcOk 4088 = true ∧ (run0.at u0).wait = .none ∧ (run0.at u0).wbars = [] ∧
    tabGetD run0.cnt.vals (0x100 * 256 + 9) 0 + 1 < 2 ^ 48 := by decide +kernel

theorem test_met_PcOutsideProgramFaults :
    let x := run0.ctx 0 .d
    (-8 : Int) < x.lo ∧ (x.hi : Int) ≤ 4096 ∧ (4 : Int) % 8 ≠ 0 ∧ (x.lo : Int) ≤ 0 ∧ (4088 : Int) < x.hi ∧ (4088 : Int) % 8 = 0 := by
  decide +kernel

theorem test_met_HardwiredRegisters :
    (ctx0.setA 31 7#64 true).getA 31 = 7#64 ∧ (ctx0.setP 7 7#64).getP 7 = 7#64 := by decide +kernel

def stationSample1 : List Instr :=
  [.nop u0 f0, .br u0 f0, .beq u0 f0, .bne u0 f0, .blt u0 f0, .bge u0 f0, .bltu u0 f0, .bgeu u0 f0, .bpz u0 f0, .bpnz u0 f0,
   .jal u0 f0, .jr u0 f0, .fence u0 f0, .wnext u0 f0, .wbar u0 f0, .wbar u0 (fi 0x200000000),
   .gap u0 (fi 320), .gap u0 (fi 319), .hint u0 f0, .hint u0 (fi 0x30000000)]
def stationSample2 : List Instr :=
  [.add u0 f0, .sub u0 f0, .mul u0 f0, .mulh u0 f0, .and u0 f0, .or u0 f0, .xor u0 f0, .shl u0 f0, .shr u0 f0, .sra u0 f0,
   .slt u0 f0, .sltu u0 f0, .min u0 f0, .max u0 f0, .movh u0 f0, .mrs u0 f0, .mrs u0 (fi 3),
   .mrs u0 (fi 4), .msr u0 f0, .msr u0 (fi 1)]
def stationSample3 : List Instr :=
  [.vadd u0 f0, .vsub u0 f0, .vmul u0 f0, .vfma u0 f0, .vfms u0 f0, .vdiv u0 f0, .vsqrt u0 f0, .vmin u0 f0, .vmax u0 f0,
   .vminn u0 f0, .vmaxn u0 f0, .vrint u0 f0, .vcmp u0 f0, .vcmp u0 (fi 0x20000000), .vexp2 u0 f0, .vrcp u0 f0,
   .vrsq u0 f0, .vlog2 u0 f0, .vadd u0 (fi 0x10000000), .vadd u0 (fi 0x20000000),
   .vrcp u0 (fi 0x10000000)]
def stationSample4 : List Instr :=
  [.viadd u0 f0, .visub u0 f0, .vimul u0 f0, .vand u0 f0, .vor u0 f0, .vxor u0 f0, .vshl u0 f0, .vshr u0 f0, .vsra u0 f0,
   .vimin u0 f0, .vimax u0 f0, .vsel u0 f0, .vmov u0 f0, .vmov u0 (fi 0x200000), .vrsum u0 f0, .vrmax u0 f0,
   .vrmin u0 f0, .vperm u0 f0, .vext u0 f0, .vins u0 f0, .plog u0 f0, .pset u0 f0, .pget u0 f0]
def stationSample5 : List Instr :=
  [.eld u0 f0, .eld u0 (fi 0x100000000), .ews u0 f0, .edr u0 f0, .edr u0 { f0 with dst := 60 },
   .edr u0 { f0 with dst := 61 }, .ecf u0 f0, .ecf u0 (fi 0x100000000), .rcx u0 f0, .ldf u0 f0, .stf u0 f0,
   .ldc u0 f0, .stc u0 f0, .red u0 f0, .chuck u0 f0, .unchuck u0 f0, .cwb u0 f0, .lds u0 f0, .sts u0 f0, .hst u0 f0,
   .hst u0 (fi 0x20000000), .srx u0 f0, .stx u0 f0, .swt u0 f0, .hset u0 f0, .acfg u0 f0, .astart u0 f0,
   .astart u0 (fi 0x180000000), .tmv u0 f0, .gln u0 f0, .gwt u0 f0]

/-- One instruction of each row of station code, with operands that issue. -/
def stationSample : List Instr := stationSample1 ++ stationSample2 ++ stationSample3 ++ stationSample4 ++ stationSample5

theorem test_met_station_code_issues : ∀ i ∈ stationSample, run0.issues i := by
  intro i hi
  have h : stationSample.all (mayIssue run0) = true := by decide +kernel
  exact issues_of_check (List.all_eq_true.1 h i hi)

def groupSample1 : List Instr :=
  [.gnop g0 f0, .bra g0 f0, .bru g0 f0, .brd g0 f0, .rcv g0 f0, .gexit g0 f0, .gfence g0 f0, .iadd g0 f0, .isub g0 f0,
   .imul g0 f0, .groupAnd g0 f0, .groupOr g0 f0, .groupXor g0 f0, .groupShl g0 f0, .groupShr g0 f0, .groupSra g0 f0,
   .imin g0 f0, .imax g0 f0, .umin g0 f0, .umax g0 f0, .seq g0 f0, .sne g0 f0, .groupSlt g0 f0, .groupSltu g0 f0, .sel g0 f0,
   .mov g0 f0, .iadd g0 (fi 0x8000005)]
def groupSample2 : List Instr :=
  [.fadd g0 f0, .fsub g0 f0, .fmul g0 f0, .ffma g0 f0, .fmin g0 f0, .fmax g0 f0, .feq g0 f0, .flt g0 f0, .fle g0 f0,
   .fexp2 g0 f0, .frcp g0 f0, .flog2 g0 f0, .i2f g0 f0, .f2i g0 f0, .f2h g0 f0, .h2f g0 f0, .h2f g0 (fi 0x100000),
   .uadd g0 f0, .usub g0 f0, .umul g0 f0, .uand g0 f0, .uor g0 f0, .uxor g0 f0, .ushl g0 f0, .ushr g0 f0, .uslt g0 f0,
   .umov g0 f0, .uxt g0 f0, .ubc g0 f0, .vote g0 f0, .shfl g0 f0, .glds g0 f0, .gsts g0 f0, .gldc g0 f0, .gstc g0 f0,
   .gatom g0 f0, .gatom g0 (fi 0x800000), .gatom g0 (fi 0x900000), .gred g0 f0,
   .gred g0 (fi 0x300000), .gmma g0 f0, .gmma g0 { f0 with dst := 1 }]
def groupSample3 : List Instr :=
  (List.range 8).map fun k => .gspec g0 (fi (BitVec.ofNat 34 k))

/-- One instruction of each row of group code, with operands that issue. -/
def groupSample : List Instr := groupSample1 ++ groupSample2 ++ groupSample3

theorem test_met_group_code_issues : ∀ i ∈ groupSample, grp0.groupIssues i sub0 := by
  intro i hi
  have h : groupSample.all (fun i => mayGroup grp0 i sub0) = true := by decide +kernel
  exact group_issues_of_check (List.all_eq_true.1 h i hi)

/-! An image with two streams (core 0 to core 1 and back), a kernel and a program with an egress range. -/

def stream0 : StreamDef :=
  { prod := 0, prodEntry := 0, prodLayer := 0, cons := 1, consEntry := 0, consLayer := 0, toPipe := none, cap := 4, bufAt := 0x8000, spill := none }
def stream1 : StreamDef :=
  { prod := 1, prodEntry := 1, prodLayer := 0, cons := 0, consEntry := 1, consLayer := 0, toPipe := none, cap := 4, bufAt := 0x8000, spill := none }
def prog0 : Program :=
  { pos := 0, entryD := 0#20, entryP := none, lo := 0, hi := 4096, codeAt := 0, code := [], carryLo := 0, carryLen := 0,
    egress := [(0x1000, 0x1000)], layers := [] }
def kern0 : KernelDef := { num := 5, entry := 0x100#20, stop := 0x200#20, pack := false, code := [], cores := [0] }
def img0 : Image :=
  { wellFormed := true, sections := allSections, crcOk := true, sigOk := true, enc := false, decryptOk := true, digest := [], ownerDigest := [],
    manifestDigest := [], gmMeas := [], minFprop := [], chunks := 0#32, programs := [prog0], runs := [], tileRuns := [],
    streams := [stream0, stream1], pipes := [], kernels := [kern0], layers := 1, groups := 1, vocab := 1000, text := [], tokTable := [],
    kvSlots := [], poolBase := 0#48, poolIds := 0#24, hpoolBase := 0#48, hpoolPages := 0#24, mapBase := 0, mapStride := 0,
    ranges := [], sealFlag := false, egressPos := [], buffers := [], peers := [], manifestOk := true, budget := 36000#32,
    prefillPeriod := 0, lossBound := 0, budWarn := false, ckptBytes := [], maxWaves := 4 }

def hOut : Vector (Option Handle) 16 := (Vector.replicate 16 none).set 0 (some { entry := 0#16, last := false })
def hIn : Vector (Option Handle) 16 := hOut.set 1 (some { entry := 1#16, last := false })
/-- A context with handle 0 sending and handle 1 receiving. -/
def ctxH : Context := { ctx0 with h := hIn }
def imgS : State := { runWith ctxH with image := some img0 }

def wave0 : Wave :=
  { num := 1#48, prefill := false, mask := 1#8, inserted := false, regen := none, lanes := [(0, 0, 0)], reached := [],
    ckpts := [], saves := [], sent := [], replays := [], poisoned := 0#8, start := 0, paused := false }

def req0 (k : ReqKind) : Req :=
  { id := 0, who := .ctx 0 .d, kind := k, pa := 0, size := 8, cls := 0, stage := .sent, pc := 0, arr := 0 }

theorem test_met_WaitsEndWhenTheirConditionHolds :
    let fen := runWith { ctx0 with wait := .fence 7#3 }
    let gap := runWith { ctx0 with wait := .gap 320 }
    let wn := runWith { ctx0 with wait := .wnext 31 }
    (fen.ctx 0 .d).stopped = false ∧ (fen.ctx 0 .d).held = false ∧ (fen.ctx 0 .d).wbars = [] ∧
    fen.loadsOpen 0 .d = false ∧ fen.storesOpen 0 .d = false ∧ fen.sendsOpen 0 .d = false ∧
    ({ fen with reqs := [req0 (.ld .none false false)] } : State).loadsOpen 0 .d = true ∧
    ({ fen with reqs := [req0 (.st [] 0#4)] } : State).storesOpen 0 .d = true ∧
    (gap.core 0).gap = none ∧ ((gap.setCore 0 { gap.core 0 with gap := some 400 }).core 0).gap ≠ none ∧
    wn.nextWaveOf 0 .d = none ∧
    ({ wn with waves := [wave0] } : State).nextWaveOf 0 .d = some wave0 := by decide +kernel

theorem test_met_StationHintActsOnPowerControl :
    (fi 0x30000000).imm.toNat / 2 ^ 28 % 16 = 3 ∧ (fi 0x20000000).imm.toNat / 2 ^ 28 % 16 = 2 ∧
    (u1.core.val ≠ 0 ∨ u1.ctx ≠ .d) ∧ u0.core.val = 0 ∧ u0.ctx = .d ∧
    mayIssue run0 (.hint u0 (fi 0x20000000)) = true ∧ mayIssue (live0.setCtx 0 .p ctx0) (.hint u1 f0) = true := by decide +kernel

theorem test_met_SpecialRegisters :
    (fi 3).imm.toNat % 256 = 3 ∧ 3 < (fi 4).imm.toNat % 256 ∧
    ((runWith (ctx0.setA 1 4#64 false)).at u0).getA 1 = 4#64 ∧ (4#64).toNat % 8 ≤ 4 ∧ 4 < (5#64).toNat % 8 := by decide +kernel

theorem test_met_ElementWiseLanesPoisonAndFlags :
    tabGetD run0.cnt.vals (0x100 * 256 + 7) 0 + 1 < 2 ^ 48 ∧ predOf (run0.at u0) f0 = BitVec.allOnes 64 := by decide +kernel

theorem test_met_VectorReductions :
    predOf (run0.at u0) (fi 0x80000000) = 0#64 ∧ predOf (run0.at u0) f0 ≠ 0#64 ∧
    mayIssue run0 (.vrsum u0 (fi 0x80000000)) = true := by decide +kernel

theorem test_met_VectorConversion :
    mayIssue run0 (.vcvt u0 (fi 0x8000)) = true ∧ partOk (fmtOf 0) (fmtOf 1) 0 = true ∧
    mayIssue run0 (.vcvt u0 (fi 0xC000)) = true ∧ partOk (fmtOf ((fi 0xC000).imm.toNat / 2 ^ 18 % 8))
      (fmtOf ((fi 0xC000).imm.toNat / 2 ^ 15 % 8)) ((fi 0xC000).imm.toNat / 2 ^ 13 % 4) = false := by decide +kernel

theorem test_met_EngineInstructionsEnterTheirQueue :
    let g := (run0.core 0).eng 0
    let held := run0.setCore 0 ((run0.core 0).setEng 0 { g with cfg := { g.cfg with hold := true } })
    g.queue.length < 8 ∧ run0.apart 0 .d 0 = false ∧ run0.apart 0 .p 0 = false ∧ 0xFFFC0 + imageLen (g.cfgAfter false).afmt 8 ≤ 0x100000 ∧ 0x100000 < 0xFFFC0 + imageLen (g.cfgAfter false).afmt 9 ∧
    (((imgS.handle u0 1).map fun x => x.1.sending) = some false) ∧ run0.handle u0 0 = none ∧
    runLen (g.cfgAfter false).wfmt 1 ≤ run0.fieldLen 0 ∧
    run0.fieldLen 0 < 0x1800000 + runLen (g.cfgAfter false).wfmt 1 ∧
    (((held.core 0).eng 0).cfgAfter false).hold = true ∧ (f0.imm.toNat / 2 ^ 25 % 128 + 1 = 1) ∧
    ((fi 0x2000000).imm.toNat / 2 ^ 25 % 128 + 1 ≠ 1) ∧ (61#6).toNat > 60 ∧
    (fi 0xC0000000).imm.toNat / 2 ^ 30 % 8 < 4 ∧ 4 ≤ (fi 0x100000000).imm.toNat / 2 ^ 30 % 8 ∧
    (fi 0x30000000).imm.toNat / 2 ^ 28 % 4 = 3 ∧ (fi 0x20000000).imm.toNat / 2 ^ 28 % 4 < 3 := by decide +kernel

theorem test_met_FieldAndCoreStoreAccess :
    run0.memStall 0 .d = false ∧ 0xFFFF8 % 8 = 0 ∧ 0xFFFF8 ≤ 0xFFFFF ∧ 0xFFFFF < 0x100000 ∧
    (run0.fieldGo 0x0A0000000000 8 false).1 = .ok ∧ targetOf 0x0A0000000000 = .field 0 0 ∧
    (run0.fieldGo 0x0A0000000000 256 true).1 = .ok ∧ (run0.fieldGo 0x0A0001800000 8 false).1 = .refused ∧
    (run0.fieldGo 0x0A00017FFF00 256 false).1 = .ok ∧
    (({ run0 with backs := [(0, { foff := 0, flen := 1, baddr := 0, alt := none })] } : State).fieldGo 0x0A0000000000 8 true).1 =
      .refused := by decide +kernel

theorem test_met_StoresWriteTheirBytesAndNothingElse :
    run0.bit (offERR + 0x20) 0 = false ∧ run0.memOk ∧ (List.replicate 8 1#8).length = 8 ∧ [false].length = 1 ∧
    (List.replicate 256 1#8).length = 256 ∧ (List.replicate 4 true).length = 4 := by decide +kernel

theorem test_met_CachedInstructionsEnterTheMemoryQueue :
    run0.memStall 0 .d = false ∧ run0.cachedOk 0 0 8 false false = true ∧ run0.cachedOk 0 0x005F80000000 8 true false = false ∧
    run0.cachedOk 0 0x005F7FFFFF00 256 true false = true := by decide +kernel

/-- A line whose fill is on its way and on which a reduction waits. -/
def busyLine : Line :=
  { pos := 0, seg := 0, set := 0, way := 0, state := 5#3, mask := 0#256, curd := false, skim := false, chuck := none, pois := 0#4,
    cls := 0, birth := 0,
    reds := [({ off := 0, data := [1#8, 0, 0, 0], ty := 0, op := 0, pois := false, sat := false, cls := 0, core := 0 }, none)] }

theorem test_met_ReductionsChucksAndWriteBacks :
    (fi 0x60000000).imm.toNat / 2 ^ 29 % 4 = 3 ∧ run0.memStall 0 .d = false ∧
    ((run0.chuckRange 0 1 0#6 0 0 (0, 0)).1.isLeft = true) ∧
    ((({ run0 with lines := [(0, busyLine)] } : State).chuckRange 0 1 0#6 0 0 (0, 0)).1.isRight = true) ∧
    run0.lineBusy 0 1 = false ∧ run0.flushGo 0 1 2 (fun _ => true) = true ∧
    ({ run0 with lines := [(0, busyLine)] } : State).lineBusy 0 1 = true := by decide +kernel

theorem test_met_reductions_accepted :
    ({ run0 with grain := { run0.grain with
        cl := Vector.ofFn fun i => if i.val = 0 then clusterIdentity else BitVec.allOnes 53 } } : State).cachedOk 0 0 4 true true =
      true := by decide +kernel

theorem test_met_reductions_refused : run0.cachedOk 0 0x0A0000000000 4 true true = false := by decide +kernel

theorem test_met_HostStore :
    imgS.memStall 0 .d = false ∧ imgS.hstOk 0 0x1000 256 = true ∧ imgS.hstOk 0 0x1F00 256 = true ∧
    imgS.hstOk 0 0x2000 64 = false ∧ (imgS.portUp .a = true ∨ imgS.portUp .b = true) ∧
    ({ runWith { ctxH with taint := true } with image := some img0 } : State).hstOk 0 0x1000 64 = true ∧
    (({ imgS with regs := [] } : State).portUp .a = false ∧ ({ imgS with regs := [] } : State).portUp .b = false) := by
  decide +kernel

theorem test_met_StreamInstructions :
    (imgS.handle u0 0).map (fun x => (x.1.sending, x.1.sd.cap)) = some (true, 4) ∧
    (imgS.handle u0 1).map (fun x => (x.1.sending, x.1.sd.cap)) = some (false, 4) ∧ imgS.handle u0 2 = none ∧
    (imgS.core 0).streamQ.length < 16 := by decide +kernel

theorem test_met_ColumnReduceIsArmed :
    (imgS.core 0).rcx.length < 4 ∧ ((fi 0).imm.getLsbD 33 = false) ∧
    ((List.range 16).filter fun i => (fi 0x10800).imm.getLsbD (15 + i)) = [1] ∧ 0x10800 / 2 ^ 11 % 16 + 1 ≤ 16 ∧
    16 < 0x27F00 / 2 ^ 11 % 16 + (0x27F00 / 2 ^ 8 % 8 + 1) ∧ mayIssue imgS (.rcx u0 (fi 0x10000)) = true ∧
    mayIssue imgS (.rcx u0 (fi 0x80000000)) = true := by decide +kernel

theorem test_met_AttentionTierAndGroupLaunchInstructions :
    (run0.pipe 0).queue.length < 4 ∧ (run0.core 0).tierQ.length < 4 ∧ run0.storesOpen 0 .d = false ∧
    cfgOk (wordsOf (List.replicate 64 0#8)) = false ∧
    cfgOk [0x0110#64, 0#64, 0#64, 0#64, 0#64, 0#64, 0#64, 0#64] = true := by decide +kernel

theorem test_met_GroupLaunchAndWait :
    (∃ img k, imgS.image = some img ∧ k ∈ img.kernels ∧ k.num = 5) ∧ run0.image = none ∧
    ((imgS.core 0).launches.filter fun l => !l.started).length < 4 := by
  refine ⟨⟨img0, kern0, rfl, ?_, rfl⟩, rfl, ?_⟩ <;> decide +kernel

/-! Thread groups, engines and streams. -/

def tReg (r : Nat) (v : Nat → Lane) : Vector (Vector Lane 32) 64 :=
  Vector.ofFn fun i => if i.val = r then Vector.ofFn (fun l => v l.val) else Vector.replicate 32 0#32
def entry0 : StackEntry := { id := 0, rpc := 0x100#20, mask := 0xFFFFFFFF#32, parent := none }

theorem test_met_GroupCodeHeldOrFaulted :
    (live0.grp 0 0).sub? 0 = none ∧ (grp0.grp 0 0).sub? 0 = some sub0 ∧
    (∃ w, groupUseOf (.gnop g0 (fi 1)) = some (g0, fi 1, w, []) ∧ w.fault (fi 1) = some 1) ∧
    (∃ w, groupUseOf (.iadd g0 f0) = some (g0, f0, w, []) ∧ w.fault f0 = none ∧ 0 ∈ w.regs f0 [] ∧
      31 * 64 + 0 ∈ ((runG { grpCtx0 with pend := [31 * 64] }).grp 0 0).pend) := by
  refine ⟨?_, ?_, ⟨_, rfl, ?_⟩, ⟨_, rfl, ?_, ?_, ?_⟩⟩ <;> decide +kernel

theorem test_met_GroupEncodingFaults :
    let st := { grp0 with reqs := [{ req0 (.st [] 0#4) with who := .grp 0 0 }] }
    (grp0.grp 0 0).kernel < 1024 ∧ (grp0.grp 0 0).launch < 65536 ∧ st.groupStores 0 0 = true ∧
    st.bit (offSTN 0 + 0x110) 63 = false ∧ (st.setBit (offSTN 0 + 0x110) 63).bit (offSTN 0 + 0x110) 63 = true ∧
    (32 ≤ (32#6).toNat) := by decide +kernel

theorem test_met_GroupLaneWritesTouchActiveLanesOnly :
    (grpCtx0.setLanes 63 0x80000000#32 (fun _ => 7#32) fun _ => true).tv 63 31 = 7#32 ∧
    (grpCtx0.setU 31 7#64 true).uv 31 = 7#64 := by decide +kernel

theorem test_met_GroupBranchesAndDivergence :
    let x := { grpCtx0 with t := tReg 1 fun i => if i < 16 then 1#32 else 0#32 }
    let full := { x with stack := List.replicate 16 entry0 }
    let taken (y : GroupCtx) (r : Nat) : BitVec 32 :=
      maskBy 32 fun i => sub0.mask.getLsbD i && decide (y.tv r i ≠ 0#32)
    taken x 2 = 0#32 ∧ taken x 1 ≠ 0#32 ∧ taken x 1 ≠ sub0.mask ∧
    taken { x with t := tReg 1 fun _ => 1#32 } 1 = sub0.mask ∧ full.stack.length = 16 ∧ x.stack.length < 16 ∧
    x.pcOk 0x108 = true ∧ x.pcOk 0xFF8 = true ∧ x.pcOk 0x1000 = false ∧
    mayGroup (runG x) (.brd g0 { fi 0x20000 with srca := 1 }) sub0 = true ∧
    (let b := { sub0 with entry := some 0 }
     let y := { x with stack := [entry0], subs := [b] }
     mayGroup (runG y) (.rcv g0 f0) b = true ∧ y.stack.find? (fun e => decide (b.entry = some e.id)) = some entry0 ∧
       entry0.rpc = b.pc) := by decide +kernel

theorem test_met_GroupStoreAccess :
    let x (v : Lane) := { grpCtx0 with t := tReg 1 fun _ => v }
    let one (v : Lane) := { x v with subs := [{ sub0 with mask := 0x80000000#32 }] }
    ((1#6).toNat % 2 = 1 ∧ (fi 0x100000).imm.getLsbD 20 = true) ∧ ((x 2#32).tv 1 31).toNat % 4 ≠ 0 ∧
    0xFFFFF < ((x 0x100000#32).tv 1 31).toNat ∧ ((x 0x100000#32).tv 1 31).toNat % 8 = 0 ∧
    ((x 0xFFFFC#32).tv 1 31).toNat ≤ 0xFFFFF ∧ (runG (x 0#32)).memOk ∧
    mayGroup (runG (one 0xFFFFC#32)) (.glds { g0 with lane := 31 } { f0 with dst := 2, srca := 1 })
      { sub0 with mask := 0x80000000#32 } = true ∧
    mayGroup (runG (x 0xFFFFC#32)) (.gsts g0 { f0 with dst := 2, srca := 1 }) sub0 = true := by decide +kernel

theorem test_met_GroupCachedAccess :
    grp0.cachedFault 0 [0, 4] 4 false false = none ∧ grp0.cachedFault 0 [2] 4 true false = some 3 ∧
    grp0.cachedFault 0 [0x005F80000000] 4 false false = some 4 ∧ grp0.cachedFault 0 [2] 4 true true = some 3 ∧
    (fi 0x200000).imm.toNat / 2 ^ 20 % 8 = 2 ∧ (fi 0x300000).imm.toNat / 2 ^ 20 % 8 = 3 := by decide +kernel

theorem test_met_group_reductions_accepted :
    ({ grp0 with grain := { grp0.grain with
        cl := Vector.ofFn fun i => if i.val = 0 then clusterIdentity else BitVec.allOnes 53 } } : State).cachedFault 0 [0] 4 true
          true = none := by decide +kernel

theorem test_met_GroupAtomics :
    (fi 0x800000).imm.toNat / 2 ^ 20 % 16 = 8 ∧ (fi 0x900000).imm.toNat / 2 ^ 20 % 16 = 9 ∧ grp0.memOk ∧
    grp0.bit (offERR + 0x20) 0 = false ∧ ((List.range 32).filter (0x80000000#32).getLsbD) = [31] ∧
    mayGroup (runG { grpCtx0 with subs := [{ sub0 with mask := 0x80000000#32 }] }) (.gatom { g0 with lane := 31 } f0)
      { sub0 with mask := 0x80000000#32 } = true := by decide +kernel

theorem test_met_GroupMatrixMultiply :
    grp0.bit (offSTN 0 + 0x100) 0 = false ∧ (grp0.setBit (offSTN 0 + 0x100) 0).bit (offSTN 0 + 0x100) 0 = true ∧
    (0x7FFFFFFF#32 ≠ 0xFFFFFFFF#32) ∧ grp0.field (offSTN 0 + 0x118) 31 0 + 1 < 2 ^ 32 - 1 ∧
    (fi 0x10000000).imm.toNat / 2 ^ 28 % 64 % 2 = 1 ∧
    mayGroup ((runG { grpCtx0 with subs := [{ sub0 with mask := 0xFFFF#32 }] }).setBit (offSTN 0 + 0x100) 0) (.gmma g0 f0)
      { sub0 with mask := 0xFFFF#32 } = true := by decide +kernel

def run1 : Run :=
  { c := .d, back := false, t := 1, planes := 2, wfmt := 0#3, hold := false, addr := 0, imgs := 512, pre := [],
    bad := [], wait := false, fresh := false, fetched := Vector.replicate 32 0, entered := Vector.replicate 32 0 }
def tile0 : Tile :=
  { c := .d, fresh := false, idx := 0, planes := 2, hold := false, hiPass := false, lam := Vector.replicate 8 127#8, scale := List.replicate 64 127#8,
    entered := Vector.replicate 32 2, acc := Vector.replicate 512 0#32, pois := 0#8, result := none, retired := 0#8 }
def pkt0 : LinkPkt := { c := .d, idx := 0, vals := List.replicate 32 { c := 0#32, m := 127#9 }, lam := 127#8, pois := false }
def rcx0 : Rcx :=
  { c := .d, root := false, engs := 1#2, ins := [(1, 1)], outs := [0], tiles := 1, scale := VReg.zero, got := [], sums := [],
    sent := 0 }
def launch0 : Launch :=
  { id := 0, c := .d, kernel := 5, count := 16, live := 16, killed := 0, started := false, uniform := [], uniPois := 0#32 }
def engS (g : Engine) : State := imgS.setCore 0 ((imgS.core 0).setEng 0 g)
def flit0 : Flit := { data := 0#512, pois := false }

theorem test_met_launches :
    let s := imgS.setCore 0 { imgS.core 0 with launches := [launch0] }
    s.coreLive 0 = true ∧ (s.core 0).launches.find? (fun l => !l.started) = some launch0 ∧ s.image = some img0 ∧
    img0.kernels.find? (fun d => decide (d.num = launch0.kernel)) = some kern0 ∧
    ((List.range 16).filter fun i => !((s.core 0).group (Fin.ofNat 16 i)).busy).length = 16 := by decide +kernel

def plane0 : PlaneBuf := { m := 0, addr := 512, bytes := List.replicate 16 0#8, bad := [], asRead := false }
def runs0 : Run := { run1 with pre := List.replicate (512 * preBeats 0#3 1) 0#8 }
def feedS (h : Hold) (b : PlaneBuf) : Engine :=
  { Engine.zero with runs := [runs0], feeders := Vector.replicate 32 { hold := h, buf := [b] } }

theorem test_met_planes :
    let s := engS (feedS .ready plane0)
    let w := engS (feedS .reread plane0)
    let bad := { w with mem := { w.mem with chk := [(fieldKey 0 512, 1#8)] } }
    let g := (s.core 0).eng 0
    s.coreLive 0 = true ∧ g.runs = [runs0] ∧ g.feeders[0].buf = [plane0] ∧ g.mayEnter runs0 0 = true ∧
    g.mayEnter runs0 31 = true ∧ plane0.bad = [] ∧ ({ plane0 with bad := [3] } : PlaneBuf).bad ≠ [] ∧
    ({ plane0 with bad := [3] } : PlaneBuf).asRead = false ∧ g.badLanes 0 = 0#8 ∧ w.vportFlip 0 0 = none ∧
    ((w.core 0).eng 0).feeders[0].hold = .reread ∧ plane0.bytes.length = 16 ∧
    (∀ i : Fin 16, w.mem.byteFails (fieldKey 0 512 + i.val) = false) ∧ bad.mem.byteFails (fieldKey 0 512) = true ∧
    (bad.backAt 0 512).isSome = false ∧
    (({ bad with backs := [(0, { foff := 0, flen := 4, baddr := 0, alt := none })] } : State).backAt 0 512).isSome = true ∧
    ({ runs0 with entered := runs0.entered.set 0 1 } : Run).slowest ≠ runs0.t * runs0.planes := by decide +kernel

theorem test_met_planes_of_tiles :
    let mine (x : Tile) : Bool := decide (x.idx = 0) && x.result.isNone && decide (x.entered[0] = 1)
    (∃ x ∈ [{ tile0 with entered := Vector.replicate 32 1 }], mine x = true) ∧ ∀ x ∈ [tile0], mine x = false := by
  decide +kernel

theorem test_met_tiles :
    let g := { Engine.zero with tiles := [tile0] }
    let r := { tile0 with result := some (Vector.replicate 256 { c := 0#32, m := 127#9 }) }
    let h := { tile0 with hold := true }
    let e (k : Nat) : EdrRt := { c := .d, vd := 0, scale := VReg.zero, before := k }
    (engS { g with tiles := [tile0] }).coreLive 0 = true ∧
    (g.tiles.find? Tile.complete).isSome = true ∧ tile0.hold = false ∧ (([h].find? Tile.complete).map Tile.hold) = some true ∧
    (∃ y, ({ g with edr := some (e 0) } : Engine).edr = some y ∧ y.before = 0) ∧ g.edr = none ∧ (e 1).before ≠ 0 ∧
    ([r].find? (fun y => !y.retired.getLsbD 7)).isSome = true ∧ r.result.isSome = true ∧ g.credits[7] ≠ 0 := by
  refine ⟨?_, ?_, ?_, ?_, ⟨_, rfl, ?_⟩, ?_⟩ <;> decide +kernel

theorem test_met_reduce_arrivals :
    let k := (engS { Engine.zero with link := Vector.replicate 8 [pkt0] }).core 0
    let s := imgS.setCore 0 { k with rcx := [rcx0] }
    let t : State := { s with streams := [(1, { s.strm 1 with wr := 2 })] }
    (s.core 0).rcx = [rcx0] ∧ s.rcxTurn 0 = [rcx0] ∧ s.coreLive 0 = true ∧ rcx0.engs.getLsbD 0 = true ∧
    rcx0.engs.getLsbD 1 = false ∧ ((s.core 0).eng 0).link[0] = [pkt0] ∧ tabGetD rcx0.got 0 0 < rcx0.tiles ∧
    rcx0.ins.find? (fun x => decide (x.1 = 1)) = some (1, 1) ∧ s.takeable 1 2 < 2 ∧ 2 ≤ t.takeable 1 2 ∧
    t.rcxTurn 0 = [rcx0] ∧ rcx0.c = .d ∧ tabGet? rcx0.sums 0 = none ∧
    tabGet? ({ rcx0 with sums := [(0, { count := 1, vals := [], pois := false })] } : Rcx).sums 0 =
      some { count := 1, vals := [], pois := false } := by decide +kernel

theorem test_met_streams :
    let s := imgS.setStrm 0 { imgS.strm 0 with
      fly := [{ c := .d, wave := 1, flit := flit0, path := some [.mesh 0 16] }], credFly := 1 }
    s.live = true ∧ s.streamDef 0 = some stream0 ∧ (s.strm 0).fly ≠ [] ∧ s.mayBuffer 0 stream0 = true ∧
    0 < (s.strm 0).credFly ∧ (s.strm 0).redo = [] ∧
    ((s.setStrm 0 { s.strm 0 with redo := [flit0] }).strm 0).redo = [flit0] := by decide +kernel

theorem test_met_FieldSplitRegionAndRestoration :
    let b : BackRec := { foff := 0, flen := 1, baddr := 0, alt := none }
    let s := { live0 with backs := [(0, b)], mem := { live0.mem with chk := [(fieldKey 0 0, 1#8)] } }
    let p := { live0 with splits := [(0, 31)] }
    live0.hearsPort .a = true ∧ live0.isSealed = false ∧ live0.hearsPort .b = false ∧ imgS.hasImage = true ∧
    imgS.hearsPort .a = true ∧ live0.splitRefused 0 16 = false ∧ fieldOf 16#64 4 0 ≠ live0.fprop 0 ∧
    tabGet? p.splits 0 = some 31 ∧ p.live = true ∧ s.movers = [] ∧ s.copyShut 0 0 = false ∧
    s.mem.flitState (fieldKey 0 0 / 64) ≠ .good ∧ (s.backAt 0 0).isSome = true ∧ (s.restoreBeat 0 0).1 = true ∧
    (let bad := { s with mem := { s.mem with pois := [0] } }
     (bad.restoreBeat 0 0).1 = false) ∧ (live0.backAt 0 0).isNone = true := by decide +kernel

/-! The cache, the memory controllers, movers and links. -/

def line0 : Line :=
  { pos := 0, seg := 0, set := 0, way := 0, state := 1#3, mask := 0#256, curd := false, skim := false, chuck := none, pois := 0#4,
    cls := 0, reds := [], birth := 0 }
def fill0 : Fill := { pos := 0, alloc := true, cls := 0, asked := true, data := some (List.replicate 256 1#8), pois := 0#4, late := none }
def red0 : RedOp := { off := 0, data := [1#8, 0, 0, 0], ty := 0, op := 0, pois := false, sat := false, cls := 0, core := 0 }
def evict0 : Evict := { line := { line0 with state := 4#3 }, issued := false }
def write0 (who : WriteFor) (ack : Bool) : MemWrite :=
  { pa := 0, mask := BitVec.allOnes 256, data := List.replicate 256 0#8, pois := 0#4, cls := 0, step := 0, time := 0, ord := 0,
    src := 0, who := who, acked := ack }
def read0 (who : ReadFor) : MemRead := { pa := 0, len := 256, cls := 0, step := 0, time := 0, ord := 1, src := 0, who := who }

theorem test_met_CacheProbesFlushesFillsAndEvictions :
    let fl : Flush := { base := 0, len := 1, op := 1, chid := none }
    let r := req0 (.ld .none false false)
    live0.live = true ∧ tabGet? live0.flushes 3 = none ∧
    tabGet? ({ live0 with flushes := [(0, fl)] } : State).flushes 0 = some fl ∧ live0.lineBusy 0 1 = false ∧
    ({ live0 with fills := [(0, fill0)] } : State).lineBusy 0 1 = true ∧
    ([r, r][1]? = some r) ∧ r.stage = .sent ∧ live0.memAccess r.pa false ≠ .waits ∧
    live0.memAccess 0x010000000000 false = .refused ∧
    (let f := { live0 with fills := [(0, fill0)] }
     tabGet? f.fills 0 = some fill0 ∧ tabGet? f.lines 0 = none ∧
     tabGet? ({ f with lines := [(0, { line0 with state := 5#3 })] } : State).lines 0 = some { line0 with state := 5#3 } ∧
     tabGet? ({ f with lines := [(0, { line0 with state := 3#3 })] } : State).lines 0 = some { line0 with state := 3#3 }) := by
  decide +kernel

theorem test_met_cache_reductions_and_evictions :
    let s := { live0 with lines := [(0, { line0 with reds := [(red0, none)] })] }
    let k := { live0 with lines := [(0, { line0 with pos := 12, reds := [(red0, some 0)] })] }
    let v := { live0 with lines := [(0, { line0 with skim := true })], evicts := [(1, evict0)] }
    s.live = true ∧ s.vacating 0 = false ∧ isK12 0 = false ∧ isK12 12 = true ∧ k.mayIssue (sliceOf 12) 0 (ctlOf 0) = true ∧
    (k.setField (offTIER 0 + 0x40) 11 0 0).mayIssue (sliceOf 12) 0 (ctlOf 0) = false ∧ v.lineWaits 0 = false ∧
    tabGet? v.fills 0 = none ∧ tabGet? v.evicts 1 = some evict0 ∧ evict0.issued = false ∧
    ((live0.setCtl 0 { Controller.zero with writes := [write0 (.evict 0) false] }).ctl (ctlOf 0)).writes.find?
      (fun w => decide (w.who = .evict 0) && !w.acked) = some (write0 (.evict 0) false) := by decide +kernel

theorem test_met_MemoryControllerEvents :
    let c := { Controller.zero with reads := [read0 (.fill 0)], writes := [write0 .silent true] }
    let s := live0.setCtl 0 c
    let r := live0.setCtl 0 { Controller.zero with reads := [read0 (.req 0)] }
    s.live = true ∧ (s.ctl 0).reads[0]? = some (read0 (.fill 0)) ∧ ((s.chosen 0).map fun x => (x.write, x.idx)) = some (true, 0) ∧
    ((r.chosen 0).map fun x => (x.write, x.idx)) = some (false, 0) ∧ (s.ctl 0).writes[0]? = some (write0 .silent true) ∧
    ((live0.setCtl 0 { c with cal := true }).ctl 0).cal = true ∧
    (let k := (live0.setCtl 8 { Controller.zero with cal := true })
     (∃ x ∈ k.ctls, x.2.cal = true ∧ ctlPeers 8 x.1 = true) ∧ ∀ x ∈ live0.ctls, x.2.cal = true → ctlPeers 8 x.1 = false) ∧
    ({ live0 with fillQ := [(31, 1, none)] } : State).fillQ = [(31, 1, none)] ∧ live0.pins.refclk = true := by decide +kernel

theorem test_met_patrol_scrub :
    let e := { live0 with mem := { live0.mem with flips := [(192, 1#8)] } }
    let shut := live0.setField (offTIER 0 + 0x70) 11 0 0
    live0.ready = true ∧ live0.burstHere (64 * 3) = true ∧ live0.mayRead (mgmtOf (ownerOf 192)) 6 192 64 = true ∧
    shut.mayRead (mgmtOf (ownerOf 192)) 6 192 64 = false ∧ live0.eccOut live0.mem 192 64 = .good ∧
    e.eccOut e.mem 192 64 = .corrected ∧ (e.readDram 3).1.pois = false ∧ (e.ctl (ctlOf 192)).writes = [] ∧
    (({ live0 with mem := { live0.mem with pois := [3] } } : State).readDram 3).1.pois = true := by decide +kernel

theorem test_met_memory_reads :
    let r := live0.setCtl 0 { Controller.zero with reads := [read0 (.fill 0)] }
    tabGet? ({ r with fills := [(0, { fill0 with data := none })] } : State).fills 0 = some { fill0 with data := none } ∧
    ([req0 (.ld (.areg 1) false false)].find? fun q => decide (q.id = 0)) = some (req0 (.ld (.areg 1) false false)) ∧
    (let x : ClassStep := { lats := List.replicate 64 5000, step := 2, fell := 0 }
     let s := { live0 with steps := [(0, x)] }
     (s.clsStep 0 0).step = 2) := by decide +kernel

/-- A descriptor of kind k with source, destination and length given. -/
def desc0 (w0 src dst : Word) : Desc :=
  { w := { w0 := w0, w1 := src, w2 := dst, w3 := 0, w4 := 0, w5 := 0, w6 := 0, w7 := 0 }, started := true, copied := false,
    status := 0, host := none, phase := 0, ptag := 0, frames := 0 }
def movS (d : List Desc) : State := live0.setPostQ 15 3 d

theorem test_met_MoverDescriptorsAndPeerFrames :
    let copy := desc0 1#64 0x1000#64 0x2000#64
    let s := movS [{ copy with started := false }]
    s.live = true ∧ (s.postQ 15 3).findIdx? (fun d => !d.started) = some 0 ∧ s.descStatus copy = 0 ∧
    s.descStatus (desc0 1#64 0x1#64 0x2000#64) = 2 ∧ copy.kind = 1 ∧ copy.ord = false ∧ copy.back = false ∧ copy.alt = none ∧
    s.moverAccess copy.srcA copy.len ≠ .waits ∧ s.moverAccess copy.dstA copy.len ≠ .waits ∧
    (desc0 0x100000801#64 0x1000#64 0x0A0000000000#64).back = true ∧
    s.descStatus (desc0 0x100000801#64 0x1000#64 0x0A0000000000#64) = 0 ∧ fieldAt 0x0A0000000000 = some (0, 0) ∧
    ((movS [copy, { desc0 0x2001#64 0x1000#64 0x2000#64 with started := false }]).postQ 15 3).findIdx? (fun d => !d.started) =
      some 1 ∧ (desc0 0x2001#64 0x1000#64 0x2000#64).ord = true := by decide +kernel

theorem test_met_releases_fences_and_peer_writes :
    let rel := desc0 2#64 0#64 0x0A0000000000#64
    let pw := desc0 4#64 0x1000#64 0#64
    let b : BackRec := { foff := 0, flen := 0, baddr := 0, alt := none }
    rel.kind = 2 ∧ fieldAt rel.dstA = some (0, 0) ∧ live0.restoring 0 0 rel.len = false ∧ live0.backs = [] ∧
    (desc0 3#64 0#64 0#64).kind = 3 ∧ pw.kind = 4 ∧ pw.ptag = 0 ∧ pw.cont = false ∧ live0.moverAccess pw.srcA pw.len = .ok ∧
    live0.moverAccess 0x090000000000 256 = .refused ∧ ({ pw with frames := 1 } : Desc).frames ≠ 0 ∧
    (let d := { rel with copied := true }
     (movS [d]).cores = [] ∧ ((movS [d]).postQ 15 3)[0]? = some d ∧ d.upd = false ∧ d.host = none ∧ d.status = 0 ∧
     ({ d with status := 5 } : Desc).status < 256) ∧ b.flen = 0 := by decide +kernel

def quadS (q : Quad) : State := (live0.setQuad 0 q).setField (offQuad 0) 1 0 2

/-- The all-zero frame and its check value of zero; a frame of type 1, in pieces of 31 bytes. -/
def frame1 : List Byte := [1#8] ++ List.replicate 279 0#8
def zeros31 (v : Nat) : Nat := (List.replicate 31 0#8).foldl (crcByte crcFrame) v

theorem crc_zeros (n : Nat) : (List.replicate n 0#8).foldl (crcByte crcFrame) 0 = 0 := by
  induction n with
  | zero => rfl
  | succ n ih =>
    have h : crcByte crcFrame 0 0#8 = 0 := by decide
    rw [List.replicate_succ, List.foldl_cons, h, ih]

theorem crc_piece0 : zeros31 0x42F0E1EBA9EA3693 = 0xF48B35FA32298B17 := by decide +kernel
theorem crc_piece1 : zeros31 0xF48B35FA32298B17 = 0xC971DB61AC5EE5A0 := by decide +kernel
theorem crc_piece2 : zeros31 0xC971DB61AC5EE5A0 = 0x6F26C3C6016BB537 := by decide +kernel
theorem crc_piece3 : zeros31 0x6F26C3C6016BB537 = 0xEB621A16DEE3D757 := by decide +kernel
theorem crc_piece4 : zeros31 0xEB621A16DEE3D757 = 0x200EBED9D0C3DEA7 := by decide +kernel
theorem crc_piece5 : zeros31 0x200EBED9D0C3DEA7 = 0x9A39857896FA7A31 := by decide +kernel
theorem crc_piece6 : zeros31 0x9A39857896FA7A31 = 0xF881860E83873AC4 := by decide +kernel
theorem crc_piece7 : zeros31 0xF881860E83873AC4 = 0x7F52691A60DDC70D := by decide +kernel
theorem crc_piece8 : zeros31 0x7F52691A60DDC70D = 0xD4FD6170FD4CB964 := by decide +kernel

theorem crc_frame1 : crcOf crcFrame frame1 = 0xD4FD6170FD4CB964 := by
  have h : List.replicate 279 0#8 = List.replicate 31 0#8 ++ (List.replicate 31 0#8 ++ (List.replicate 31 0#8 ++
      (List.replicate 31 0#8 ++ (List.replicate 31 0#8 ++ (List.replicate 31 0#8 ++ (List.replicate 31 0#8 ++
      (List.replicate 31 0#8 ++ List.replicate 31 0#8))))))) := by decide +kernel
  have h0 : [1#8].foldl (crcByte crcFrame) 0 = 0x42F0E1EBA9EA3693 := by decide +kernel
  have z (v : Nat) : (List.replicate 31 0#8).foldl (crcByte crcFrame) v = zeros31 v := rfl
  have r : crcRun crcFrame crcFrame.init frame1 = 0xD4FD6170FD4CB964 := by
    show frame1.foldl (crcByte crcFrame) 0 = _
    simp only [frame1, h, List.foldl_append, h0, z, crc_piece0, crc_piece1, crc_piece2, crc_piece3, crc_piece4, crc_piece5, crc_piece6, crc_piece7, crc_piece8]
  simp only [crcOf, r]
  decide

theorem test_met_frames :
    let s := quadS { Quad.zero with replay := [(Frame.zero, 0)] }
    s.live = true ∧ s.quadUp 0 = true ∧ (s.quad 0).replay ≠ [] ∧ live0.quadUp 0 = false ∧ live0.ready = true ∧
    (live0.setField (offQuad 7) 1 0 1).field (offQuad 7) 1 0 = 1 ∧ (live0.quad 7).replay = [] ∧ (live0.quad 7).queue = [] ∧
    (s.quad 0).rxSeq + 1#12 = 0#12 := by decide +kernel

def bytes0 : List Byte := List.replicate 280 0#8
theorem crc_bytes0 : crcOf crcFrame bytes0 = 0 := by
  have h : crcRun crcFrame crcFrame.init bytes0 = 0 := crc_zeros 280
  simp only [crcOf, h]
  decide

/-- 280 bytes and their check value are read as a frame. -/
theorem frame_read (bs tail : List Byte) (h : bs.length = 280) (hc : crcOf crcFrame bs = leNat (tail.take 8)) :
    Frame.of (bs ++ tail) ≠ none := by
  have h1 : (bs ++ tail).take 280 = bs := by simp [← h]
  have h2 : (bs ++ tail).drop 280 = tail := by simp [← h]
  unfold Frame.of
  simp only [h1, h2, hc, ne_eq, not_true, if_false]
  intro hn
  cases hn

theorem test_met_frame_kinds :
    Frame.of (bytes0 ++ leBytes 8 0) ≠ none ∧ leNat (((bytes0 ++ leBytes 8 0).drop 0).take 1) = 0 ∧
    Frame.of (frame1 ++ leBytes 8 0xD4FD6170FD4CB964) ≠ none ∧ leNat (((frame1 ++ leBytes 8 0xD4FD6170FD4CB964).drop 0).take 1) = 1 ∧
    leNat (((frame1 ++ leBytes 8 0xD4FD6170FD4CB964).drop 4).take 2) = 0 ∧ (frame1 ++ leBytes 8 0).length = 288 ∧
    crcOf crcFrame bytes0 ≠ leNat ((leBytes 8 1).take 8) := by
  refine ⟨frame_read _ _ (by decide +kernel) ?_, ?_, frame_read _ _ (by decide +kernel) ?_, ?_, ?_, ?_, ?_⟩
  · rw [crc_bytes0]; decide +kernel
  · decide +kernel
  · rw [crc_frame1]; decide +kernel
  · decide +kernel
  · decide +kernel
  · decide +kernel
  · rw [crc_bytes0]; decide +kernel

theorem test_met_frames_accepted :
    let w := quadS { Quad.zero with rxSeq := 0#12 }
    (w.acceptFrame { Frame.zero with ty := 2 }).isSome = true := by decide +kernel

/-! Waves, checkpoints and attention. -/

def seq0 : Sequence :=
  { lane := 0, seed := 0, wp := 64, p := 0, ring := 0, bytesOut := false, temp := 0, topp := 0, topk := 0, maxnew := 0, stops := [],
    phase := .prefill, hist := List.replicate 9 5#32, filled := 0, feeds := [], sawLast := true, sampled := 0, dpos := 0,
    order := 0, redo := 0, inHeld := [], outHeld := [], closing := none, ending := none, share := none }
def waveS : State := { imgS with seqs := [(0, seq0)], nextOrder := 1 }
def ckpt0 : Checkpoint := { layer := 0, ctxs := [], flits := [] }

theorem test_met_wave_start :
    waveS.mayStart = true ∧ live0.mayStart = false ∧ (waveS.promptPositions.take 8).length = 8 ∧ waveS.resume = [] ∧
    waveS.anyDecode = false ∧ imgS.mayStart = true ∧ imgS.promptPositions = [] ∧ imgS.decodeLanes = [] ∧
    (let d := { waveS with seqs := [(0, { seq0 with phase := .decode }), (1, seq0)] }
     d.mayStart = true ∧ d.decodeLanes ≠ [] ∧ d.waves = [] ∧ d.outQ = [] ∧ d.anyDecode = true ∧
     (d.inserted < (d.setField 0x100 7 0 1).pfrun ∨ d.bfen = true ∨ (d.bfen = false ∧ d.pfrun ≤ d.inserted))) := by decide +kernel

theorem test_met_wave_boundary :
    let ended := { imgS with waves := [{ wave0 with mask := 0#8, lanes := [] }] }
    imgS.waves = [] ∧ ended.waves ≠ [] ∧
    ({ imgS with waves := [wave0] } : State).endingWave [(7, 0#32)] = none := by decide +kernel

/-- With the one program past its last layer, the wave has been run to its end. -/
theorem test_met_wave_end :
    let w := { wave0 with reached := [(0, 0)] }
    let s := { imgS with waves := [w], seqs := [(0, { seq0 with phase := .decode })], image := some { img0 with programs := [] } }
    (s.endingWave [(0, 3#32)]).isSome = true := by decide +kernel

theorem test_met_backfill_and_gaps :
    let q : List EngOp := [.ews .p true true 1 0]
    let k := imgS.setCore 0 { (imgS.core 0).setEng 0 { Engine.zero with backQ := q } with gap := some 320 }
    let s := { k with waveCtl := some 0x100#64 }
    let g := (s.core 0).eng 0
    s.coreLive 0 = true ∧ s.bfen = true ∧ (s.core 0).gap = some 320 ∧ headWork g.backQ = some (0, 1, 0, 1) ∧
    rowTime (cfgFrom g.cfg g.queue).wfmt 0 1 0 ≤ 320 ∧ g.queue.length + 1 ≤ 8 ∧ s.anyDecode = false ∧
    ({ s with seqs := [(0, { seq0 with phase := .decode })] } : State).anyDecode = true ∧ ({ s with waveCtl := some 0#64 } : State).bfen = false ∧ State.reset.coreLive 0 = false ∧
    (live0.core 0).gap = none := by decide +kernel

theorem test_met_checkpoints :
    let sv : CtxSave := { core := 0, c := .d, pc := 0, a := Vector.replicate 32 0#64, aPois := 0, p := Vector.replicate 8 0#64,
                          h := Vector.replicate 16 none, carry := [], pend := 0 }
    let w := { wave0 with saves := [(startLayer, sv)] }
    let s := { imgS with waves := [w] }
    s.live = true ∧ (s.waveOf 1).isSome = true ∧ w.paused = false ∧ w.ckpts = [] ∧ s.committable w 0 = true ∧
    s.committable wave0 0 = false := by decide +kernel

theorem test_met_replays :
    let w := { wave0 with ckpts := [ckpt0] }
    let x := { ctx0 with stopped := true, inWave := true, waveWord := 1#64 }
    let s := { runWith x with image := some img0, waves := [w] }
    s.waveOf 1 = some w ∧ w.paused = false ∧ w.ckpts.find? (fun c => decide (c.layer = 0)) = some ckpt0 ∧
    s.poisonReplay w 0 = false ∧ s.faultReplay w 0 = true ∧ ({ imgS with waves := [w] } : State).faultReplay w 0 = false := by
  decide +kernel

theorem test_met_regeneration :
    let none_ := { imgS with regen := [7] }
    let m := { imgS with seqs := [(0, seq0)], regen := [9], mem := { imgS.mem with bytes := memWrite [] (imgS.mapAt 0 0 0 0) [9#8, 0, 0, 0x80] } }
    let s := m.setField (offSeq 0 + 8) 20 0 9
    none_.mayStart = true ∧ 7 ∈ none_.regen ∧ none_.pageSeq 7 = none ∧ s.mayStart = true ∧ s.pageSeq 9 = some (0, 0, 0, 0) ∧
    0 < Nat.min 8 (Nat.min 64 (s.seqLen 0 - 0) - tabGetD s.regenPos 9 0) := by decide +kernel

theorem test_met_measurement : ({ live0 with measure := [(0x10#64, 0, false)] } : State).measure = [(0x10#64, 0, false)] := rfl

def attOp0 (ph : Nat) : AttOp :=
  { core := 0, c := .d, phase := ph, wave := 1, mask := 1#8, inS := none, outS := none, addr := 0, cfg := [], bad := false,
    begun := true }
def cfg0 : List Word := [0x0110#64, 0#64, 0x3F8000003F800000#64, 0#64, 0#64, 0#64, 0#64, 0#64]
def unit0 : AttUnit :=
  { lane := 0, member := 0, seqn := 0, pos := 0, q := [], sel := [], heads := [], pois := false, staged := [(0, 7)], merged := 0,
    done := true }
def part0 : AttPartial := { wave := 1, layer := 0, grp := 0, lane := 0, heads := [], pois := false }
def pipeS (p : Pipe) : State := { imgS with waves := [{ wave0 with regen := some 7 }] }.setPipe 0 p

theorem test_met_appends :
    let p := { Pipe.zero with cfg := cfg0, queue := [attOp0 0], appends := 1#8 }
    let s := pipeS p
    let sh := s.shares 0 cfg0 (attOp0 0)
    s.live = true ∧ (s.pipe 0).queue = [attOp0 0] ∧ sh = [{ lane := 0, member := 0, seqn := 0, pos := 0 }] ∧
    sh.find? (fun x => decide (x.lane = 0) && decide (x.pos / 64 % listM (s.servingList cfg0 x.seqn) = x.member)) =
      some { lane := 0, member := 0, seqn := 0, pos := 0 } ∧ p.appends.getLsbD 0 = true ∧ cfgD cfg0 = 16 ∧
    (s.appendToken 0 cfg0 { lane := 0, member := 0, seqn := 0, pos := 0 } (List.replicate 16 0#16) (List.replicate 16 0#16)
      (some 7)).isSome = true := by decide +kernel

theorem test_met_attention :
    let s := pipeS { Pipe.zero with cfg := cfg0, queue := [attOp0 2], units := [unit0], inbox := [part0] }
    s.live = true ∧ (s.pipe 0).queue = [attOp0 2] ∧
    (((s.pipe 0).units.zipIdx.flatMap fun x => x.1.staged.map fun y => (x.2, y))[0]? = some (0, (0, 7))) ∧
    (s.pipe 0).units[0]? = some unit0 ∧
    (s.pipe 0).inbox.find? (fun y => decide (y.wave = 1) && decide (y.layer = cfgLayer cfg0) && decide (y.grp = cfgGrp cfg0)) =
      some part0 ∧ (s.pipe 0).units.findIdx? (fun u => decide (u.lane = part0.lane) && decide (u.member = 0)) = some 0 ∧
    s.hasImage = true ∧ (imgS.pipe 0).reserve.length < 8 ∧
    ((imgS.setPipe 0 { Pipe.zero with reserve := List.replicate 8 (0, 0, 0) }).pipe 0).reserve.length = 8 := by decide +kernel

def rec0 (l : Nat) : PageRec := { ref := 1, bf := false, loc := l, pois := false, idx := false, pos := 0, slot := 0, haddr := 0 }
/-- A saved prefix that maps page 7, whose record has location l. -/
def demoS (l : Nat) : State :=
  let px : Prefix := { tokens := List.replicate 64 0#32, maps := [(0, 7)] }
  let s := { imgS with prefixes := [(0, px)], mem := { imgS.mem with bytes := memWrite [] (imgS.recAt 7) (rec0 l).bytes } }
  s.setField (offATT + 0x28) 23 0 4
def waitS : State := imgS.setPipe 0 { Pipe.zero with appends := 1#8 }
def demoH (l : Nat) : State := { demoS l with hpages := [(14, 0)] }

theorem test_met_demotions :
    imgS.appendWaits 0 = false ∧ (imgS.freeSlots 0).length < (imgS.setField offATT 47 32 1).field offATT 47 32 ∧
    (imgS.setField offATT 47 32 0).field offATT 47 32 ≤ (imgS.freeSlots 0).length ∧ (imgS.demotionPick 0).1 = none ∧
    (((demoS 1).demotionPick 0).1.map fun x => (x.1, x.2.1)) = some (0, 7) ∧ (demoS 1).freeHbm 1 = some 0 := by decide +kernel

theorem test_met_demotions_without_a_page :
    waitS.appendWaits 0 = true ∧ waitS.freeSlots 0 = [] ∧ (waitS.demotionPick 0).1 = none ∧ tabGet? imgS.hpages 14 = none ∧
    (tabGet? (demoH 3).hpages 14).isSome = true ∧ ((demoH 3).readRec 7).1.loc = 3 ∧ ((demoH 1).readRec 7).1.loc = 1 := by
  decide +kernel

/-! Faults, resets and recovery. -/

theorem test_met_failovers :
    let f := { imgS with failover := [(0, 3)] }
    let gone := { imgS with grain := { imgS.grain with cl := Vector.replicate 48 (BitVec.allOnes 53) } }
    imgS.live = true ∧ imgS.hasPos 3 = true ∧ isK12 3 = false ∧ imgS.spareOpen 0 = true ∧ imgS.failed = [] ∧
    (3, false) ∈ (imgS.coreFails 3 false).failed ∧ (3, true) ∈ (imgS.coreFails 3 true).failed ∧
    (3, false) ∉ (gone.coreFails 3 false).failed ∧ (3, true) ∉ (gone.coreFails 3 true).failed ∧ gone.hasPos 3 = false ∧ isK12 12 = true ∧
    f.failover.find? (fun x => decide (x.1 = 0)) = some (0, 3) ∧ f.resume = [] ∧ f.waves = [] ∧
    (imgS.setBit (offERR + 8) 7).bit (offERR + 8) 7 = true ∧ (imgS.setBit (offERR + 8) 7).degCl = [] ∧
    (imgS.clearBit (offERR + 8) 7).bit (offERR + 8) 7 = false := by decide +kernel

theorem test_met_links_and_edges :
    let s := imgS.setStrm 0 { imgS.strm 0 with fly := [{ c := .d, wave := 1, flit := flit0, path := some [.mesh 0 16] }] }
    s.live = true ∧ s.streamDef 0 = some stream0 ∧ (s.strm 0).fly ≠ [] ∧ (s.meshOut 0).getLsbD 16 = false ∧
    tabGet? ((s.poisonFlit 0).errRec 4 3 (meshUnit 0 16) 0).netChurn 16 = none ∧
    (let t := { s with netChurn := [(16, 0)], churns := 1 }
     tabGet? ((t.poisonFlit 0).errRec 4 3 (meshUnit 0 16) 0).netChurn 16 = some 0) ∧
    imgS.edgesDown = [] ∧ (0 : Fin 4) ∈ ({ imgS with edgesDown := [0] } : State).edgesDown ∧
    (1 : Fin 4) ∉ ({ imgS with edgesDown := [0] } : State).edgesDown := by decide +kernel

theorem test_met_resets_and_recovery :
    let r := { live0 with boot := { live0.boot with recovering := true } }
    live0.live = true ∧ live0.image = none ∧ imgS.hasImage = true ∧ r.ready = true ∧ r.boot.sysLost = [] ∧
    ({ r.boot with sysLost := [0] } : Boot).sysLost ≠ [] ∧
    (let h := ({ imgS with waves := [wave0], idleChurns := 5 } : State).setField (offCNT + 0x10) 15 0 5
     h.field (offCNT + 0x10) 15 0 ≠ 0 ∧ h.field (offCNT + 0x10) 15 0 ≤ h.idleChurns ∧
     ({ h with idleChurns := 4 } : State).idleChurns < h.field (offCNT + 0x10) 15 0) ∧
    (156 * 3 + 155) / 156 = 3 := by decide +kernel

/-! Power, flash, boot and pins. -/

def heldS : State := live0.setBit offPSTAT 23

theorem test_met_power :
    live0.boot.rails = true ∧ (35999 < 36000) ∧ (List.range 5).length = 5 ∧
    (live0.recordWindow power0).power.vinLow = live0.power.vinLow ∧
    live0.bit (offPhase 3) 39 = false ∧ (live0.setBit (offPhase 3) 39).bit (offPhase 3) 39 = true ∧
    (((live0.setField (offPhase 3) 38 36 7).setBit (offPhase 3) 39).setBit (offPWR + 0x10) 20).field (offPhase 3) 39 36 = 15 ∧
    ((live0.setBit (offPhase 3) 39).setBit (offPWR + 0x10) 20).field (offPhase 3) 39 36 ≠ 15 ∧
    (944 : Int) ≤ (944#16).toInt ∧ (943#16).toInt < 944 ∧ live0.pins.vaux = true ∧
    (900 ≤ (900#16).toNat ∧ (1950#16).toNat ≤ 1950) ∧ ¬ (899#16 = 0#16 ∨ (900 ≤ (899#16).toNat ∧ (899#16).toNat ≤ 1950)) := by
  decide +kernel

theorem test_met_hints_and_flash :
    ({ live0.power with hintFall := some 1, hintRise := some 2 } : Power).hintRise = some 2 ∧ heldS.flashHeld = true ∧
    live0.flashHeld = false ∧ heldS.boot.rails = true ∧ 1000 ≤ ({ heldS.power with flashOk := 1000 } : Power).flashOk ∧
    heldS.power.flashOk < 1000 ∧ live0.ready = true := by decide +kernel

def stage0 (b : Bool) : StageResult :=
  { ok := b, detail := 9, unitWord := 0, pll := 0xFFF#12, dieTemp := List.replicate 12 400, keyOk := true, fwSvn := 0, seSvn := 0,
    stored := true, margin := [], posFail := [], bonds := [], pipesOut := [], meshOut := [], hbmId := [], hbmNot := [], dimms := [],
    ddrUp := [], sysLost := [], memLost := [], edgesUp := [], portsUp := [], quads := [] }

/-- A bring-up that has reached stage k with every PLL locked. -/
def bootS (k : Nat) : State :=
  { State.reset with boot := { State.reset.boot with running := some k, locks := BitVec.allOnes 12 } }

theorem test_met_bring_up :
    let w (b : Bool) := (State.reset.trainStage 0 (stage0 b)).stageWork 0 (stage0 b)
    State.reset.boot.running = some 0 ∧ State.reset.pins.refclk = true ∧ (∀ t ∈ (stage0 true).dieTemp, t ≤ 760) ∧
    (∃ t ∈ ({ stage0 true with dieTemp := [761] } : StageResult).dieTemp, (760 : Int) < t) ∧ live0.boot.running = none ∧
    (w true).stageFault 0 (stage0 true) = none ∧ (w false).stageFault 0 (stage0 false) = some (9, 0#64) ∧
    ((bootS 8).stageWork 8 (stage0 true)).stageFault 8 (stage0 true) = none ∧ State.reset.boot.locks ≠ BitVec.allOnes 12 ∧
    (bootS 4).boot.locks = BitVec.allOnes 12 ∧ ({ stage0 true with hbmNot := [(7, 3)] } : StageResult).hbmNot = (7, 3) :: [] ∧
    ({ bootS 3 with grain := { (bootS 3).grain with cl := Vector.replicate 48 (BitVec.allOnes 53) } } : State).grain.working = false ∧
    ({ State.reset.flash with a := { State.reset.flash.a with good := false },
                              b := { State.reset.flash.b with good := false } } : Flash).chosen = none := by
  decide +kernel

theorem test_met_boot_and_pins :
    live0.portUp .a = true ∧ live0.portUp .b = false ∧ live0.holder = some .a ∧ live0.field offHQ 15 8 ≠ 0 ∧
    (let d := live0.clearBit offHQ 2
     d.portUp .a = false ∧ d.perstHigh .a = true ∧ d.portWired .a = true ∧ d.past6 = true ∧ d.bit offBOOT 4 = false ∧
     (d.setField offHQ 1 0 0).holder = none ∧ d.field offHQ 47 16 = 0) ∧ live0.pins.pwrgd = true ∧ live0.pins.resetL = true ∧
    live0.boot.rails = true ∧ live0.ready = true ∧ State.reset.boot.recovering = false ∧ State.reset.ready = false ∧
    ({ live0 with pins := { live0.pins with refclk := false } } : State).time = 0 ∧
    (let m := ((State.reset.setBit offBOOT 4).setField offBOOT 47 40 1)
     m.bit offBOOT 4 = true ∧ m.field offBOOT 47 40 = 1 ∧ m.field offBOOT 3 0 = 0) := by decide +kernel

/-! Rings, commands, registers and the seal. -/

def ringS (r : RingId) : State :=
  State.setRing (live0.setReg (ringOff r + 8) 0x8000000000000006#64) r { RingRt.zero with used := true }

theorem test_met_rings :
    live0.boot.recovering = false ∧ live0.ringEn (.sub 0) = false ∧ (ringS (.sub 63)).ringEn (.sub 63) = true ∧
    (ringS (.sub 63)).ringSize (.sub 63) = 64 ∧
    modSub 63 ((ringS (.sub 63)).ringHost (.sub 63)) 64 = 63 ∧
    modSub ((ringS (.sub 63)).ringHost (.sub 63)) ((ringS (.sub 63)).ringDev (.sub 63)) 64 + 63 < 64 ∧
    live0.acked (.comp 0) 0#64 = none ∧ (ringS (.comp 0)).acked (.comp 0) 0#64 = some 0 ∧
    ((ringS (.comp 0)).setField (ringOff (.comp 0) + 0x10) 31 16 5).acked (.comp 0) 5#64 = some 5 ∧
    ((ringS (.comp 0)).setField (ringOff (.comp 0) + 0x10) 31 16 5).acked (.comp 0) 6#64 = none ∧
    (ringS (.out 255)).acked (.out 255) 0#64 = some 0 ∧ live0.acked (.ev 1) 0#64 = none ∧ (ringS (.ev 1)).acked (.ev 1) 0#64 = some 0 ∧
    ({ live0 with boot := { live0.boot with recovering := true } } : State).boot.recovering = true ∧ live0.hearsPort .a = true ∧
    live0.hearsPort .b = false ∧ 6 ≤ fieldOf 6#64 4 0 ∧ fieldOf 16#64 4 0 ≤ 16 := by decide +kernel

theorem test_met_messages :
    (65 ∈ ({ live0 with outbox := { live0.outbox with msixDue := [65] } } : State).outbox.msixDue) ∧ live0.outbox.msixDue = [] ∧
    live0.portUp .a = true ∧ live0.portUp .b = false := by decide +kernel

/-- Command c logged by port A and open. -/
def cmdS (s : State) (c : HostCmd) : State :=
  { s with log := [{ cmd := c, port := .a, stage := .waiting, replayed := false, written := false, slot := 0 }] }
def cmd (opc : BitVec 8) (w1 : Word) : HostCmd := { h0 with opc := opc, w1 := w1 }
def takesNow (s : State) (c : HostCmd) (opc : Nat) (masks : List Nat) : Bool :=
  match s.entryOf c with
  | some e => s.live && decide (c.opc.toNat = opc) && s.turnOf c && (freeToAll opc || decide (s.holder = some e.port)) &&
      cmdFits c masks && !s.stopped
  | none => false

theorem takes_of_check {s : State} {c : HostCmd} {opc : Nat} {masks : List Nat} (h : takesNow s c opc masks = true) :
    ∃ e, s.cmdTakes c opc masks e := by
  unfold takesNow at h
  rcases he : s.entryOf c with _ | e
  · simp [he] at h
  · simp only [he, Bool.and_eq_true, Bool.or_eq_true, decide_eq_true_eq, Bool.not_eq_true'] at h
    exact ⟨e, he, h.1.1.1.1.1, h.1.1.1.1.2, .inr ⟨h.1.1.1.2, h.1.1.2, h.1.2, .inl h.2⟩⟩

/-- Every host command takes its turn on a state, with operands of its table. -/
theorem test_met_host_commands_take_their_turn :
    ([(0x01, [anyWord, anyWord]), (0x02, [1]), (0x04, []), (0x05, [anyWord, ones 23 0 ||| ones 33 32]),
      (0x06, [ones 3 0 ||| ones 63 32]), (0x07, [anyWord, ones 5 0 ||| ones 11 8]), (0x08, [0x1F]), (0x09, [0x1F]),
      (0x0A, [3]), (0x0B, [ones 20 0]), (0x0C, [ones 9 0]), (0x0D, [anyWord, anyWord, anyWord]), (0x0E, [anyWord, anyWord, anyWord]),
      (0x0F, []), (0x10, [1]), (0x11, [0xFFFF]), (0x12, [anyWord]), (0x13, [anyWord, anyWord, anyWord])].all fun x =>
      takesNow (cmdS waveS (cmd (BitVec.ofNat 8 x.1) 0#64)) (cmd (BitVec.ofNat 8 x.1) 0#64) x.1 x.2) = true ∧
    takesNow (cmdS waveS (cmd 0x03 0#64)) (cmd 0x03 0#64) 0x03 [anyWord, ones 10 0 ||| ones 32 16 ||| ones 63 48, anyWord,
      ones 7 0 ||| ones 63 32, anyWord, anyWord] = true ∧
    live0.entryOf h0 = none ∧ cmdFits (cmd 0x02 2#64) [1] = false ∧
    (cmdS (live0.setField offHQ 1 0 2) (cmd 0x02 0#64)).holder ≠ some .a ∧ runsStopped 0x01 = false := by decide +kernel

theorem test_met_host_commands :
    live0.loadDetail img0 = none ∧ imgS.loadDetail img0 = some 8 ∧ chunkList img0 = [] ∧ img0.runs = [] ∧
    chunkList { img0 with chunks := 0x80000000#32 } = [31] ∧ imgS.hasImage = true ∧ live0.hasImage = false ∧
    waveS.openSeqs ≠ [] ∧ imgS.openSeqs = [] ∧ waveS.openSeq? 0 = some seq0 ∧ seq0.closing = none ∧
    (padTokens 1 [7#32]).all (fun t => decide (t.toNat < 1000)) = true ∧ seq0.fedLen + 1 ≤ 1048576 ∧
    waveS.freePrefix = some 0 ∧ seq0.share = none ∧ waveS.waves = [] ∧
    tabGet? ({ imgS with prefixes := [(1023, { tokens := [], maps := [] })] } : State).prefixes 1023 =
      some { tokens := [], maps := [] } ∧ live0.isSealed = false ∧ (live0.setBit offSEAL 0).isSealed = true ∧
    (live0.setBit (offDDR + 0x800) 31).chunkOnline 31 = true ∧ live0.chunkBacks 31 = false ∧
    (live0.setBit (offDDR + 0x800) 63).chunkLent 31 = true ∧ live0.fillQ = [] := by decide +kernel

theorem test_met_open_sequences :
    fieldOf 0xFFFF000000000040#64 63 48 = 0xFFFF ∧ openOk { h0 with w2 := 0xFFFF000000000040#64 } = true ∧
    openOk { h0 with w2 := 0xFFFF00000000000F#64 } = false ∧ openOk { h0 with w2 := 0xFFFF000000000010#64 } = true ∧ tabGet? imgS.seqs 0 = none := by decide +kernel

theorem test_met_transfers :
    xTarget (cmd 0x0D 1#64) = none ∧ (xTarget { h0 with w3 := 64#64 }).isSome = true ∧
    (xTarget { h0 with w1 := 0x8000000000000000#64, w3 := 64#64 }).isSome = true ∧
    live0.xAccess (.mem 0) 64 = .ok ∧ live0.xAccess (.mem 0x090000000000) 64 = .refused ∧
    live0.xAccess (.mem 0x010000000000) 64 ≠ .ok ∧ live0.xAccess (.field 0 0) 64 = .ok ∧ live0.backedIn 0 0 64 = false ∧
    live0.hostGo (.mem 0) 64 false = true ∧ live0.hostGo (.mem 0) 64 true = true ∧
    (live0.setField (offTIER 0 + 0x40) 11 0 0).hostGo (.mem 0) 64 false = false ∧ live0.bit offDUMP 63 = false ∧ (live0.setBit offDUMP 63).bit offDUMP 63 = true ∧
    (2 ^ 30 - 64 + 64 ≤ 2 ^ 30) := by decide +kernel

theorem test_met_registers :
    live0.portUp .a = true ∧ live0.boot.recovering = false ∧ live0.isSealed = false ∧ live0.holder = some .a ∧ offMBX ≠ 0x100 ∧
    regRow? 4 = none ∧ (∃ r, regRow? 0x100 = some r) ∧ rndReserved 4#64 = false ∧ rndReserved 5#64 = true ∧
    live0.flashHeld = false ∧ live0.bit (offMBX + 8) 8 = false ∧ (live0.setBit (offMBX + 8) 8).bit (offMBX + 8) 8 = true ∧
    live0.bit (offUnit 14) 16 = false ∧ (live0.setBit (offUnit 14) 16).bit (offUnit 14) 16 = true ∧
    (8 ≤ fieldOf 64#64 6 0 ∧ fieldOf 64#64 6 0 ≤ 64) ∧ (8 ≤ fieldOf 8#64 6 0) := by
  refine ⟨?_, ?_, ?_, ?_, ?_, ?_, ⟨_, rfl⟩, ?_⟩ <;> decide +kernel

theorem test_met_memory_windows :
    live0.portUp .a = true ∧ live0.live = true ∧ inDram 0x40 = true ∧ inDram 0x0A0000000000 = false ∧
    (live0.setField offHBM 2 0 2).hdmReadWay 0 1 = .slice ∧ (let c := { live0 with trust := { live0.trust with windowsClosed := true } }
     c.trust.windowsClosed = true ∧ c.hdmWriteWay 0 = .closed ∧ c.inEgress 0 1 = false) := by decide +kernel

theorem test_met_security_protocol :
    let s := (live0.setBit offSEAL 4).setConn .mctp 3
    s.spdmHears .mctp = true ∧ live0.spdmHears (.doe .b) = false ∧ s.sealUp = true ∧ live0.sealUp = false ∧ 3 ≤ s.conn .mctp ∧
    live0.conn .mctp = 0 ∧ s.trust.sessions.length < 4 ∧
    (let t := { s with trust := { s.trust with sessions := [{ id := 1, port := .mctp, secure := true }] } }
     t.hasSession .mctp 1 true = true ∧ t.hasSession .mctp 2 true = false ∧
     ({ t with trust := { t.trust with sessions := [{ id := 1, port := .mctp, secure := false }] } } : State).hasSession .mctp 1 false =
       true) ∧ (0x3FFFF < 0x40000) := by decide +kernel

/-! Further clauses of the statements above. -/

theorem test_met_predicates_and_conversions :
    tabGetD run0.cnt.vals (0x100 * 256 + 7) 0 + 1 < 2 ^ 48 ∧ (fi 0).imm.toNat / 2 ^ 28 % 4 < 2 ∧
    2 ≤ (fi 0x20000000).imm.toNat / 2 ^ 28 % 4 ∧ mayIssue run0 (.plog u0 (fi 0x180000)) = true ∧
    mayIssue run0 (.vcvt u0 (fi 0x30000)) = true ∧ fmtOf ((fi 0x30000).imm.toNat / 2 ^ 15 % 8) = .e8 ∧
    fmtOf ((fi 0x30000).imm.toNat / 2 ^ 18 % 8) = .fp32 ∧ partOk .fp32 .e8 0 = true := by decide +kernel

/-- Engine 0 of core 0 with its queue full, and with back-fill work that waits for a gap. -/
def fullEng : State := engS { Engine.zero with queue := List.replicate 8 (.ecf .d Engine.zero.cfg) }

theorem test_met_engine_queues_full :
    mayIssue fullEng (.eld u0 f0) = true ∧ mayIssue fullEng (.ews u0 f0) = true ∧ mayIssue fullEng (.edr u0 f0) = true ∧
    mayIssue fullEng (.ecf u0 f0) = true ∧ ((fullEng.core 0).eng 0).queue.length = 8 ∧
    (let s := (engS { Engine.zero with backQ := [.ews .p true true 1 0] }).setCtx 0 .p ctx0
     s.apart 0 .p 0 = true ∧ mayIssue s (.eld u1 f0) = true) := by decide +kernel

theorem test_met_field_accesses_that_wait :
    let moving := { run0 with splits := [(0, 12)] }
    let shut := State.setField { run0 with backs := [(0, { foff := 0, flen := 1, baddr := 0, alt := none })],
                                           mem := { run0.mem with chk := [(fieldKey 0 0, 1#8)] } } (offTIER 0 + 0x60) 11 0 0
    ((moving.setField (offSPLIT 0) 4 0 16).fieldGo 0x0A0001800000 8 false).1 = .waits ∧ shut.restoreWaits 0 0 8 = true ∧
    (shut.fieldGo 0x0A0000000000 8 false).1 = .ok ∧ run0.restoreWaits 0 0 8 = false := by decide +kernel

theorem test_met_group_cached_clauses :
    let x (v : Lane) := { grpCtx0 with t := tReg 1 fun _ => v }
    (fi 0x100000).imm.getLsbD 20 = true ∧ mayGroup grp0 (.gldc g0 { fi 0x100000 with dst := 1 }) sub0 = true ∧
    mayGroup (runG (x 2#32)) (.gstc g0 { f0 with srcb := 1 }) sub0 = true ∧ ((x 2#32).tv 1 0).toNat % 4 ≠ 0 ∧
    grp0.cachedOk 0 0 4 false false = true ∧
    (runG { grpCtx0 with u := grpCtx0.u.set 1 0x005F80000000#64 }).cachedOk 0 0x005F80000000 4 false false = false ∧
    mayGroup (runG { grpCtx0 with u := grpCtx0.u.set 1 0x005F80000000#64 }) (.gldc g0 { f0 with srca := 1 }) sub0 = true ∧
    mayGroup grp0 (.gred g0 (fi 0x200000)) sub0 = true := by decide +kernel

theorem test_met_group_partners :
    (∃ w, groupUseOf (.gnop g0 (fi 1)) = some (g0, fi 1, w, []) ∧ grp0.partners g0 (fi 1) w [] = []) := ⟨_, rfl, by decide +kernel⟩

theorem test_met_waiting_launches :
    let s := imgS.setCore 0 { imgS.core 0 with launches := [launch0] }
    let b := (runWith { ctxH with waveWord := 1#64 })
    let p := { b with image := some img0, seqs := [(0, { seq0 with phase := .decode })],
                      waves := [{ wave0 with prefill := true }] }
    let q := (p.setCtx 0 .p { ctx0 with waveWord := 1#64, inWave := true }).setCore 0
      { (p.setCtx 0 .p { ctx0 with waveWord := 1#64, inWave := true }).core 0 with launches := [{ launch0 with c := .p }] }
    (s.waitingLaunches 0).head? = some launch0 ∧ s.asBackfill 0 launch0.c = false ∧ q.asBackfill 0 .p = true ∧
    (∀ y ∈ (q.core 0).launches, y.started = false → y.c ≠ .d) ∧
    ((q.setCore 0 { q.core 0 with launches := [{ launch0 with c := .p }, { launch0 with id := 1 }] }).core 0).launches.find?
      (fun y => !y.started && decide (y.c = .d)) = some { launch0 with id := 1 } := by decide +kernel

theorem test_met_requests :
    let r := req0 (.ld .none false false)
    let s := { live0 with reqs := [r] }
    s.reqRefused r = false ∧ s.reqRefused { r with pa := 0x010000000000 } = true ∧ s.reqHeld r = false ∧
    (let d := ((live0.setField (offCh 0) 10 8 2).setField (offCh 0) 25 24 2).setField (offCh 0) 23 15 256
     d.reqHeld { r with pa := 0x010000000000 } = true ∧ d.reqRefused { r with pa := 0x010000000000 } = false) ∧
    s.reqBehind 0 r = false ∧ ({ s with reqs := [r, r] } : State).reqBehind 1 r = true ∧ s.flushGo 0 1 1 (fun _ => true) = true ∧
    (let k := State.setField { live0 with lines := [(0, { line0 with state := 2#3 })] } (offTIER 0 + 0x40) 11 0 0
     k.flushGo 0 1 1 (fun _ => true) = false) ∧ (tabGet? ({ live0 with evicts := [(1, evict0)] } : State).evicts 0) = none ∧
    fill0.late = none ∧ fill0.data = some (List.replicate 256 1#8) ∧ (List.replicate 256 1#8).length = 256 := by decide +kernel

theorem test_met_reductions_on_bad_lines :
    let s := { live0 with lines := [(0, { line0 with reds := [(red0, none)] })] }
    let bad := { s with cmem := { s.cmem with chk := [(0, 1#8)] } }
    s.badFlits 0 = [] ∧ bad.badFlits 0 ≠ [] ∧ line0.curd = false ∧ line0.state = 1#3 ∧ line0.skim = false ∧ line0.chuck = none ∧
    live0.mayIssue (sliceOf 0) 0 (ctlOf 256) = true := by decide +kernel


theorem test_met_descriptor_copies :
    let copy := desc0 1#64 0x1000#64 0x2000#64
    let late := desc0 1#64 0x010000000000#64 0x2000#64
    let d := ((live0.setField (offCh 0) 10 8 2).setField (offCh 0) 25 24 2).setField (offCh 0) 23 15 256
    0 < ((movS [copy]).postQ 15 3).length ∧ d.moverAccess late.srcA late.len = .waits ∧ live0.copyGo 15 copy = true ∧
    (live0.setField (offTIER 0 + 0x40) 11 0 0).copyGo 15 copy = false ∧ (fieldAt copy.srcA).isNone = true ∧
    ((movS [copy]).postQ 15 3)[0]? = some copy ∧ copy.started = true ∧ copy.copied = false ∧
    live0.descStatus (desc0 1#64 0x1#64 0x2000#64) ≠ 0 ∧
    (live0.backBeats (moverOf 15) 0 0x1000 none 4).1.isSome = true ∧
    ((State.backBeats { live0 with mem := { live0.mem with pois := [64] } } (moverOf 15) 0 0x1000 none 4).1 = none) := by
  decide +kernel

theorem test_met_releases_of_records :
    let rel := desc0 0x100000002#64 0#64 0x0A0000000000#64
    let b : BackRec := { foff := 0, flen := 1, baddr := 0, alt := none }
    let s := { movS [rel] with backs := [(0, b)] }
    rel.kind = 2 ∧ fieldAt rel.dstA = some (0, 0) ∧ s.restoring 0 0 rel.len = false ∧ s.backsOf 0 = [b] ∧ 512 * b.flen = rel.len ∧
    (s.setCore 0 ((s.core 0).setEng 0 (feedS .restore { plane0 with addr := 0 }))).restoring 0 0 rel.len = true ∧
    (∀ x ∈ live0.backsOf 0, x.foff ≠ 0) := by decide +kernel

theorem test_met_peer_transfers :
    let pw := desc0 4#64 0x1000#64 0#64
    let con : Desc := { pw with w := { pw.w with w6 := 0x3000#64 } }
    con.cont = true ∧ con.chken = true ∧ (live0.setBit (offUnit 0) 16).bit (offUnit con.chku) 16 = true ∧
    live0.mayRead (moverOf 15) 0 pw.srcA pw.len = true ∧
    (live0.setField (offTIER 0 + 0x40) 11 0 0).mayRead (moverOf 15) 0 pw.srcA pw.len = false ∧ pw.len / 256 = 1 ∧
    ({ pw with w := { pw.w with w0 := 0x1004#64 } } : Desc).upd = true ∧
    live0.updWaits (moverOf 15) 0 0 = false ∧ State.updWaits (((live0.setField (offCh 0) 10 8 2).setField (offCh 0) 25 24 2).setField (offCh 0) 23 15 256) (moverOf 15) 0 0x010000000000 = true ∧
    ({ desc0 0x1001#64 0x1000#64 0x2000#64 with copied := true, host := some (0, 1) } : Desc).host = some (0, 1) ∧
    ({ desc0 0x1001#64 0x1000#64 0x2000#64 with copied := true } : Desc).upd = true ∧
    live0.moverAccess 0x090000000000 8 = .refused := by decide +kernel

theorem test_met_frame_statuses :
    let s := quadS Quad.zero
    let f : Frame := { Frame.zero with ty := 1, addr := 0x1000, payload := List.replicate 256 0#8 }
    f.flags.getLsbD 2 = false ∧ f.flags ≠ 2#3 ∧ s.frameStatus f 256 = some 0 ∧
    s.frameStatus { f with addr := 0x090000000000 } 256 = some 2 ∧ s.frameData { f with addr := 0x090000000000 } ≠ none ∧
    ((s.setField (offTIER 0 + 0x40) 11 0 0).frameData f = none) ∧ f.dst = s.deviceId ∧ (0 < (2#2).toNat) ∧
    ((s.setField (offQuad 0) 1 0 1).field (offQuad 0) 1 0 = 1) ∧ s.ready = true ∧ (List.replicate 200 0#8).length ≠ 288 := by
  decide +kernel

theorem test_met_waves :
    let d := { waveS with seqs := [(0, { seq0 with phase := .decode }), (1, seq0)] }
    (d.recallLanes (d.promptPositions.take 8)).promptPositions.take 8 ≠ [] ∧
    ((waveS.recallLanes (waveS.promptPositions.take 8)).promptPositions.take 8 ≠ []) ∧
    (waveS.recallLanes (waveS.promptPositions.take 8)).resume = [] ∧
    (waveS.recallLanes (waveS.promptPositions.take 8)).anyDecode = false ∧
    (imgS.recallLanes (imgS.promptPositions.take 8)).promptPositions.take 8 = [] ∧
    (d.recallLanes (d.decodeLanes.map (·.2))).decodeLanes ≠ [] ∧ (d.recallLanes (d.decodeLanes.map (·.2))).resume = [] ∧
    (imgS.recallLanes (imgS.decodeLanes.map (·.2))).decodeLanes = [] ∧
    (let t := State.setField d 0x100 8 0 0
     (t.recallLanes (t.promptPositions.take 8)).anyDecode = true) := by decide +kernel

theorem test_met_poisoned_layers :
    let bad : Checkpoint := { layer := 1, ctxs := [], flits := [(0, { flit0 with pois := true })] }
    let w := { wave0 with ckpts := [ckpt0, bad] }
    let s := { imgS with waves := [w] }
    s.waveOf 1 = some w ∧ w.ckpts.find? (fun c => decide (c.layer = 0)) = some ckpt0 ∧ s.poisonReplay w 0 = true ∧
    s.blame w 0 = some 0 ∧ ({ imgS with streams := [], image := none } : State).blame w 0 = none ∧
    (({ s.core 0 with replays := 3 } : Core).replays = 3) ∧ (∀ c ∈ wave0.ckpts, c.layer < 0) := by decide +kernel

theorem test_met_regenerations_and_measurements :
    let m := { imgS with seqs := [(0, seq0)], regen := [9], mem := { imgS.mem with bytes := memWrite [] (imgS.mapAt 0 0 0 0) [9#8, 0, 0, 0x80] } }
    let s := m.setField (offSeq 0 + 8) 20 0 9
    let u := s.recallLanes [(0, 0)]
    (tabGet? u.seqs 0).any (·.ending.isSome) = false ∧
    (tabGet? ({ u with seqs := [(0, { seq0 with ending := some 1 })] } : State).seqs 0).any (·.ending.isSome) = true ∧
    ({ live0 with measure := [(0x10#64, 0, true)] } : State).measure.find? (fun m => decide (m.2.1 = 0)) = some (0x10#64, 0, true) ∧
    (∀ m ∈ ({ live0 with measure := [(0x10#64, 3, true)] } : State).measure, m.2.1 ≠ 0) ∧
    100 * (102#32).toNat ≤ 102 * 100 ∧ 102 * 100 < 100 * (103#32).toNat := by decide +kernel

theorem test_met_page_work :
    live0.pagesGo = true ∧ imgS.pagesGo = true ∧ (demoS 1).pagesGo = true ∧
    (let s := State.setField (live0.setField (offATT + 0x18) 23 0 1) (offTIER 0 + 0x48) 11 0 0
     s.pagesGo = false) ∧
    ((demoS 1).demotionPick 0).2.freeHbm 1 = some 0 ∧
    (({ demoS 1 with hpages := [(0, 0), (1, 1), (2, 2), (3, 3)] } : State).freeHbm 1 = none) := by decide +kernel


theorem test_met_field_losses_and_planned_moves :
    let f := { imgS with failed := [(3, true)] }
    let p := { imgS with failover := [(0, 3)] }
    let r := imgS.setBit (offERR + 8) 7
    (3, true) ∈ f.failed ∧ (3, true) ∉ imgS.failed ∧ (∃ x ∈ p.failover, x.1 = 3 / 13) ∧ (∀ x ∈ imgS.failover, x.1 ≠ 3 / 13) ∧
    (∀ w ∈ p.waves, w.latest.isSome = true) ∧ (∃ w ∈ ({ p with waves := [wave0] } : State).waves, w.latest = none) ∧
    r.spareOpen 0 = true ∧ r.failed = [] ∧ r.resume = [] ∧ (0 : Nat) ∉ r.degCl ∧ (∀ x ∈ r.failover, x.1 ≠ 0) ∧
    f.spareOpen 0 = false := by decide +kernel

theorem test_met_mesh_flits :
    let s := imgS.setStrm 0 { imgS.strm 0 with fly := [{ c := .d, wave := 1, flit := flit0, path := some [.mesh 0 16] }] }
    s.flitCrosses 0 (.mesh 0 16) = true ∧ s.flitCrosses 0 (.mesh 0 15) = false ∧ (s.meshOut 0).getLsbD 16 = false ∧
    (0 : Fin 4) ∉ ({ s with edgesDown := [1] } : State).edgesDown ∧ ({ s with edgesDown := [1] } : State).edgesDown ≠ [] := by
  decide +kernel

theorem test_met_power_windows :
    let low := { power0 with vin := 37000 }
    let gone := { power0 with vin := 35999 }
    live0.boot.rails = true ∧ (live0.recordWindow low).power.vinLow = live0.power.vinLow ∧ live0.power.vinLow + 1 < 5 ∧
    gone.vin < 36000 ∧ (36000 ≤ low.vin) ∧ low.vin < 38000 ∧
    5 ≤ ({ live0.power with vinLow := 4 } : Power).vinLow + 1 ∧
    ((({ live0.power with hintFall := some 1 } : Power).hintRise = none)) ∧ State.reset.boot.rails = live0.boot.rails ∧
    ({ live0 with boot := { live0.boot with rails := false } } : State).boot.rails = false := by decide +kernel

theorem test_met_loads :
    let late : RunFill := { pos := 0, foff := 0, len := 1, src := 0, alt := none }
    let img : Image := { img0 with runs := [late] }
    live0.loadDetail img0 = none ∧ (live0.fillRuns img0.runs).isSome = true ∧
    live0.mayRead (moverOf (moverFor 0)) 4 0 512 = true ∧
    (live0.setField (offTIER 0 + 0x60) 11 0 0).mayRead (moverOf (moverFor 0)) 4 0 512 = false ∧
    live0.splits = [] ∧ (∀ k ∈ chunkList img0, live0.chunkOnline k = true) ∧
    (State.fillRuns { live0 with mem := { live0.mem with pois := [0] } } img.runs).isNone = true := by decide +kernel

theorem test_met_opens :
    let c : HostCmd := { h0 with opc := 3, w2 := 0xFFFF000000000040#64 }
    imgS.openCheck c = none ∧ live0.openCheck c = some 4 ∧ waveS.openCheck c = some 8 ∧
    imgS.openCheck { c with w2 := 0x0000000000000040#64 } = some 1 ∧
    imgS.openCheck { c with w2 := 0xFFFF00000000000F#64 } = some 1 ∧ tabGet? imgS.seqs c.seq.toNat = none ∧
    ({ imgS with waves := [wave0] } : State).waves ≠ [] ∧
    (tabGet? ({ imgS with seqs := [(0, { seq0 with ending := some 1 })] } : State).seqs 0).isSome = true ∧
    ({ imgS with seqs := [(0, { seq0 with ending := some 1 })] } : State).openCheck c = none := by decide +kernel

theorem test_met_feeds_and_saves :
    let c : HostCmd := { h0 with opc := 5, w2 := 4#64 }
    bitOf c.w2 32 = false ∧ fieldOf c.w2 23 0 % 4 = 0 ∧ bitOf ({ c with w2 := 0x100000000#64 } : HostCmd).w2 32 = true ∧
    ((padTokens 1 [7#32]).any fun t => decide (waveS.image.elim 0 (·.vocab) ≤ t.toNat)) = false ∧
    ((padTokens 1 [1024#32]).any fun t => decide (waveS.image.elim 0 (·.vocab) ≤ t.toNat)) = true ∧
    ({ seq0 with hist := List.replicate 9 5#32 } : Sequence).fedLen + 1 ≤ 1048576 ∧
    ({ seq0 with filled := 9 } : Sequence).filled = 9 ∧ seq0.hist.length = 9 ∧
    (∀ w ∈ waveS.waves, ∀ x ∈ w.lanes, x.2.1 = 0 → 1 ≤ x.2.2) ∧
    (∀ y ∈ waveS.seqs, y.2.share ≠ some 0) ∧
    (∃ y ∈ ({ waveS with seqs := [(0, { seq0 with share := some 0 })] } : State).seqs, y.2.share = some 0) := by decide +kernel

theorem test_met_lending :
    let on := live0.setBit (offDDR + 0x800) 31
    on.chunkBusy 31 = false ∧ ({ on with fills := [(lineOf (chunkBase 31), fill0)] } : State).chunkBusy 31 = true ∧
    on.chunkOnline 31 = true ∧ (∀ g, on.image = some g → g.chunks.getLsbD 31 = false) ∧
    (∃ x ∈ ({ live0 with fillQ := [(31, 2, none)] } : State).fillQ, x.1 = 31) ∧
    (∀ x ∈ live0.fillQ, x.1 ≠ 31) := by
  refine ⟨?_, ?_, ?_, ?_, ?_, ?_⟩ <;> first | decide +kernel | (intro g h; cases h)

theorem test_met_commands_in_progress :
    let e : LogEntry := { cmd := h0, port := .a, stage := .running, replayed := false, written := false, slot := 0 }
    e.begun = true ∧ ({ e with stage := .waiting } : LogEntry).begun = false ∧
    ({ live0 with log := [e] } : State).entryOf h0 = some e ∧ freeToAll 0x0D = true ∧ freeToAll 0x01 = false ∧
    bitOf (1#64) 0 = true ∧ bitOf (0#64) 0 = false := by decide +kernel

theorem test_met_register_accesses :
    let r := { live0 with boot := { live0.boot with recovering := true } }
    r.portUp .a = true ∧ r.holder = some .a ∧ offBOOT + 0x10 ≠ offMBX ∧ (4 ≠ 8 ∨ 4 % 8 ≠ 0) ∧ live0.portUp .b = false ∧
    (∃ x, regRow? (offERR + 0x20) = some x ∧ x.lease = true) := by
  refine ⟨by decide +kernel, by decide +kernel, by decide +kernel, by decide, by decide +kernel, ⟨_, rfl, by decide +kernel⟩⟩

theorem test_met_host_windows_that_wait :
    let on := live0.setField offHBM 2 0 2
    let shut := on.setField (offTIER 0 + 0x40) 11 0 0
    ((flitParts 0x40 64).all fun x => on.hdmGo (on.hdmReadWay x.1 x.2) x.1 x.2 false) = true ∧
    ((flitParts 0x40 64).all fun x => shut.hdmGo (shut.hdmReadWay x.1 x.2) x.1 x.2 false) = false ∧
    live0.hdmGo (live0.hdmWriteWay 0x40) 0x40 64 true = true ∧
    (let c := { shut with trust := { shut.trust with windowsClosed := false } }
     c.hdmGo .memory 0x40 64 true = false) := by decide +kernel

/-- A line of spec/06: pseudo-channel 35 on channel 17 of H1; the same address has its home in S3, and the paths there and back. -/
theorem test_memory_place :
    placeOf 0x001234567A00 = .hbm 1 17 35 ∧ ringPath 3 0 = [2, 3] ∧ ringPath 0 3 = [0, 1] ∧ ringPath 1 2 = [1, 2] ∧
    ringPath 2 1 = [3, 0] := by decide +kernel

/-- A cached load from S0.C1.K4 to S3.C10.K5 takes 95 N-cycles each way (spec/01); within a cluster 3 (R810). -/
theorem test_route_cycles :
    (live0.flitPath 1 46).map routeCycles = some 95 ∧ (live0.flitPath 46 1).map routeCycles = some 95 ∧
    (live0.flitPath 5 5).map routeCycles = some 3 ∧ (live0.flitPath 0 5).map routeCycles = some 4 := by decide +kernel

end Sys2Proof.Tests
end

section
/-!
PROOFS. What the register table holds at the offsets of station registers, and the values of registers after reset (R14, R89,
R112, R168).
-/
namespace Sys2Proof.Machine

/-! Rows of the register table. -/

/-- The offsets of a row end at its base plus the reach of its first dimension. -/
theorem RegRow.has_bounds {r : RegRow} {off : Nat} (h : r.has off = true) :
    r.base ≤ off ∧ (off = r.base ∨ off < r.base + r.n1 * r.s1) := by
  simp only [RegRow.has, strideHas, Bool.and_eq_true, decide_eq_true_eq] at h
  obtain ⟨hb, hd⟩ := h
  refine ⟨hb, ?_⟩
  have below (h1 : r.s1 ≠ 0) (h2 : (off - r.base) / r.s1 < r.n1) : off < r.base + r.n1 * r.s1 := by
    have := (Nat.div_lt_iff_lt_mul (Nat.pos_of_ne_zero h1)).mp h2
    omega
  split at hd
  · exact .inl (by simp at hd; omega)
  · rename_i h1
    split at hd
    · simp at hd; exact .inr (below h1 hd.2)
    · simp only [Bool.and_eq_true, decide_eq_true_eq] at hd; exact .inr (below h1 hd.1)

/-- A row of registers that lie in the window of every position (R89). -/
def RegRow.inWindows (r : RegRow) : Prop :=
  r.n1 = 624 ∧ r.s1 = 0x1000 ∧ offSTN 0 ≤ r.base ∧ r.base < offSTN 1 ∧ r.base + r.n2 * r.s2 ≤ offSTN 1

theorem rowsStation_inWindows : ∀ r ∈ rowsStation, r.inWindows := by
  unfold RegRow.inWindows
  decide

/-- A pattern of registers that fits below an offset does not hold that offset. -/
theorem strideHas_beyond {n s d : Nat} (hd : 0 < d) (h : n * s ≤ d) : strideHas n s d = false := by
  unfold strideHas
  split
  · simp; omega
  · rename_i hs
    have := (Nat.le_div_iff_mul_le (Nat.pos_of_ne_zero hs)).mpr h
    simp; omega

/-- A row of the windows holds an offset in each window or in none. -/
theorem RegRow.has_window {r : RegRow} (h : r.inWindows) {n w : Nat} (hn : n < 624) (hw : w < 0x1000) :
    r.has (offSTN n + w) = r.has (offSTN 0 + w) := by
  obtain ⟨hn1, hs1, hlo, hhi, hend⟩ := h
  simp only [offSTN] at *
  by_cases hb : r.base ≤ 0x400000 + w
  · have hdiv : (0x400000 + 0x1000 * n + w - r.base) / 0x1000 = n := by omega
    have hmod : (0x400000 + 0x1000 * n + w - r.base) % 0x1000 = (0x400000 + w - r.base) % 0x1000 := by omega
    have hdiv0 : (0x400000 + w - r.base) / 0x1000 = 0 := by omega
    have hle : r.base ≤ 0x400000 + 0x1000 * n + w := by omega
    simp [RegRow.has, strideHas, hn1, hs1, hb, hle, hdiv, hmod, hdiv0, hn]
  · have hfalse : r.has (0x400000 + 0x1000 * n + w) = false := by
      by_cases hle : r.base ≤ 0x400000 + 0x1000 * n + w
      · have hpos : 0 < (0x400000 + 0x1000 * n + w - r.base) % 0x1000 := by omega
        have hfar : r.n2 * r.s2 ≤ (0x400000 + 0x1000 * n + w - r.base) % 0x1000 := by omega
        have hone : strideHas 624 0x1000 (0x400000 + 0x1000 * n + w - r.base) = false := by simp [strideHas]; omega
        simp [RegRow.has, hn1, hs1, hone, strideHas_beyond hpos hfar]
      · simp [RegRow.has, hle]
    rw [hfalse]
    simp [RegRow.has, hb]

/-- The rows before those of the station registers end before the first window or begin after the last. -/
theorem rowsOther_apart : ∀ r ∈ rowsDevice ++ rowsManage ++ rowsLanes ++ rowsClass ++ rowsMemory,
    r.base < offSTN 0 ∧ r.base + r.n1 * r.s1 ≤ offSTN 0 ∨ offSTN 624 ≤ r.base := by decide

/-- Tests that agree on a list find the same element. (The package builds on core Lean, where Mathlib's lemma is not at hand.) -/
theorem find?_eq_of_agree {α : Type} {f g : α → Bool} {l : List α} (h : ∀ x ∈ l, f x = g x) : l.find? f = l.find? g := by
  induction l with
  | nil => rfl
  | cons x t ih =>
    rw [List.find?_cons, List.find?_cons, h x (List.mem_cons_self ..), ih fun y hy => h y (List.mem_cons_of_mem _ hy)]

/-- The register of a position is found as that of position 0. -/
theorem regRow?_window {n w : Nat} (hn : n < 624) (hw : w < 0x1000) :
    regRow? (offSTN n + w) = rowsStation.find? (·.has (offSTN 0 + w)) := by
  have hother : (rowsDevice ++ rowsManage ++ rowsLanes ++ rowsClass ++ rowsMemory).find? (·.has (offSTN n + w)) = none := by
    rw [List.find?_eq_none]
    intro r hr hhas
    obtain ⟨hlo, hhi⟩ := RegRow.has_bounds hhas
    rcases rowsOther_apart r hr with hap | hap <;> simp only [offSTN] at * <;> omega
  rw [regRow?, regRows, List.find?_append, hother, Option.none_or]
  exact find?_eq_of_agree fun r hr => RegRow.has_window (rowsStation_inWindows r hr) hn hw

/-! Reset values. -/

/-- After reset a register holds the reset value of its row (R14). -/
theorem reg_reset (off : Nat) : State.reset.reg off = regReset off := rfl

/-- VMODE of every position after reset (R112). -/
theorem regReset_vmode {n : Nat} (hn : n < 624) : regReset (offVMODE n) = 0x10#64 := by
  have hrow : regRow? (offVMODE n) = rowsStation.find? (·.has (offSTN 0 + 0x10)) := regRow?_window hn (by decide)
  have hfound : rowsStation.find? (·.has (offSTN 0 + 0x10)) =
    some ((row (offSTN 0 + 0x10) 0x10 (ones 5 4 ||| ones 2 0) (ones 12 8)).times 624 0x1000) := rfl
  rw [regReset, hrow, hfound]
  exact if_neg (by simp only [offVMODE, offSTN]; omega)

/-- FLD_SPLIT of every position after reset: 12 segments, none at K12 (R168). -/
theorem regReset_split {n : Nat} (hn : n < 624) :
    regReset (offSTN n + 0x880) = if n % 13 = 12 then 0#64 else 0xC#64 := by
  have hfound : rowsStation.find? (·.has (offSTN 0 + 0x880)) =
    some ((row (offSTN 0 + 0x880) 0xC (ones 4 0) 0).times 624 0x1000) := rfl
  rw [regReset, regRow?_window hn (by decide), hfound]
  have hk12 : (0x400000 ≤ offSTN n + 0x880 ∧ offSTN n + 0x880 < 0x400000 + 0x270000 ∧ (offSTN n + 0x880) % 0x1000 = 0x880 ∧
      (offSTN n + 0x880 - 0x400000) / 0x1000 % 13 = 12) ↔ n % 13 = 12 := by
    simp only [offSTN]; omega
  simp only [hk12]
  rfl

/-- Settles O3: no register is stored at reset, so each reads as its row; the rows of the windows serve all 624 positions. -/
theorem resetRegisterValues : Obligations.ResetRegisterValues := by
  unfold Obligations.ResetRegisterValues
  refine ⟨reg_reset, rfl, rfl, fun n => ⟨regReset_vmode n.isLt, ?_⟩, rfl, rfl, rfl, rfl, rfl⟩
  rw [State.field, reg_reset, regReset_split n.isLt]
  split <;> rfl

end Sys2Proof.Machine
end

section
/-!
PROOFS. Doorbells, ring configuration, entries that the device writes, messages and snoops (R495, R502 to R512, R674).
-/
namespace Sys2Proof.Machine

/-! Doorbells. -/

/-- A submission doorbell outside what R506 allows sets ERR. -/
theorem ringSub_refused {s : State} {i : Fin 64} {v : Word} {entries : List HostCmd}
    (h : s.ringEn (.sub i) = false ∨ s.ringSize (.sub i) ≤ fieldOf v 15 0 ∨
      s.ringSize (.sub i) ≤ modSub (s.ringHost (.sub i)) (s.ringDev (.sub i)) (s.ringSize (.sub i)) +
        modSub (fieldOf v 15 0) (s.ringHost (.sub i)) (s.ringSize (.sub i))) :
    s.ringSub i v entries = s.badBell (.sub i) := by
  unfold State.ringSub
  exact if_pos (by rcases h with h | h | h <;> simp [h])

/-- A submission doorbell within its ring covers the entries up to INDEX, and the device reads them (R507, R508). -/
theorem ringSub_covers {s : State} {i : Fin 64} {v : Word} {entries : List HostCmd} (he : s.ringEn (.sub i) = true)
    (hi : fieldOf v 15 0 < s.ringSize (.sub i))
    (hk : modSub (s.ringHost (.sub i)) (s.ringDev (.sub i)) (s.ringSize (.sub i)) +
      modSub (fieldOf v 15 0) (s.ringHost (.sub i)) (s.ringSize (.sub i)) < s.ringSize (.sub i)) :
    s.ringSub i v entries =
      let w := (s.trace 5 (i.val * 65536) 0 0 0).setHost (.sub i) v
      (w.setRing (.sub i) { w.ring (.sub i) with
        covered := (w.ring (.sub i)).covered ++
          entries.take (modSub (fieldOf v 15 0) (s.ringHost (.sub i)) (s.ringSize (.sub i))) }).pullRing i 1024 := by
  unfold State.ringSub
  exact if_neg (by simp [he]; omega)

/-- What a head doorbell acknowledges: entries that the device has written and that no earlier doorbell acknowledged (R507). -/
theorem acked_some {s : State} {r : RingId} {v : Word} {k : Nat} (h : s.acked r v = some k) :
    s.ringEn r = true ∧ fieldOf v 15 0 < s.ringSize r ∧ k = modSub (fieldOf v 15 0) (s.ringHost r) (s.ringSize r) ∧
      k ≤ modSub (s.ringDev r) (s.ringHost r) (s.ringSize r) := by
  simp only [State.acked] at h
  split at h
  · exact nomatch h
  · rename_i hc
    simp only [Bool.or_eq_true, Bool.not_eq_true', decide_eq_true_eq, not_or, Bool.not_eq_false, Nat.not_le, Nat.not_lt] at hc
    obtain ⟨⟨he, hi⟩, hk⟩ := hc
    cases h
    exact ⟨he, hi, rfl, hk⟩

section
variable (v : Word) (s : State)

theorem ringComp_refused {i : Fin 64} (h : s.acked (.comp i) v = none) : s.ringComp i v = s.badBell (.comp i) := by
  simp only [State.ringComp, h]

theorem ringComp_acks {i : Fin 64} {k : Nat} (h : s.acked (.comp i) v = some k) :
    s.ringComp i v = (State.flushCompletions { s.setHost (.comp i) v with
      log := ((tabGetD s.compSent i.val []).take k).foldl
        (fun l x => dropFirst (fun e => isEntry x.1 x.2 e && e.written) l) s.log,
      compSent := tabSet s.compSent i.val ((tabGetD s.compSent i.val []).drop k) }).pullAll := by
  simp only [State.ringComp, h]

theorem ringOut_refused {i : Fin 256} (h : s.acked (.out i) v = none) : s.ringOut i v = s.badBell (.out i) := by
  simp only [State.ringOut, h]

theorem ringOut_acks {i : Fin 256} {k : Nat} (h : s.acked (.out i) v = some k) :
    s.ringOut i v =
      let w := s.ackOuts (tabGetD s.outSent i.val []) k
      State.flushOutput { w.setHost (.out i) v with
        outSent := tabSet w.outSent i.val ((tabGetD s.outSent i.val []).drop k) } := by
  simp only [State.ringOut, h]

theorem ringEv_refused {i : Fin 2} (h : s.acked (.ev i) v = none) : s.ringEv i v = s.badBell (.ev i) := by
  simp only [State.ringEv, h]

theorem ringEv_acks {i : Fin 2} {k : Nat} (h : s.acked (.ev i) v = some k) :
    s.ringEv i v = State.drainEvents { s.setHost (.ev i) v with
      evSent := tabSet s.evSent i.val ((tabGetD s.evSent i.val []).drop k) } i 64 := by
  simp only [State.ringEv, h]

end

/-! The doorbell commands by their three cases: the ring rule, a recovery, and a narrow access. -/

section
variable {s : State} (v : Word) (entries : List HostCmd)

theorem exec_submissionDoorbell (h : s.boot.recovering = false) (i : Fin 64) :
    exec (.submissionDoorbell i ⟨v, true⟩ entries) s = .next (s.ringSub i v entries) := by
  simp [exec, execSubmissionDoorbell, h]

theorem exec_completionDoorbell (h : s.boot.recovering = false) (i : Fin 64) :
    exec (.completionDoorbell i ⟨v, true⟩) s = .next (s.ringComp i v) := by
  simp [exec, execCompletionDoorbell, h]

theorem exec_outputDoorbell (h : s.boot.recovering = false) (i : Fin 256) :
    exec (.outputDoorbell i ⟨v, true⟩) s = .next (s.ringOut i v) := by
  simp [exec, execOutputDoorbell, h]

theorem exec_eventDoorbell (h : s.boot.recovering = false) (i : Fin 2) :
    exec (.eventDoorbell i ⟨v, true⟩) s = .next (s.ringEv i v) := by
  simp [exec, execEventDoorbell, h]

/-- During a recovery the last value written to a doorbell is kept (R674). -/
theorem exec_doorbell_recovering (h : s.boot.recovering = true) :
    (∀ i : Fin 64, exec (.submissionDoorbell i ⟨v, true⟩ entries) s = .next (s.holdBell (.sub i) v entries) ∧
      exec (.completionDoorbell i ⟨v, true⟩) s = .next (s.holdBell (.comp i) v [])) ∧
    (∀ i : Fin 256, exec (.outputDoorbell i ⟨v, true⟩) s = .next (s.holdBell (.out i) v [])) ∧
    (∀ i : Fin 2, exec (.eventDoorbell i ⟨v, true⟩) s = .next (s.holdBell (.ev i) v [])) := by
  simp [exec, execSubmissionDoorbell, execCompletionDoorbell, execOutputDoorbell, execEventDoorbell, h]

end

/-- A doorbell that is not one aligned 64-bit write is recorded, whatever the device does (R10). -/
theorem exec_doorbell_narrow (v : Word) (entries : List HostCmd) (s : State) :
    (∀ i : Fin 64, exec (.submissionDoorbell i ⟨v, false⟩ entries) s = .next (s.errRec 11 0 0#64 0) ∧
      exec (.completionDoorbell i ⟨v, false⟩) s = .next (s.errRec 11 0 0#64 0)) ∧
    (∀ i : Fin 256, exec (.outputDoorbell i ⟨v, false⟩) s = .next (s.errRec 11 0 0#64 0)) ∧
    (∀ i : Fin 2, exec (.eventDoorbell i ⟨v, false⟩) s = .next (s.errRec 11 0 0#64 0)) :=
  ⟨fun _ => ⟨rfl, rfl⟩, fun _ => rfl, fun _ => rfl⟩

/-! Ring configuration. -/

section
variable (s : State) (r : RingId) (v : Word)

/-- The index register of a ring lies apart from its configuration register. -/
theorem ringOff_ne (r : RingId) : ringOff r + 8 ≠ ringOff r + 0x10 := by omega

@[simp] theorem reg_setRing (x : RingRt) (o : Nat) : (s.setRing r x).reg o = s.reg o := rfl

@[simp] theorem ring_setRing_same (x : RingRt) : (s.setRing r x).ring r = x := by
  simp [State.ring, State.setRing]

/-- A field outside the bits that a mask keeps is zero. -/
theorem fieldOf_and_mask_apart {hi lo a b : Nat} (w : Word) (hd : a < lo ∨ hi < b) : fieldOf (w &&& maskOf hi lo) a b = 0 := by
  apply Nat.eq_of_testBit_eq
  intro i
  rw [fieldOf_testBit, BitVec.getLsbD_and, maskOf_getLsbD, Nat.zero_testBit]
  by_cases hi' : i < a + 1 - b
  · simp; omega
  · simp [hi']

/-- CFG as a write leaves it, with N for LOG2N. -/
def ringCfg (v : Word) (n : Nat) : Word := putField (v &&& BitVec.ofNat 64 0x81FF3FF800000000) 4 0 n

theorem bitOf_ringCfg_en (n : Nat) : bitOf (ringCfg v n) 63 = bitOf v 63 := by
  rw [ringCfg, bitOf_putField_out _ _ (by omega) (by omega)]
  simp [bitOf]

theorem fieldOf_ringCfg_size (n : Nat) : fieldOf (ringCfg v n) 4 0 = n % 2 ^ 5 :=
  fieldOf_putField_same _ _ _ _ (by omega)

/-- EN of a submission ring goes from 0 to 1: CFG takes the value, and the ring starts anew. -/
theorem cfgWrite_sub_on (i : Fin 64) (he : s.ringEn (.sub i) = false) (hv : bitOf v 63 = true) :
    s.cfgWrite (.sub i) v = (s.setReg (ringOff (.sub i) + 8) (ringCfg v (fieldOf v 4 0))).ringOn (.sub i) := by
  simp only [State.ringEn] at he
  simp only [State.cfgWrite, he, hv, ringCfg]
  rfl

/-- EN of an output ring is written 0: CFG alone changes, and LOG2N only where the ring was off. -/
theorem cfgWrite_out_off (i : Fin 256) (hv : bitOf v 63 = false) :
    s.cfgWrite (.out i) v = s.setReg (ringOff (.out i) + 8) (ringCfg v
      (if s.ringEn (.out i) then s.field (ringOff (.out i) + 8) 4 0 else fieldOf v 4 0)) := by
  simp only [State.cfgWrite, hv, Bool.false_and, Bool.false_eq_true, if_false]
  rfl

end

/-- What a submission ring holds after it is switched on: size as written, both indices 0, nothing covered (R505, R508). -/
theorem ringOn_sub (s : State) (i : Fin 64) (w : Word) (hw : bitOf w 63 = true) :
    let t := (s.setReg (ringOff (.sub i) + 8) w).ringOn (.sub i)
    t.ringEn (.sub i) = true ∧ t.ringSize (.sub i) = 2 ^ fieldOf w 4 0 ∧ t.ringDev (.sub i) = 0 ∧ t.ringHost (.sub i) = 0 ∧
      t.ring (.sub i) = { RingRt.zero with used := true } ∧ t.mem = s.mem ∧ t.host = s.host ∧ t.log = s.log := by
  intro t
  have ht : t = ((s.setReg (ringOff (.sub i) + 8) w).setReg (ringOff (.sub i) + 0x10)
      (s.reg (ringOff (.sub i) + 0x10) &&& maskOf 33 32)).setRing (.sub i) { RingRt.zero with used := true } := by
    simp only [t, State.ringOn, reg_setReg_other _ _ (ringOff_ne _).symm]
  have hcfg : t.reg (ringOff (.sub i) + 8) = w := by
    rw [ht, reg_setRing, reg_setReg_other _ _ (ringOff_ne _), reg_setReg_same]
  have hidx : t.reg (ringOff (.sub i) + 0x10) = s.reg (ringOff (.sub i) + 0x10) &&& maskOf 33 32 := by
    rw [ht, reg_setRing, reg_setReg_same]
  refine ⟨by rw [State.ringEn, State.bit, hcfg, hw], by rw [State.ringSize, State.field, hcfg], ?_, ?_, ?_, rfl, rfl, rfl⟩
  · rw [State.ringDev, State.field, hidx, fieldOf_and_mask_apart _ (by omega)]
  · rw [State.ringHost, State.field, hidx, fieldOf_and_mask_apart _ (by omega)]
  · rw [ht, ring_setRing_same]

/-! Entries that the device writes. -/

/-- The state after an entry, but for the message that falls due (R509, R510). -/
def State.entryWritten (s : State) (r : RingId) (bytes : Bool → List Byte) : State :=
  let d := s.ringDev r
  let rt := s.ring r
  let a := s.field (ringOff r) 63 12 * 4096 + ringEntry r * d
  let w : State := { s with host := memWrite s.host a (bytes rt.phase) }
  (w.setField (ringOff r + 0x10) 31 16 ((d + 1) % s.ringSize r)).setRing r
    { rt with phase := if d + 1 ≥ s.ringSize r then !rt.phase else rt.phase }

/-- A written entry makes at most a message due. -/
theorem ringPush_eq (s : State) (r : RingId) (bytes : Bool → List Byte) :
    ∃ due : List Nat, s.ringPush r bytes =
      { s.entryWritten r bytes with outbox := { s.outbox with msixDue := due } } := by
  by_cases hv : s.field (ringOff r + 8) 55 48 < 66
  · exact ⟨natInsert s.outbox.msixDue (s.field (ringOff r + 8) 55 48), if_pos hv⟩
  · exact ⟨s.outbox.msixDue, if_neg hv⟩

/-- An entry goes to its slot; DEV advances, PHASE flips at the wrap, and the host's index and the size stay (R504, R509). -/
theorem ringPush_entry (s : State) (r : RingId) (f : Bool → List Byte) :
    let t := s.ringPush r f
    t.ringDev r = (s.ringDev r + 1) % s.ringSize r % 2 ^ 16 ∧
    (t.ring r).phase = (if s.ringDev r + 1 ≥ s.ringSize r then !(s.ring r).phase else (s.ring r).phase) ∧
    t.host = memWrite s.host (s.field (ringOff r) 63 12 * 4096 + ringEntry r * s.ringDev r) (f (s.ring r).phase) ∧
    t.ringHost r = s.ringHost r ∧ t.ringSize r = s.ringSize r := by
  intro t
  obtain ⟨due, ht⟩ := ringPush_eq s r f
  have hregs (o : Nat) : t.reg o = (s.setField (ringOff r + 0x10) 31 16 ((s.ringDev r + 1) % s.ringSize r)).reg o := by
    rw [show t = _ from ht]; rfl
  have hring : t.ring r =
      { s.ring r with phase := if s.ringDev r + 1 ≥ s.ringSize r then !(s.ring r).phase else (s.ring r).phase } := by
    rw [show t = _ from ht]; exact ring_setRing_same _ _ _
  refine ⟨?_, by rw [hring], by rw [show t = _ from ht]; rfl, ?_, ?_⟩
  · rw [State.ringDev, State.field, hregs, ← State.field, field_setField_same _ _ _ _ _ (by omega)]
  · rw [State.ringHost, State.field, hregs, ← State.field, field_setField_apart _ _ (by omega) (by omega)]
    rfl
  · rw [State.ringSize, State.field, hregs, ← State.field, field_setField_other _ _ _ _ _ _ (ringOff_ne r)]
    rfl

/-! Commands of a port that is heard. -/

section
variable {p : Port} {r : RingId} {v : Word} {s : State}

theorem exec_ringEnable (h : s.hearsPort p = true) :
    exec (.ringEnable p r v) s = .next (s.cfgWrite r (putField v 63 63 1)) := by simp [exec, execRingEnable, h]

theorem exec_ringDisable (h : s.hearsPort p = true) :
    exec (.ringDisable p r v) s = .next (s.cfgWrite r (putField v 63 63 0)) := by simp [exec, execRingDisable, h]

theorem exec_traceRingEnable (h : s.hearsPort p = true) :
    exec (.traceRingEnable p v) s = .next (s.traceCfg (putField v 63 63 1)) := by simp [exec, execTraceRingEnable, h]

theorem exec_ringConfig_unheard (h : s.hearsPort p = false) : exec (.ringEnable p r v) s = .next s ∧
    exec (.ringDisable p r v) s = .next s ∧ exec (.traceRingEnable p v) s = .next s := by
  simp [exec, execRingEnable, execRingDisable, execTraceRingEnable, h]

end

/-! Messages and snoops. -/

/-- A due message of a vector is sent through a port that is up, and is due no more (R510). -/
theorem exec_msiXMessage_sent {v : Fin 66} {s : State} (hv : v.val ∈ s.outbox.msixDue)
    (hp : s.portUp .a = true ∨ s.portUp .b = true) : exec (.msiXMessage v) s = .next { s with
      outbox := { s.outbox with msix := s.outbox.msix ++ [v.val], msixDue := s.outbox.msixDue.filter (· ≠ v.val) } } := by
  simp [exec, execMsiXMessage, hv, hp]

theorem exec_msiXMessage_none {v : Fin 66} {s : State}
    (h : v.val ∉ s.outbox.msixDue ∨ (s.portUp .a = false ∧ s.portUp .b = false)) : exec (.msiXMessage v) s = .next s := by
  rcases h with h | ⟨ha, hb⟩
  · simp [exec, execMsiXMessage, h]
  · simp [exec, execMsiXMessage, ha, hb]

/-- A snoop through a port that is up is answered, as a miss (R495). -/
theorem exec_hostSnoop {p : Port} {a : BitVec 64} {s : State} (h : s.portUp p = true) :
    exec (.hostSnoop p a) s = .next { s with outbox := { s.outbox with snoops := s.outbox.snoops + 1 } } := by
  simp [exec, execHostSnoop, h]

/-! The obligation. -/

/-- A submission doorbell sets ERR or covers entries, as its index stands to the ring (R506, R507). -/
theorem submissionDoorbell_acts (i : Fin 64) (v : Word) (entries : List HostCmd) (s : State) (hr : s.boot.recovering = false) :
    let r := RingId.sub i
    let n := s.ringSize r
    let k := modSub (fieldOf v 15 0) (s.ringHost r) n
    ((s.ringEn r = false ∨ n ≤ fieldOf v 15 0 ∨ n ≤ modSub (s.ringHost r) (s.ringDev r) n + k) →
      exec (.submissionDoorbell i ⟨v, true⟩ entries) s = .next (s.setBit (ringOff r + 0x10) 33)) ∧
    (s.ringEn r = true → fieldOf v 15 0 < n → modSub (s.ringHost r) (s.ringDev r) n + k < n →
      let w := (s.trace 5 (i.val * 65536) 0 0 0).setHost r v
      exec (.submissionDoorbell i ⟨v, true⟩ entries) s = .next ((w.setRing r { w.ring r with
        covered := (w.ring r).covered ++ entries.take k }).pullRing i 1024)) := by
  rw [exec_submissionDoorbell v entries hr i]
  exact ⟨fun h => congrArg _ (ringSub_refused h), fun he hi hk => congrArg _ (ringSub_covers he hi hk)⟩

/-- Settles O57: each clause is a case of its command's equation; configuration and entries go by the field rules of
registers. -/
theorem ringsDoorbellsAndMessages : Obligations.RingsDoorbellsAndMessages := by
  unfold Obligations.RingsDoorbellsAndMessages
  refine ⟨submissionDoorbell_acts, fun v s hr => ⟨fun i => ?comp, fun i => ?out, fun i => ?ev⟩, fun r v s k => acked_some,
    fun v entries s => exec_doorbell_recovering v entries, fun v entries s => exec_doorbell_narrow v entries s,
    fun p r v s => ⟨fun hp => ⟨exec_ringEnable hp, exec_ringDisable hp, exec_traceRingEnable hp⟩, exec_ringConfig_unheard⟩,
    fun p i v s hp he => ?on, fun p i v s hp => ?off, fun s r f _ => ringPush_entry s r f,
    fun v s => ⟨?sent, exec_msiXMessage_none⟩, fun p a s => ?snoop⟩
  case comp =>
    rw [exec_completionDoorbell v hr i]
    exact ⟨fun h => congrArg _ (ringComp_refused v s h), fun k h => congrArg _ (ringComp_acks v s h)⟩
  case out =>
    rw [exec_outputDoorbell v hr i]
    exact ⟨fun h => congrArg _ (ringOut_refused v s h), fun k h => congrArg _ (ringOut_acks v s h)⟩
  case ev =>
    rw [exec_eventDoorbell v hr i]
    exact ⟨fun h => congrArg _ (ringEv_refused v s h), fun k h => congrArg _ (ringEv_acks v s h)⟩
  case on =>
    have hv : bitOf (putField v 63 63 1) 63 = true := bitOf_putField_in _ _ (by omega) (by omega) (by omega)
    refine ⟨_, (exec_ringEnable hp).trans (congrArg _ (cfgWrite_sub_on _ _ _ he hv)), ?_⟩
    obtain ⟨h1, h2, h3⟩ := ringOn_sub s i (ringCfg (putField v 63 63 1) (fieldOf (putField v 63 63 1) 4 0))
      (by rw [bitOf_ringCfg_en, hv])
    refine ⟨h1, ?_, h3⟩
    rw [h2, fieldOf_ringCfg_size, fieldOf_putField_other _ _ (by omega) (by omega), Nat.mod_eq_of_lt (fieldOf_lt v 4 0)]
  case off =>
    have hv : bitOf (putField v 63 63 0) 63 = false := bitOf_putField_in _ _ (by omega) (by omega) (by omega)
    refine ⟨_, (exec_ringDisable hp).trans (congrArg _ (cfgWrite_out_off _ _ _ hv)), ?_, rfl, rfl, rfl, rfl, fun he => ?_⟩
    · rw [State.ringEn, State.bit, reg_setReg_same, bitOf_ringCfg_en, hv]
    · rw [State.ringSize, field_setReg_same, fieldOf_ringCfg_size, if_pos he, State.ringSize, State.field,
        Nat.mod_eq_of_lt (fieldOf_lt _ 4 0)]
  case sent =>
    rintro ⟨hv, hp⟩
    exact ⟨_, exec_msiXMessage_sent hv hp, rfl, by simp, fun w hw => by simp [hw], rfl⟩
  case snoop =>
    exact ⟨fun hp => ⟨_, exec_hostSnoop hp, rfl, rfl, rfl, rfl⟩, fun hp => by simp [exec, execHostSnoop, hp]⟩

end Sys2Proof.Machine
end

section
/-!
PROOFS. Register accesses: access codes, the banked blocks, the registers with an effect of their own (R9 to R12, R117, R322,
R582, R585, R618, R628, R674, R685, R686, R753, R770, R771).
-/
namespace Sys2Proof.Machine

/-! Writes by access code (R12). -/

/-- A bit of a register after a write: of an RW field as written, of an RW1C field cleared by 1, else as it was. -/
theorem RegRow.written_getLsbD (r : RegRow) (old v : Word) {i : Nat} (h : i < 64) :
    (r.written old v).getLsbD i =
      if r.rw.testBit i then v.getLsbD i else if r.rw1c.testBit i then old.getLsbD i && !v.getLsbD i else old.getLsbD i := by
  simp only [RegRow.written, BitVec.getLsbD_or, BitVec.getLsbD_and, BitVec.getLsbD_not, BitVec.getLsbD_ofNat, h, decide_true,
    Bool.true_and]
  cases r.rw.testBit i <;> cases r.rw1c.testBit i <;> simp

/-- The bits of a mask of a row. -/
theorem ones_testBit (hi lo i : Nat) : (ones hi lo).testBit i = decide (lo ≤ i ∧ i ≤ hi) := by
  simp only [ones, Nat.testBit_shiftLeft, Nat.testBit_two_pow_sub_one]
  by_cases h : lo ≤ i
  · simp [h]; omega
  · simp [h]

/-- An RW field takes the value. -/
theorem RegRow.fieldOf_written (r : RegRow) (old v : Word) {hi lo : Nat} (h : hi < 64)
    (hrw : ∀ i, i < 64 → lo ≤ i → i ≤ hi → r.rw.testBit i = true) : fieldOf (r.written old v) hi lo = fieldOf v hi lo := by
  apply Nat.eq_of_testBit_eq
  intro i
  rw [fieldOf_testBit, fieldOf_testBit]
  by_cases hi' : i < hi + 1 - lo
  · rw [r.written_getLsbD _ _ (by omega), if_pos (hrw _ (by omega) (by omega) (by omega))]
  · simp [hi']

/-- The bits of a register after a plain write that its row accepts, and every other register (R12). -/
theorem regPlain_bits {s : State} {p : Port} {off : Nat} (v : Word) {r : RegRow} (h : regRow? off = some r)
    (hl : r.lease = false ∨ s.holder = some p) :
    (∀ i, i < 64 → ((s.regPlain p off v).reg off).getLsbD i =
      if r.rw.testBit i then v.getLsbD i
      else if r.rw1c.testBit i then (s.reg off).getLsbD i && !v.getLsbD i
      else (s.reg off).getLsbD i) ∧
    (∀ a, a ≠ off → (s.regPlain p off v).reg a = s.reg a) := by
  rw [regPlain_row v h hl]
  exact ⟨fun i hi => by rw [reg_setReg_same, r.written_getLsbD _ _ hi], fun a ha => reg_setReg_other s _ ha⟩

theorem regPlain_no_row {s : State} {p : Port} {off : Nat} (v : Word) (h : regRow? off = none) : s.regPlain p off v = s := by
  simp only [State.regPlain, h]

/-- A register of the lease holder takes no write from another port. -/
theorem regPlain_not_holder {s : State} {p : Port} {off : Nat} (v : Word) {r : RegRow} (h : regRow? off = some r)
    (hl : r.lease = true) (hp : s.holder ≠ some p) : s.regPlain p off v = s := by
  simp [State.regPlain, h, hl, hp]

/-- A plain write changes its own register or nothing. -/
theorem regPlain_cases (s : State) (p : Port) (off : Nat) (v : Word) :
    s.regPlain p off v = s ∨ ∃ x : Word, s.regPlain p off v = s.setReg off x := by
  unfold State.regPlain
  split
  · exact .inl rfl
  · split
    · exact .inl rfl
    · exact .inr ⟨_, rfl⟩

/-- The lease is as it was unless HQ_CTL itself is written. -/
theorem holder_regPlain (s : State) (p : Port) {off : Nat} (v : Word) (h : offHQ ≠ off) :
    (s.regPlain p off v).holder = s.holder := by
  rcases regPlain_cases s p off v with hx | ⟨x, hx⟩
  · rw [hx]
  · rw [hx, State.holder, field_setReg_other s x 1 0 h, State.holder]

/-- Units step as they did unless BOOT_STAT itself is written. -/
theorem live_regPlain (s : State) (p : Port) {off : Nat} (v : Word) (h : offBOOT ≠ off) :
    (s.regPlain p off v).live = s.live := by
  rcases regPlain_cases s p off v with hx | ⟨x, hx⟩
  · rw [hx]
  · rw [hx]
    simp [State.live, State.ready, bit_setReg_other s x 4 h, field_setReg_other s x 3 0 h]

/-! Where a register write goes. -/

/-- Whether an offset lies outside the banked blocks and the counter windows. -/
def unbanked (off : Nat) : Bool :=
  (stnAt? off).isNone && (cacheAt? off).isNone && (tierAt? off).isNone && (chkAt? off).isNone &&
    (decide (off < offCNT + 0x1000) || decide (offCNT + 0x2000 ≤ off))

theorem windowAt?_outside (s : State) {off : Nat} (h : off < offCNT + 0x1000 ∨ offCNT + 0x2000 ≤ off) :
    s.windowAt? off = none := by
  unfold State.windowAt?
  rw [if_neg (by omega), if_neg (by omega)]

/-- A station window by its position (R89). -/
theorem stnAt?_window {n w : Nat} (hn : n < 624) (hw : w < 0x1000) : stnAt? (offSTN n + w) = some (n, w) := by
  have hin : 0x400000 ≤ offSTN n + w ∧ offSTN n + w < 0x400000 + 0x270000 := by simp only [offSTN]; omega
  have hpos : (offSTN n + w - 0x400000) / 0x1000 = n := by simp only [offSTN]; omega
  have hoff : (offSTN n + w) % 0x1000 = w := by simp only [offSTN]; omega
  rw [stnAt?, if_pos hin, hpos, hoff]

/-- The registers of a check-value unit lie in the CHK block and in no other (R588). -/
theorem chkAt?_unit {k j : Nat} (hk : k < 16) (hj : j < 8) :
    chkAt? (offUnit k + 8 * j) = some (k, j) ∧ stnAt? (offUnit k + 8 * j) = none ∧
      cacheAt? (offUnit k + 8 * j) = none ∧ tierAt? (offUnit k + 8 * j) = none := by
  have hin : offCHK ≤ offUnit k + 8 * j ∧ offUnit k + 8 * j < offCHK + 0x400 := by simp only [offUnit]; omega
  have hunit : (offUnit k + 8 * j - offCHK) / 0x40 = k := by simp only [offUnit]; omega
  have hreg : (offUnit k + 8 * j - offCHK) % 0x40 / 8 = j := by simp only [offUnit]; omega
  have hlow : offUnit k + 8 * j < 0x100000 := Nat.lt_trans hin.2 (by decide)
  exact ⟨by rw [chkAt?, if_pos hin, hunit, hreg], if_neg (by omega), if_neg (by omega), if_neg (by omega)⟩

section
variable (s : State) (p : Port) (v : Word) (b : Bool)

/-- At an unbanked offset that is none of those with a rule of their own, the access codes alone decide. -/
theorem regEffect_of_unbanked {off : Nat} (h : unbanked off = true) : s.regEffect p off v b =
    (if offHQ ≤ off ∧ off < offHQ + 0x10000 then s.hqWrite p off v
     else if off = offMBX then s.mailbox p v b
     else if off = offTHM then s.throttleWrite p v
     else if off = offCNT + 0x10 then s.wdogWrite p v
     else if off = offLANE + 0x10 then (s.regPlain p off v).writeRecord 1
     else if off = offGRN + 0x800 then (s.regPlain p off v).setReg (offGRN + 0x808) (s.probeBond v)
     else if off = offTIME + 0x108 then s.traceCfg v
     else s.regPlain p off v) := by
  simp only [unbanked, Bool.and_eq_true, Option.isNone_iff_eq_none, Bool.or_eq_true, decide_eq_true_eq] at h
  obtain ⟨⟨⟨⟨h1, h2⟩, h3⟩, h4⟩, h5⟩ := h
  exact regEffect_unbanked h1 h2 h3 h4 (windowAt?_outside s h5)

theorem regEffect_waveCtl : s.regEffect p 0x100 v b = s.regPlain p 0x100 v := regEffect_of_unbanked s p v b rfl
theorem regEffect_flipCtl : s.regEffect p (offERR + 0x20) v b = s.regPlain p (offERR + 0x20) v :=
  regEffect_of_unbanked s p v b rfl
theorem regEffect_dump : s.regEffect p offDUMP v b = s.regPlain p offDUMP v := regEffect_of_unbanked s p v b rfl
theorem regEffect_mailbox : s.regEffect p offMBX v b = s.mailbox p v b := regEffect_of_unbanked s p v b rfl
theorem regEffect_wdog : s.regEffect p (offCNT + 0x10) v b = s.wdogWrite p v := regEffect_of_unbanked s p v b rfl
theorem regEffect_laneNext : s.regEffect p (offLANE + 0x10) v b = (s.regPlain p (offLANE + 0x10) v).writeRecord 1 :=
  regEffect_of_unbanked s p v b rfl
theorem regEffect_probe : s.regEffect p (offGRN + 0x800) v b =
    (s.regPlain p (offGRN + 0x800) v).setReg (offGRN + 0x808) (s.probeBond v) := regEffect_of_unbanked s p v b rfl

theorem regEffect_vmode (n : Fin 624) : s.regEffect p (offVMODE n.val) v b = s.vmodeWrite n.val v := by
  have hstn : stnAt? (offVMODE n.val) = some (n.val, 0x10) := stnAt?_window n.isLt (by decide)
  simp only [State.regEffect, hstn]
  rfl

theorem regEffect_chk (k : Fin 16) (j : Fin 5) :
    s.regEffect p (offUnit k.val + 8 * j.val) v b = s.chkWrite p k.val j.val v := by
  obtain ⟨hchk, hstn, hcache, htier⟩ := chkAt?_unit k.isLt (Nat.lt_trans j.isLt (by decide))
  simp only [State.regEffect, hchk, hstn, hcache, htier]
  exact if_pos j.isLt

end

/-! The commands that write a register. -/

/-- A command is the write of a value to a register through a port; the flag serves COMMIT. -/
inductive WritesRegister (p : Port) : Instr → Nat → Word → Bool → Prop where
  | vmode (n : Fin 624) (v : Word) : WritesRegister p (.vmodeWrite p n v) (offVMODE n.val) v false
  | waveCtl (v : Word) : WritesRegister p (.waveCtlWrite p v) 0x100 v false
  | flip (v : Word) : WritesRegister p (.flipArm p v) (offERR + 0x20) (putField v 0 0 1) false
  | wdog (v : Word) : WritesRegister p (.wdogDump p v) (offCNT + 0x10) (putField v 63 63 1) false
  | release (v : Word) : WritesRegister p (.dumpRelease p v) offDUMP (putField v 63 63 1) false
  | mbxWrite (v : Word) : WritesRegister p (.mbxWrite p v) offMBX (putField v 1 0 1) false
  | mbxCommit (v : Word) (ok : Bool) : WritesRegister p (.mbxCommit p v ok) offMBX (putField v 1 0 2) ok
  | mbxSelect (v : Word) : WritesRegister p (.mbxSelect p v) offMBX (putField v 1 0 3) false
  | laneNext (v : Word) : WritesRegister p (.laneNextWrite p v) (offLANE + 0x10) v false
  | chk (k : Fin 16) (j : Fin 5) (v : Word) : WritesRegister p (.chkConfigWrite p k j v) (offUnit k.val + 8 * j.val) v false
  | probe (v : Word) : WritesRegister p (.grnProbe p v) (offGRN + 0x800) v false

section
variable {p : Port} {c : Instr} {off : Nat} {w : Word} {b : Bool}

theorem WritesRegister.exec_eq (h : WritesRegister p c off w b) (s : State) :
    exec c s = .next (s.regWrite p off 8 w b) := by
  cases h <;> rfl

theorem WritesRegister.aligned (h : WritesRegister p c off w b) : off % 8 = 0 := by
  cases h with
  | vmode n => simp only [offVMODE, offSTN]; omega
  | chk k j => simp only [offUnit, offCHK]; omega
  | _ => rfl

theorem WritesRegister.ne_bootCtl (h : WritesRegister p c off w b) : off ≠ offBOOT + 0x10 := by
  cases h with
  | vmode n => simp only [offVMODE, offSTN, offBOOT]; omega
  | chk k j => simp only [offUnit, offCHK, offBOOT]; omega
  | _ => decide

/-- Through a port that is down, or during a recovery, such a command changes nothing (R9, R674). -/
theorem WritesRegister.unheard (h : WritesRegister p c off w b) {s : State}
    (hd : s.portUp p = false ∨ s.boot.recovering = true) : exec c s = .next s := by
  rw [h.exec_eq, regWrite_unheard (hd.imp_right (⟨·, h.aligned⟩)) h.ne_bootCtl]

/-- Otherwise it acts, unless sealed mode ignores the register (R753). -/
theorem WritesRegister.heard (h : WritesRegister p c off w b) {s : State} (hu : s.portUp p = true)
    (hr : s.boot.recovering = false) :
    exec c s = .next (if s.isSealed && sealedIgnores off then s else s.regEffect p off w b) := by
  rw [h.exec_eq, regWrite_arrives hu hr h.aligned]

theorem WritesRegister.acts (h : WritesRegister p c off w b) {s : State} (hu : s.portUp p = true)
    (hr : s.boot.recovering = false) (hs : s.isSealed = false ∨ sealedIgnores off = false) :
    exec c s = .next (s.regEffect p off w b) := by
  rw [h.heard hu hr, if_neg]
  rcases hs with hs | hs <;> simp [hs]

end

/-! Registers with an effect of their own. -/

/-- While flash writes are not held off, the settings record takes LANE_NEXT as it stands; no register changes (R585, R609). -/
theorem writeRecord_settings {s : State} (hf : s.flashHeld = false) : (∀ a, (s.writeRecord 1).reg a = s.reg a) ∧
    (s.writeRecord 1).flash.laneNext = some (s.reg (offLANE + 0x10)) := by
  rw [State.writeRecord, hf]
  exact ⟨fun a => rfl, rfl⟩

section
variable {s : State} {p : Port} {v : Word} (hu : s.portUp p = true) (hr : s.boot.recovering = false)
include hu hr

/-- VMODE takes the host's fields; a reserved RND is recorded (R117). -/
theorem exec_vmodeWrite (hs : s.isSealed = false) (n : Fin 624) :
    exec (.vmodeWrite p n v) s = .next (s.vmodeWrite n.val v) := by
  rw [(WritesRegister.vmode n v).acts hu hr (.inl hs), regEffect_vmode]

/-- WAVE_CTL takes its field; what the waves use changes at their boundary only (R322). -/
theorem exec_waveCtlWrite : ∃ t : State, exec (.waveCtlWrite p v) s = .next t ∧ t.field 0x100 8 0 = fieldOf v 8 0 ∧
    t.waveCtl = s.waveCtl := by
  refine ⟨_, (WritesRegister.waveCtl v).acts hu hr (.inr rfl), ?_⟩
  rw [regEffect_waveCtl, regPlain_row (r := row 0x100 0x100 (ones 8 0) 0) v rfl (.inl rfl)]
  exact ⟨by rw [field_setReg_same, RegRow.fieldOf_written _ _ _ (by omega) (by decide)], rfl⟩

/-- The lease holder arms the flip, but not while sealed (R686, R753). -/
theorem exec_flipArm_holder (hs : s.isSealed = false) (hp : s.holder = some p) :
    ∃ t : State, exec (.flipArm p v) s = .next t ∧ t.bit (offERR + 0x20) 0 = true ∧ t.mem = s.mem := by
  refine ⟨_, (WritesRegister.flip v).acts hu hr (.inl hs), ?_⟩
  rw [regEffect_flipCtl, regPlain_row (r := (row (offERR + 0x20) 0 (ones 1 0) (ones 2 2)).held) _ rfl (.inr hp)]
  refine ⟨?_, rfl⟩
  rw [State.bit, reg_setReg_same, bitOf, RegRow.written_getLsbD _ _ _ (by omega), if_pos (by decide)]
  exact bitOf_putField_in v 1 (by omega) (by omega) (by omega)

theorem exec_flipArm_sealed (hs : s.isSealed = true) : exec (.flipArm p v) s = .next s := by
  rw [(WritesRegister.flip v).heard hu hr, hs]
  rfl

/-- A write of CNT_WDOG with DUMP: the fields take the value, and from the lease holder the device dumps (R770, R774). -/
theorem exec_wdogDump : exec (.wdogDump p v) s = .next
    (if s.holder = some p ∧ s.live = true then (s.regPlain p (offCNT + 0x10) (putField v 63 63 1)).freeze 2
     else s.regPlain p (offCNT + 0x10) (putField v 63 63 1)) := by
  have hdump : bitOf (putField v 63 63 1) 63 = true := bitOf_putField_in v 1 (by omega) (by omega) (by omega)
  rw [(WritesRegister.wdog v).acts hu hr (.inr rfl), regEffect_wdog, State.wdogWrite, holder_regPlain _ _ _ (by decide),
    live_regPlain _ _ _ (by decide), hdump]
  simp

/-- VALID of CNT_DUMP clears, and nothing else (R771). -/
theorem exec_dumpRelease : ∃ t : State, exec (.dumpRelease p v) s = .next t ∧ t.bit offDUMP 63 = false ∧ t.mem = s.mem ∧
    ∀ a, a ≠ offDUMP → t.reg a = s.reg a := by
  refine ⟨_, (WritesRegister.release v).acts hu hr (.inr rfl), ?_⟩
  rw [regEffect_dump, regPlain_row (r := row (offCNT + 0x18) 0 0 (ones 63 63)) _ rfl (.inl rfl)]
  refine ⟨?_, rfl, fun a ha => reg_setReg_other s _ ha⟩
  have hone : (putField v 63 63 1).getLsbD 63 = true := bitOf_putField_in v 1 (by omega) (by omega) (by omega)
  rw [State.bit, reg_setReg_same, bitOf, RegRow.written_getLsbD _ _ _ (by omega), if_neg (by decide), if_pos (by decide), hone]
  simp

/-- LANE_NEXT takes its fields, and the settings record its value in flash (R585). -/
theorem exec_laneNextWrite (hf : s.flashHeld = false) : ∃ t : State, exec (.laneNextWrite p v) s = .next t ∧
    t.field (offLANE + 0x10) 37 0 = fieldOf v 37 0 ∧ t.flash.laneNext = some (t.reg (offLANE + 0x10)) ∧
    t.reg offLANE = s.reg offLANE ∧ t.reg (offLANE + 8) = s.reg (offLANE + 8) := by
  refine ⟨_, (WritesRegister.laneNext v).acts hu hr (.inr rfl), ?_⟩
  rw [regEffect_laneNext, regPlain_row (r := (row (offLANE + 0x10) 0x11111111 0 0).sticky (ones 37 0)) _ rfl (.inl rfl)]
  obtain ⟨hreg, hnext⟩ := writeRecord_settings (s := s.setReg (offLANE + 0x10)
    (((row (offLANE + 0x10) 0x11111111 0 0).sticky (ones 37 0)).written (s.reg (offLANE + 0x10)) v))
    (by rw [State.flashHeld, bit_setReg_other _ _ _ (by decide), ← State.flashHeld, hf])
  refine ⟨?_, by rw [hnext, hreg], by rw [hreg, reg_setReg_other _ _ (by decide)],
    by rw [hreg, reg_setReg_other _ _ (by decide)]⟩
  rw [State.field, hreg, reg_setReg_same, RegRow.fieldOf_written _ _ _ (by omega) (by decide)]

/-- A probe address stays in its register, and its result is read in the next (R628). -/
theorem exec_grnProbe : ∃ t : State, exec (.grnProbe p v) s = .next t ∧ t.reg (offGRN + 0x800) = v ∧
    t.reg (offGRN + 0x808) = s.probeBond v ∧ t.grain = s.grain := by
  refine ⟨_, (WritesRegister.probe v).acts hu hr (.inr rfl), ?_⟩
  rw [regEffect_probe, regPlain_row (r := row (offGRN + 0x800) 0 (ones 63 0) 0) _ rfl (.inl rfl)]
  refine ⟨?_, reg_setReg_same _ _ _, rfl⟩
  rw [reg_setReg_other _ _ (by decide), reg_setReg_same]
  apply BitVec.eq_of_getLsbD_eq
  intro i hi
  rw [RegRow.written_getLsbD _ _ _ hi, if_pos (by simp only [row, ones_testBit, decide_eq_true_eq]; omega)]

/-- A write of a check-value unit goes by the rule of its block (R582, R588). -/
theorem exec_chkConfigWrite (hs : s.isSealed = false) (k : Fin 16) (j : Fin 5) :
    exec (.chkConfigWrite p k j v) s = .next (s.chkWrite p k.val j.val v) := by
  rw [(WritesRegister.chk k j v).acts hu hr (.inl hs), regEffect_chk]

end

/-- A busy unit ignores the write and sets REJ (R582). -/
theorem chkWrite_busy {s : State} {p : Port} {k j : Nat} {v : Word} (hk : k ≠ 15) (hb : s.bit (offUnit k) 16 = true) :
    s.chkWrite p k j v = s.setBit (offUnit k) 17 := by simp [State.chkWrite, hk, hb]

/-- A unit at rest takes the value, and one of its control register when WIDTH is 8 to 64 (R581, R582). -/
theorem chkWrite_taken {s : State} {p : Port} {k j : Nat} {v : Word} (hk : k ≠ 15) (hb : s.bit (offUnit k) 16 = false)
    (hw : j ≠ 0 ∨ (8 ≤ fieldOf v 6 0 ∧ fieldOf v 6 0 ≤ 64)) :
    s.chkWrite p k j v = s.regPlain p (offUnit k + 8 * j) v := by
  by_cases hj : j = 0
  · have hw := hw.resolve_left (fun h => h hj)
    simp [State.chkWrite, hk, hb, hj, hw]
  · simp [State.chkWrite, hk, hb, hj]

/-! The mailbox (R606, R617, R618, R629). -/

@[simp] theorem Flash.slot_setSlot_same (f : Flash) (b : Bool) (x : FlashSlot) : (f.setSlot b x).slot b = x := by
  cases b <;> rfl

@[simp] theorem Flash.slot_setSlot_not (f : Flash) (b : Bool) (x : FlashSlot) : (f.setSlot (!b) x).slot b = f.slot b := by
  cases b <;> rfl

@[simp] theorem Flash.preferB_setSlot (f : Flash) (b : Bool) (x : FlashSlot) : (f.setSlot b x).preferB = f.preferB := by
  cases b <;> rfl

/-- The preferred slot is a field apart from the slots. -/
@[simp] theorem Flash.slot_prefer (f : Flash) (b c : Bool) : ({ f with preferB := c } : Flash).slot b = f.slot b := rfl

@[simp] theorem flash_mbxRes (s : State) (n : Nat) : (s.mbxRes n).flash = s.flash := rfl
@[simp] theorem mem_mbxRes (s : State) (n : Nat) : (s.mbxRes n).mem = s.mem := rfl

/-- The result of a mailbox command is read in MBX_STAT. -/
theorem field_mbxRes (s : State) {n : Nat} (h : n < 4) : (s.mbxRes n).field (offMBX + 8) 1 0 = n := by
  rw [State.mbxRes, field_setField_same _ _ _ _ _ (by omega)]
  exact Nat.mod_eq_of_lt h

/-- OP of a mailbox command. -/
theorem fieldOf_op (v : Word) {n : Nat} (h : n < 4) : fieldOf (putField v 1 0 n) 1 0 = n := by
  rw [fieldOf_putField_same _ _ _ _ (by omega)]
  exact Nat.mod_eq_of_lt h

/-- COMMIT says whether the image in the inactive slot verifies, and prefers that slot when it does; the running slot stays. -/
theorem mbxVerify_result {s : State} (hf : s.flashHeld = false) (ok : Bool) :
    (s.mbxVerify ok).field (offMBX + 8) 1 0 = (if ok then 0 else 1) ∧ ((s.mbxVerify ok).flash.slot !s.runsB).good = ok ∧
    (s.mbxVerify ok).flash.slot s.runsB = s.flash.slot s.runsB ∧
    (s.mbxVerify ok).flash.preferB = (if ok then !s.runsB else s.flash.preferB) ∧ (s.mbxVerify ok).mem = s.mem := by
  cases ok <;> simp [State.mbxVerify, hf, field_mbxRes]

/-- SELECT prefers the running slot again and leaves both slots as they are. -/
theorem mbxRunning_result {s : State} (hf : s.flashHeld = false) :
    s.mbxRunning.field (offMBX + 8) 1 0 = 0 ∧ s.mbxRunning.flash.preferB = s.runsB ∧ s.mbxRunning.flash.a = s.flash.a ∧
    s.mbxRunning.flash.b = s.flash.b := by
  simp [State.mbxRunning, hf, field_mbxRes]

section
variable {s : State} {p : Port} {v : Word}

/-- A mailbox command of a port without the lease does nothing (R617). -/
theorem mailbox_not_holder (b : Bool) (h : s.holder ≠ some p) : s.mailbox p v b = s := by simp [State.mailbox, h]

/-- While a command is in progress another one sets REJ. -/
theorem mailbox_busy (b : Bool) (h : s.holder = some p) (hb : s.bit (offMBX + 8) 8 = true) :
    s.mailbox p v b = s.setBit (offMBX + 8) 9 := by simp [State.mailbox, h, hb]

section
variable (b : Bool) (h : s.holder = some p) (hb : s.bit (offMBX + 8) 8 = false)
include h hb

theorem mailbox_op_write : s.mailbox p (putField v 1 0 1) b = s.mbxCopy (putField v 1 0 1) := by
  simp [State.mailbox, h, hb, fieldOf_op]

theorem mailbox_op_commit : s.mailbox p (putField v 1 0 2) b = s.mbxVerify b := by
  simp [State.mailbox, h, hb, fieldOf_op]

theorem mailbox_op_select : s.mailbox p (putField v 1 0 3) b = s.mbxRunning := by
  simp [State.mailbox, h, hb, fieldOf_op]

end

variable (hu : s.portUp p = true) (hr : s.boot.recovering = false)
include hu hr

theorem exec_mbxWrite : exec (.mbxWrite p v) s = .next (s.mailbox p (putField v 1 0 1) false) := by
  rw [(WritesRegister.mbxWrite v).acts hu hr (.inr rfl), regEffect_mailbox]

theorem exec_mbxCommit (ok : Bool) : exec (.mbxCommit p v ok) s = .next (s.mailbox p (putField v 1 0 2) ok) := by
  rw [(WritesRegister.mbxCommit v ok).acts hu hr (.inr rfl), regEffect_mailbox]

theorem exec_mbxSelect : exec (.mbxSelect p v) s = .next (s.mailbox p (putField v 1 0 3) false) := by
  rw [(WritesRegister.mbxSelect v).acts hu hr (.inr rfl), regEffect_mailbox]

end

/-- What the mailbox does for the lease holder and for another port. -/
theorem mailbox_commands (p : Port) (v : Word) (ok : Bool) (s : State) (hu : s.portUp p = true)
    (hr : s.boot.recovering = false) :
    (s.holder ≠ some p → exec (.mbxWrite p v) s = .next s ∧ exec (.mbxCommit p v ok) s = .next s ∧
      exec (.mbxSelect p v) s = .next s) ∧
    (s.holder = some p → s.bit (offMBX + 8) 8 = false →
      exec (.mbxWrite p v) s = .next (s.mbxCopy (putField v 1 0 1)) ∧
      exec (.mbxCommit p v ok) s = .next (s.mbxVerify ok) ∧ exec (.mbxSelect p v) s = .next s.mbxRunning) ∧
    (s.holder = some p → s.bit (offMBX + 8) 8 = true → exec (.mbxWrite p v) s = .next (s.setBit (offMBX + 8) 9)) := by
  rw [exec_mbxWrite hu hr, exec_mbxCommit hu hr, exec_mbxSelect hu hr]
  refine ⟨fun h => ?_, fun h hb => ?_, fun h hb => by rw [mailbox_busy _ h hb]⟩
  · simp only [mailbox_not_holder _ h, and_self]
  · rw [mailbox_op_write _ h hb, mailbox_op_commit _ h hb, mailbox_op_select _ h hb]
    exact ⟨rfl, rfl, rfl⟩

/-! Accesses of any size and kind (R10). -/

section
variable {s : State} {p : Port} {off bytes : Nat}

theorem exec_registerWrite_write (v : Word) (h : off ≠ offMBX) :
    exec (.registerWrite p off bytes (.write v)) s = .next (s.regWrite p off bytes v false) := by
  simp [exec, execRegisterWrite, h]

theorem exec_registerRead_down (h : s.portUp p = false) : exec (.registerWrite p off bytes .read) s = .next s := by
  simp [exec, execRegisterWrite, State.readAccess, h]

/-- A whole read answers with the register's value. -/
theorem exec_registerRead_whole (h : s.portUp p = true) (h8 : off % 8 = 0) :
    exec (.registerWrite p off 8 .read) s =
      .next { s with outbox := { s.outbox with reads := s.outbox.reads ++ [(off, s.regRead off 8)] } } := by
  simp [exec, execRegisterWrite, State.readAccess, wholeAccess, h, h8]

/-- A narrower or misaligned read answers zero and is recorded. -/
theorem exec_registerRead_narrow (h : s.portUp p = true) (ho : bytes ≠ 8 ∨ off % 8 ≠ 0) :
    exec (.registerWrite p off bytes .read) s = .next (State.narrowAccess
      { s with outbox := { s.outbox with reads := s.outbox.reads ++ [(off, 0#64)] } } off) := by
  have hw : wholeAccess off bytes = false := by rcases ho with ho | ho <;> simp [wholeAccess, ho]
  simp [exec, execRegisterWrite, State.readAccess, State.regRead, h, hw]

end

/-- BOOT_CTL takes its field from the lease holder even during a recovery (R674). -/
theorem regWrite_bootCtl {s : State} {p : Port} (v : Word) (hu : s.portUp p = true) (hr : s.boot.recovering = true)
    (hp : s.holder = some p) : ∃ t : State, exec (.registerWrite p (offBOOT + 0x10) 8 (.write v)) s = .next t ∧
    t.bit (offBOOT + 0x10) 0 = v.getLsbD 0 ∧ ∀ a, a ≠ offBOOT + 0x10 → t.reg a = s.reg a := by
  refine ⟨s.regPlain p (offBOOT + 0x10) v, ?_, ?_⟩
  · rw [exec_registerWrite_write v (by decide)]
    simp [State.regWrite, hu, hr, wholeAccess, offBOOT]
  · have hrow : regRow? (offBOOT + 0x10) = some ((row (offBOOT + 0x10) 0 0 0).sticky 1).held := rfl
    obtain ⟨hbits, hother⟩ := regPlain_bits v hrow (.inr hp)
    exact ⟨(hbits 0 (by omega)).trans (if_pos rfl), hother⟩

/-! HDM windows (R536, R537, R750, R751). -/

section
variable {s : State} {p : Port} {pa : BitVec 48}

theorem exec_hdm_unheard (len : Nat) (mask : BitVec 64) (data : List Byte)
    (h : s.portUp p = false ∨ s.live = false ∨ inDram pa.toNat = false) :
    exec (.hdmRead p pa len) s = .next s ∧ exec (.hdmWrite p pa mask data) s = .next s := by
  rcases h with h | h | h <;> simp [exec, execHdmRead, execHdmWrite, h]

variable (hu : s.portUp p = true) (hl : s.live = true) (hd : inDram pa.toNat = true)
include hu hl hd

theorem exec_hdmRead (len : Nat) : exec (.hdmRead p pa len) s = .next
    (if (flitParts pa.toNat len).all fun x => s.hdmGo (s.hdmReadWay x.1 x.2) x.1 x.2 false
     then s.hdmRead pa.toNat len (len / 64 + 2) else s) := by
  simp only [exec, execHdmRead, hu, hl, hd, Bool.true_and]

theorem exec_hdmWrite (mask : BitVec 64) (data : List Byte) : exec (.hdmWrite p pa mask data) s = .next
    (if s.hdmGo (s.hdmWriteWay (pa.toNat / 64 * 64)) (pa.toNat / 64 * 64) 64 true
     then s.hdmWrite (pa.toNat / 64 * 64) mask data else s) := by
  simp only [exec, execHdmWrite, hu, hl, hd, Bool.true_and]

end

/-- A host write that goes nowhere is recorded (R537). -/
theorem hdmWrite_closed {s : State} {a : Nat} (mask : BitVec 64) (data : List Byte) (h : s.hdmWriteWay a = .closed) :
    s.hdmWrite a mask data = s.errRec 12 0 (ctlUnit (ctlOf a)) a := by
  simp [State.hdmWrite, h]

/-- A read of one byte on the way of the home slice answers with what the slice loads (R217, R537). -/
theorem hdmRead_slice {s : State} {a : Nat} (h : s.hdmReadWay a 1 = .slice) :
    let r := s.cohLoad hostOf 0 a 1 false false
    (s.hdmRead a 1 2).outbox.hdm = r.2.2.outbox.hdm ++ [(r.2.1.any id, r.1)] := by
  have hn : Nat.min 1 (64 - a % 64) = 1 := Nat.min_eq_left (by omega)
  simp [State.hdmRead, State.hdmFlit, hn, h]

/-- Closed windows serve no address outside the egress buffers (R750, R751). -/
theorem hdmWay_closed {s : State} {a n : Nat} (hc : s.trust.windowsClosed = true) (he : s.inEgress a n = false) :
    s.hdmReadWay a n = .closed ∧ s.hdmWriteWay a = .closed := by
  simp [State.hdmReadWay, State.hdmWriteWay, hc, he]

/-! The obligation. -/

/-- A host write of VMODE leaves what its fields give, and a record when RND is reserved (R117). -/
theorem vmodeWrite_eq (s : State) (n : Nat) (v : Word) :
    (rndReserved v = false → s.vmodeWrite n v = s.setReg (offVMODE n) (vmodeOfHost (s.reg (offVMODE n)) v)) ∧
    (rndReserved v = true → s.vmodeWrite n v = (s.setReg (offVMODE n) (vmodeOfHost (s.reg (offVMODE n)) v)).errRec 11 0
      (posUnit 1 n 0) (0x0B0000000000 + offVMODE n)) := by
  constructor <;> intro h <;> simp [State.vmodeWrite, h]

/-- Settles O59: every register command is one of WritesRegister, whose effect the lemma of its register gives; an HDM access
takes its way when the port, the device and the address allow it. -/
theorem registerAccessesAndHostMemoryWindows : Obligations.RegisterAccessesAndHostMemoryWindows := by
  unfold Obligations.RegisterAccessesAndHostMemoryWindows
  refine ⟨fun p n k j v s c off w hc => ?commands, fun p off bytes v s hu => ⟨fun ho => ?narrow, fun h8 ho => ?whole⟩,
    fun p off bytes s => exec_registerRead_down, fun p v s => regWrite_bootCtl v, fun p off v s => ?plain,
    fun p n v s hu hr hs => ?vmode, fun p v s hu hr => ?effects, fun p v ok s hu hr => ?mailbox,
    fun p k j v s hu hr hs => ?check, fun p pa len mask data s => ?hdm⟩
  case commands =>
    have hw : WritesRegister p c off w false := by
      simp only [List.mem_cons, Prod.mk.injEq, List.not_mem_nil, or_false] at hc
      rcases hc with ⟨rfl, rfl, rfl⟩ | ⟨rfl, rfl, rfl⟩ | ⟨rfl, rfl, rfl⟩ | ⟨rfl, rfl, rfl⟩ | ⟨rfl, rfl, rfl⟩ |
        ⟨rfl, rfl, rfl⟩ | ⟨rfl, rfl, rfl⟩ | ⟨rfl, rfl, rfl⟩ | ⟨rfl, rfl, rfl⟩ | ⟨rfl, rfl, rfl⟩ <;> constructor
    exact ⟨hw.unheard, fun hu hr hs => hw.acts hu hr (.inl hs), fun hu hr hs => by rw [hw.heard hu hr, hs, Bool.true_and]⟩
  case narrow =>
    exact ⟨fun hm => by rw [exec_registerWrite_write v hm, regWrite_narrow hu ho]; rfl, exec_registerRead_narrow hu ho⟩
  case whole =>
    subst h8
    exact ⟨fun hm hr hs => by rw [exec_registerWrite_write v hm, regWrite_arrives hu hr ho, hs]; rfl,
      exec_registerRead_whole hu ho⟩
  case plain =>
    exact ⟨regPlain_no_row v, fun r hr => ⟨regPlain_not_holder v hr, regPlain_bits v hr⟩⟩
  case vmode =>
    rw [exec_vmodeWrite hu hr hs n]
    obtain ⟨hok, hres⟩ := vmodeWrite_eq s n.val v
    exact ⟨fun h => ⟨_, rfl, by rw [hok h, reg_setReg_same], fun a ha => by rw [hok h, reg_setReg_other s _ ha]⟩,
      fun h => congrArg _ (hres h)⟩
  case effects =>
    refine ⟨exec_waveCtlWrite hu hr, exec_flipArm_sealed hu hr, exec_flipArm_holder hu hr, ?_, exec_dumpRelease hu hr,
      exec_laneNextWrite hu hr, exec_grnProbe hu hr⟩
    rw [exec_wdogDump hu hr]
    refine ⟨fun h => ?_, fun hp hl => by rw [if_pos ⟨hp, hl⟩]⟩
    rw [if_neg]
    rintro ⟨hp, hl⟩
    exact h.elim (· hp) (fun h => Bool.false_ne_true (h.symm.trans hl))
  case mailbox =>
    obtain ⟨hnot, hops, hbusy⟩ := mailbox_commands p v ok s hu hr
    refine ⟨hnot, fun hp hb => ?_, hbusy⟩
    obtain ⟨hcopy, hcommit, hselect⟩ := hops hp hb
    refine ⟨hcopy, fun hf => ⟨⟨_, hcommit, mbxVerify_result hf ok⟩, _, hselect, mbxRunning_result hf⟩, fun hf c hc => ?_⟩
    have hheld : exec c s = .next (s.mbxRes 2) := by
      simp only [List.mem_cons, List.not_mem_nil, or_false] at hc
      rcases hc with rfl | rfl
      · rw [hcommit, State.mbxVerify, if_pos hf]
      · rw [hselect, State.mbxRunning, if_pos hf]
    exact ⟨_, hheld, field_mbxRes s (by omega), flash_mbxRes s 2⟩
  case check =>
    rw [exec_chkConfigWrite hu hr hs k j]
    refine ⟨fun hk => by rw [State.chkWrite, if_pos hk], fun hk hb => by rw [chkWrite_busy hk hb],
      fun hk hb hw => by rw [chkWrite_taken hk hb (hw.imp_left fun h h0 => h (Fin.ext h0))]⟩
  case hdm =>
    refine ⟨exec_hdm_unheard len mask data, fun hu hl hd => ?_, fun a => hdmWrite_closed mask data,
      fun a h => ⟨_, rfl, hdmRead_slice h⟩, fun a n => hdmWay_closed⟩
    rw [exec_hdmRead hu hl hd, exec_hdmWrite hu hl hd]
    exact ⟨fun h => congrArg _ (if_neg (Bool.eq_false_iff.mp h)), fun h => congrArg _ (if_pos h),
      fun h => congrArg _ (if_neg (Bool.eq_false_iff.mp h)), fun h => congrArg _ (if_pos h)⟩

end Sys2Proof.Machine
end

section
/-!
PROOFS. Launches, the column-reduce unit, and flits and credits in flight (R290 to R293, R309, R411, R446, R647).
-/
namespace Sys2Proof.Machine

/-! Queues that decode work may pass (R309). -/

section
variable {α : Type} {held decode ready : α → Bool} {x : α} {rest : List α}

theorem decodeFirst_of_not_held (h : held x = false) : decodeFirst held decode ready (x :: rest) = x :: rest := by
  simp [decodeFirst, h]

theorem decodeFirst_of_no_decode (h : rest.find? decode = none) :
    decodeFirst held decode ready (x :: rest) = x :: rest := by simp [decodeFirst, h]

theorem head?_decodeFirst_of_held {y : α} (hx : held x = true) (hy : rest.find? decode = some y) :
    (decodeFirst held decode ready (x :: rest)).head? = some (if ready y then y else x) := by
  simp only [decodeFirst, hx, hy, Bool.not_true, Bool.false_eq_true, if_false]
  split <;> rfl

end

/-! Launches (R446). -/

/-- A core with groups started in the listed contexts, each a context with its place in the launch. -/
def Core.startGroups (k : Core) (f : Nat → GroupCtx) (l : List (Nat × Nat)) : Core :=
  l.foldl (fun k x => k.setGroup (Fin.ofNat 16 x.1) (f x.2)) k

section
variable (k : Core) (f : Nat → GroupCtx)

theorem Core.startGroups_eq (l : List (Nat × Nat)) : ∃ gs, k.startGroups f l = { k with groups := gs } := by
  induction l generalizing k with
  | nil => exact ⟨k.groups, rfl⟩
  | cons x l ih => exact ih (k.setGroup (Fin.ofNat 16 x.1) (f x.2))

theorem Core.group_setGroup (i g : Fin 16) (x : GroupCtx) : (k.setGroup g x).group i = if g = i then x else k.group i := by
  simp [Core.group, Core.setGroup, Vector.getElem_set, Fin.ext_iff]

theorem Core.group_startGroups_other {l : List (Nat × Nat)} {i : Fin 16} (h : ∀ x ∈ l, Fin.ofNat 16 x.1 ≠ i) :
    (k.startGroups f l).group i = k.group i := by
  induction l generalizing k with
  | nil => rfl
  | cons x l ih =>
    obtain ⟨hx, hl⟩ := List.forall_mem_cons.mp h
    exact (ih (k.setGroup (Fin.ofNat 16 x.1) (f x.2)) hl).trans ((k.group_setGroup ..).trans (if_neg hx))

theorem Core.group_startGroups_mem {l : List (Nat × Nat)} (hd : (l.map fun x => Fin.ofNat 16 x.1).Nodup) {x : Nat × Nat}
    (h : x ∈ l) : (k.startGroups f l).group (Fin.ofNat 16 x.1) = f x.2 := by
  induction l generalizing k with
  | nil => exact nomatch h
  | cons y l ih =>
    obtain ⟨hy, hl⟩ := List.nodup_cons.mp hd
    rcases List.mem_cons.mp h with rfl | h
    · refine (group_startGroups_other (k.setGroup (Fin.ofNat 16 x.1) (f x.2)) f fun z hz he => hy ?_).trans
        ((k.group_setGroup ..).trans (if_pos rfl))
      exact List.mem_map.mpr ⟨z, hz, he⟩
    · exact ih (k.setGroup (Fin.ofNat 16 y.1) (f y.2)) hl h

end

theorem Core.mem_freeGroups_lt {k : Core} {i : Nat} (h : i ∈ k.freeGroups) : i < 16 :=
  List.mem_range.mp (List.mem_filter.mp h).1

theorem Core.freeGroups_nodup (k : Core) : k.freeGroups.Nodup := List.nodup_range.filter _

/-- The contexts that a launch of a count takes, each with its place. -/
def Core.takenGroups (k : Core) (count : Nat) : List (Nat × Nat) := (k.freeGroups.take count).zipIdx

theorem Core.mem_takenGroups {k : Core} {count : Nat} {x : Nat × Nat} (h : x ∈ k.takenGroups count) :
    x.1 ∈ k.freeGroups.take count := List.fst_mem_of_mem_zipIdx h

theorem Core.takenGroups_getD {k : Core} {count j : Nat} (hj : j < count) (hc : count ≤ k.freeGroups.length) :
    (k.freeGroups.getD j 0, j) ∈ k.takenGroups count := by
  have hlen : j < k.freeGroups.length := by omega
  rw [Core.takenGroups, List.mk_mem_zipIdx_iff_getElem?, List.getElem?_take_of_lt hj, List.getD_eq_getElem?_getD,
    List.getElem?_eq_getElem hlen]
  rfl

theorem Core.ofNat_freeGroup {k : Core} {i : Nat} (h : i ∈ k.freeGroups) : (Fin.ofNat 16 i).val = i :=
  Nat.mod_eq_of_lt (mem_freeGroups_lt h)

theorem Core.takenGroups_nodup (k : Core) (count : Nat) :
    ((k.takenGroups count).map fun x => Fin.ofNat 16 x.1).Nodup := by
  have hmap : (k.takenGroups count).map (fun x => Fin.ofNat 16 x.1) = (k.freeGroups.take count).map (Fin.ofNat 16) := by
    rw [← List.zipIdx_map_fst 0 (k.freeGroups.take count), List.map_map]; rfl
  rw [hmap]
  refine List.pairwise_map.mpr ((k.freeGroups_nodup.sublist (List.take_sublist ..)).imp_of_mem fun {a b} ha hb hne he => hne ?_)
  have := congrArg Fin.val he
  rwa [ofNat_freeGroup (List.mem_of_mem_take ha),
    ofNat_freeGroup (List.mem_of_mem_take hb)] at this

/-- The core after the launch that waits first has started. -/
def Core.launched (k : Core) (l : Launch) (kd : KernelDef) : Core :=
  let g := k.startGroups (startGroup l kd) (k.takenGroups l.count)
  { g with launches := updateFirst (fun x => decide (x.id = l.id)) (fun x => { x with started := true }) g.launches }

section
variable {n : Fin 624} {s : State} {l : Launch} {img : Image} {kd : KernelDef}
  (hw : (s.waitingLaunches n.val).head? = some l) (hi : s.image = some img)
  (hk : img.kernels.find? (fun d => decide (d.num = l.kernel)) = some kd) (hl : s.coreLive n.val = true)
include hw hi hk hl

theorem exec_launchStart : exec (.launchStart n) s =
    .next (if (s.core n.val).freeGroups.length < l.count then s else s.setCore n.val ((s.core n.val).launched l kd)) := by
  obtain ⟨rest, hrest⟩ := List.head?_eq_some_iff.mp hw
  show execLaunchStart n s = _
  simp only [execLaunchStart, hrest, hi, hk, hl, Option.bind_some, Bool.not_true, Bool.false_or, decide_eq_true_eq]
  rfl

end

section
variable (k : Core) (l : Launch) (kd : KernelDef)

theorem Core.launched_group_taken {j : Nat} (hj : j < l.count) (hc : l.count ≤ k.freeGroups.length) :
    (k.launched l kd).group (Fin.ofNat 16 (k.freeGroups.getD j 0)) = startGroup l kd j :=
  k.group_startGroups_mem (startGroup l kd) (k.takenGroups_nodup l.count) (takenGroups_getD hj hc)

theorem Core.launched_group_other {i : Fin 16} (hi : i.val ∉ k.freeGroups.take l.count) :
    (k.launched l kd).group i = k.group i := by
  refine k.group_startGroups_other (startGroup l kd) fun x hx he => hi ?_
  have hmem := mem_takenGroups hx
  rwa [← he, ofNat_freeGroup (List.mem_of_mem_take hmem)]

/-- A launch that starts leaves the contexts of station code as they are, and marks itself. -/
theorem Core.launched_rest : (k.launched l kd).launches =
    updateFirst (fun x => decide (x.id = l.id)) (fun x => { x with started := true }) k.launches ∧
    ∀ c : Ctx, (k.launched l kd).ctx c = k.ctx c := by
  obtain ⟨gs, hgs⟩ := k.startGroups_eq (startGroup l kd) (k.takenGroups l.count)
  rw [Core.launched, hgs]
  exact ⟨rfl, fun c => by cases c <;> rfl⟩

end

section
variable {s : State} {n : Nat} {l : Launch} (h : (s.core n).launches.find? (fun l => !l.started) = some l)
include h

theorem unstarted_of_find : ∃ rest, (s.core n).launches.filter (fun l => !l.started) = l :: rest :=
  List.head?_eq_some_iff.mp (List.head?_filter.trans h)

theorem waitingLaunches_oldest (hb : s.asBackfill n l.c = false) : (s.waitingLaunches n).head? = some l := by
  obtain ⟨rest, hrest⟩ := unstarted_of_find h
  simp only [State.waitingLaunches, hrest]
  rw [decodeFirst_of_not_held (held := fun l => s.asBackfill n l.c) (x := l) hb]
  rfl

theorem waitingLaunches_no_decode (hn : ∀ y ∈ (s.core n).launches, y.started = false → y.c ≠ .d) :
    (s.waitingLaunches n).head? = some l := by
  obtain ⟨rest, hrest⟩ := unstarted_of_find h
  have hnone : rest.find? (fun l => decide (l.c = .d)) = none := by
    refine List.find?_eq_none.mpr fun y hy => ?_
    obtain ⟨hmem, hst⟩ := List.mem_filter.mp (hrest ▸ List.mem_cons_of_mem l hy)
    simpa using hn y hmem (by simpa using hst)
  rw [State.waitingLaunches, hrest, decodeFirst_of_no_decode hnone]
  rfl

theorem waitingLaunches_decode (hb : s.asBackfill n l.c = true) {y : Launch}
    (hy : (s.core n).launches.find? (fun y => !y.started && decide (y.c = .d)) = some y) :
    (s.waitingLaunches n).head? = some (if y.count ≤ (s.core n).freeGroups.length then y else l) := by
  obtain ⟨rest, hrest⟩ := unstarted_of_find h
  have hl : l.c ≠ .d := fun hd => by rw [hd] at hb; exact nomatch hb
  have hrest_y : rest.find? (fun l => decide (l.c = .d)) = some y := by
    have hall := List.find?_filter (p := fun y : Launch => !y.started) (q := fun y => decide (y.c = .d)) (xs := (s.core n).launches)
    rw [hrest, List.find?_cons_of_neg (by simpa using hl)] at hall
    simpa [hall] using hy
  simp only [State.waitingLaunches, hrest]
  rw [head?_decodeFirst_of_held (held := fun l => s.asBackfill n l.c) (x := l) hb hrest_y]
  simp only [decide_eq_true_eq]

end

/-! The column-reduce unit (R290, R411). -/

/-- The first column group of a link whose part the unit takes. -/
theorem find?_columnGroups {p : Fin 8 → Bool} {cg : Fin 8} (h : p cg = true) (hb : ∀ c : Fin 8, c < cg → p c = false) :
    [0, 1, 2, 3, 4, 5, 6, 7].find? p = some cg := by
  have hsplit : ∀ c : Fin 8, let l : List (Fin 8) := [0, 1, 2, 3, 4, 5, 6, 7]
      l = l.take c.val ++ c :: l.drop (c.val + 1) ∧ ∀ a ∈ l.take c.val, a < c := by decide
  obtain ⟨heq, hlt⟩ := hsplit cg
  exact List.find?_eq_some_iff_append.mpr ⟨h, _, _, heq, fun a ha => by rw [hb a (hlt a ha)]; rfl⟩

/-- A tile part that comes first at its place stands as it is. -/
theorem Rcx.sums_addPart_first (r : Rcx) (src : Nat) {cg key : Nat} (vals : List Lane) (po : Bool)
    (h : tabGet? r.sums (tabGetD r.got key 0 * 8 + cg) = none) :
    tabGet? (r.addPart src cg key vals po).sums (tabGetD r.got key 0 * 8 + cg) =
      some { count := 1, vals := vals, pois := po } := by
  simp only [Rcx.addPart, h, tabGet?_tabSet_same]

/-- A later tile part is added in FP32. -/
theorem Rcx.sums_addPart_later (r : Rcx) (src : Nat) {cg key : Nat} (vals : List Lane) (po : Bool) {x : TileSum}
    (h : tabGet? r.sums (tabGetD r.got key 0 * 8 + cg) = some x) :
    tabGet? (r.addPart src cg key vals po).sums (tabGetD r.got key 0 * 8 + cg) = some
      { count := x.count + 1, pois := x.pois || po, vals := x.vals.zipWith (fun a b =>
          BitVec.ofNat 32 (fpAdd fmt32 modeIeee (unpack fmt32 a.toNat) (unpack fmt32 b.toNat)).1) vals } := by
  simp only [Rcx.addPart, h, tabGet?_tabSet_same]

/-- The parts of a handle's tile are counted apart from its tiles. -/
theorem Rcx.handleParts_addPart (r : Rcx) (i src cg : Nat) (vals : List Lane) (po : Bool) :
    (r.addPart src cg ((2 + i) * 8) vals po).handleParts i = tabGetD r.got ((2 + i) * 8 + 1) 0 :=
  tabGetD_tabSet_other _ _ _ (by omega)

/-- Work that is not back-fill, and back-fill that has begun, keeps its turn (R309). -/
theorem rcxTurn_begun {s : State} {n : Nat} {r : Rcx} {rest : List Rcx} (h : (s.core n).rcx = r :: rest)
    (hd : r.c = .d ∨ s.asBackfill n .p = false ∨ r.got ≠ [] ∨ r.sent ≠ 0) : s.rcxTurn n = r :: rest := by
  rw [State.rcxTurn, h]
  refine decodeFirst_of_not_held ?_
  rcases hd with hd | hd | hd | hd <;> simp [hd]

section
variable {n : Fin 624} {s : State} {r : Rcx} {rest : List Rcx} (hl : s.coreLive n.val = true) (hr : s.rcxTurn n.val = r :: rest)
include hl hr

theorem exec_reduceLink_unused {e : Fin 2} (h : r.engs.getLsbD e.val = false) :
    exec (.reduceTileArrival n (.link e)) s = .next s := by
  show execReduceTileArrival n (.link e) s = _
  simp only [execReduceTileArrival, hr, hl, h, Bool.not_true, Bool.not_false, Bool.false_eq_true, if_false, if_true]

/-- A part that waits on a link enters the sums, and the link's credit returns. -/
theorem exec_reduceLink_part {e : Fin 2} {cg : Fin 8} {p : LinkPkt} {ps : List LinkPkt} (he : r.engs.getLsbD e.val = true)
    (hp : ((s.core n.val).eng e.val).link[cg] = p :: ps) (ht : tabGetD r.got (e.val * 8 + cg.val) 0 < r.tiles)
    (hb : ∀ c : Fin 8, c < cg →
      r.tiles ≤ tabGetD r.got (e.val * 8 + c.val) 0 ∨ ((s.core n.val).eng e.val).link[c] = []) :
    exec (.reduceTileArrival n (.link e)) s =
      let g := (s.core n.val).eng e.val
      .next ((s.setCore n.val (({ s.core n.val with
        rcx := r.addPart e.val cg.val (e.val * 8 + cg.val) (r.convert p cg.val) (p.pois || decide (r.scale.pois ≠ 0#4)) :: rest }
        : Core).setEng e.val
          { g with link := g.link.set cg ps, credits := g.credits.set cg (g.credits[cg] + 1) })).coreRun n.val) := by
  have hfind : [0, 1, 2, 3, 4, 5, 6, 7].find? (fun cg : Fin 8 => decide (tabGetD r.got (e.val * 8 + cg.val) 0 < r.tiles) &&
      !(((s.core n.val).eng e.val).link[cg]).isEmpty) = some cg := by
    refine find?_columnGroups (by simp [ht, hp]) fun c hc => ?_
    rcases hb c hc with h | h
    · simp [Nat.not_lt.mpr h]
    · simp [h]
  show execReduceTileArrival n (.link e) s = _
  simp only [execReduceTileArrival, hr, hl, he, hfind, hp, Bool.not_true, Bool.false_eq_true, if_false]

section
variable {i : Fin 16} {st : Nat} (hi : r.ins.find? (fun x => decide (x.1 = i.val)) = some (i.val, st))
include hi

theorem exec_reduceHandle_none
    (h : r.tiles ≤ tabGetD r.got ((2 + i.val) * 8) 0 ∨ s.takeable st 2 < 2) :
    exec (.reduceTileArrival n (.handle i)) s = .next s := by
  show execReduceTileArrival n (.handle i) s = _
  simp only [execReduceTileArrival, hr, hl, hi, Bool.not_true, Bool.false_eq_true, if_false]
  exact congrArg _ (if_pos (by simpa using h))

/-- Two flits of a handle are the 32 FP32 values of the next part of their tile. -/
theorem exec_reduceHandle_part (ht : tabGetD r.got ((2 + i.val) * 8) 0 < r.tiles) (h2 : 2 ≤ s.takeable st 2) :
    exec (.reduceTileArrival n (.handle i)) s =
      let key := (2 + i.val) * 8
      let part := tabGetD r.got (key + 1) 0
      let x := s.receive st 2 false
      let bs := (x.1.flatMap Flit.bytes).toArray
      let vals : List Lane := (List.range 32).map fun o => BitVec.ofNat 32
        ((List.range 4).foldl (fun acc j => acc + (bs.getD (4 * o + j) 0#8).toNat * 256 ^ j) 0)
      let r' := r.addPart (2 + i.val) (part % 8) key vals (x.1.any (·.pois) || decide (r.scale.pois ≠ 0#4))
      .next ((x.2.setCore n.val { x.2.core n.val with
        rcx := { r' with got := tabSet r'.got (key + 1) (part + 1) } :: rest }).coreRun n.val) := by
  show execReduceTileArrival n (.handle i) s = _
  simp only [execReduceTileArrival, hr, hl, hi, Bool.not_true, Bool.false_eq_true, if_false]
  rw [if_neg (by simp; omega), Rcx.handleParts_addPart r i.val]
  rfl

end

end

/-! Flits and credits in flight (R291, R293, R647). -/

section
variable {i : Nat} {s : State} {d : StreamDef} (hl : s.live = true) (hd : s.streamDef i = some d)
include hl hd

/-- The oldest flit of a stream arrives when it has a path and its buffer takes it, else it is held. -/
theorem exec_flitArrival {x : FlyFlit} {rest : List FlyFlit} (hf : (s.strm i).fly = x :: rest) :
    exec (.flitArrival i) s = .next (if x.path.isNone || !s.mayBuffer i d then s
      else ((((s.setStrm i { s.strm i with fly := rest }).bufferFlit i d x.flit).keepFlit
        x.wave i d x.flit).afterCore d.cons.val).afterCore d.prod.val) := by
  show execFlitArrival i s = _
  simp only [execFlitArrival, hd, hf, hl, Bool.not_true, Bool.false_or]

theorem exec_creditReturn_credit (hc : 0 < (s.strm i).credFly) (hr : (s.strm i).redo = []) :
    exec (.creditReturn i) s = .next ((s.setStrm i { s.strm i with
      credFly := (s.strm i).credFly - 1, credits := (s.strm i).credits + 1 }).afterCore d.prod.val) := by
  show execCreditReturn i s = _
  simp only [execCreditReturn, hd, hr, hl]
  rw [if_neg (by simp; omega)]

theorem exec_creditReturn_redo (hc : 0 < (s.strm i).credFly) {f : Flit} {fs : List Flit} (hr : (s.strm i).redo = f :: fs)
    (hm : s.mayBuffer i d = true) :
    exec (.creditReturn i) s = .next (((s.setStrm i { s.strm i with
      credFly := (s.strm i).credFly - 1, redo := fs }).bufferFlit i d f).afterCore d.cons.val) := by
  show execCreditReturn i s = _
  simp only [execCreditReturn, hd, hr, hl]
  rw [if_neg (by simp [hm]; omega)]

end

/-- Settles O49: each event by its unit's rule; the contexts that a launch takes differ from each other, and a queue lets decode
work pass only a head that is back-fill and has not begun. -/
theorem engineGroupAndStreamEvents : Obligations.EngineGroupAndStreamEvents := by
  unfold Obligations.EngineGroupAndStreamEvents
  refine ⟨?launch, ?order, ?reduce, fun n s r rest => rcxTurn_begun, ?sums, ?arrival, ?credit⟩
  case launch =>
    intro n s l img kd hl k hw hi hk free
    rw [exec_launchStart hw hi hk hl]
    refine ⟨fun h => congrArg _ (if_pos h), fun hc => ⟨_, congrArg _ (if_neg (Nat.not_lt.mpr hc)), ?_⟩⟩
    have hcore (t : Core) : (s.setCore n.val t).core n.val = t := core_setCore_same s n.val t
    obtain ⟨hlaunches, hctx⟩ := Core.launched_rest k l kd
    refine ⟨fun j hj => ?_, fun i hi => ?_, ?_, fun c => ?_, fun m hm => core_setCore_other s _ hm, rfl, rfl, rfl⟩
    · rw [State.grp, hcore]; exact Core.launched_group_taken k l kd hj hc
    · rw [State.grp, hcore]; exact Core.launched_group_other k l kd hi
    · rw [hcore]; exact hlaunches
    · rw [State.ctx, hcore]; exact hctx c
  case order =>
    exact fun n s l h =>
      ⟨waitingLaunches_oldest h, fun hb => ⟨waitingLaunches_no_decode h, fun y => waitingLaunches_decode h hb⟩⟩
  case reduce =>
    exact fun n e s r rest hl hr => ⟨exec_reduceLink_unused hl hr, fun cg p ps => exec_reduceLink_part hl hr, fun i st hi =>
      ⟨exec_reduceHandle_none hl hr hi, exec_reduceHandle_part hl hr hi⟩⟩
  case sums =>
    exact fun r src cg key vals po => ⟨r.sums_addPart_first src vals po, fun x => r.sums_addPart_later src vals po⟩
  case arrival =>
    intro i s d x rest hl hd hf
    rw [exec_flitArrival hl hd hf]
    refine ⟨fun hp hm => ?_, fun h => ?_⟩
    · rw [if_neg (by simp [hm, Option.ne_none_iff_isSome.mpr hp])]
    · rw [if_pos (by rcases h with h | h <;> simp [h])]
  case credit =>
    exact fun i s d hl hd hc => ⟨exec_creditReturn_credit hl hd hc, fun f fs => exec_creditReturn_redo hl hd hc⟩

end Sys2Proof.Machine
end

section
/-!
PROOFS. What a table finds after a map or a filter, and what events, error records and writes of the command log leave unchanged
(R631, R640, R683, R686).
-/
namespace Sys2Proof.Machine

/-! Tables. -/

/-- A table whose values are mapped under their keys. -/
theorem tabGet?_map {α β : Type} (t : List (Nat × α)) (f : Nat → α → β) (key : Nat) :
    tabGet? (t.map fun x => (x.1, f x.1 x.2)) key = (tabGet? t key).map (f key) := by
  induction t with
  | nil => rfl
  | cons x t ih =>
    obtain ⟨k, v⟩ := x
    by_cases hk : k = key
    · subst hk; simp [tabGet?]
    · simpa [tabGet?, hk] using ih

theorem tabGetD_map {α β : Type} (t : List (Nat × α)) (f : Nat → α → β) (key : Nat) (d : α) :
    tabGetD (t.map fun x => (x.1, f x.1 x.2)) key (f key d) = f key (tabGetD t key d) := by
  rw [tabGetD, tabGet?_map, tabGetD]
  cases tabGet? t key <;> rfl

/-- Entries of other keys may be left out. -/
theorem tabGet?_filter {α : Type} (t : List (Nat × α)) {p : Nat × α → Bool} {key : Nat} (h : ∀ v, p (key, v) = true) :
    tabGet? (t.filter p) key = tabGet? t key := by
  induction t with
  | nil => rfl
  | cons x t ih =>
    obtain ⟨k, v⟩ := x
    by_cases hk : k = key
    · subst hk; simp [tabGet?, h]
    · by_cases hp : p (k, v) = true <;> simp [tabGet?, hk, hp, ih]

/-! What events, error records and counters leave unchanged. -/

/-- t is s after events, error records and counts alone. -/
def State.Reports (s t : State) : Prop :=
  t = { s with host := t.host, regs := t.regs, rings := t.rings, outbox := t.outbox, evHeld := t.evHeld, evSent := t.evSent,
               evLog := t.evLog, cnt := t.cnt }

namespace State.Reports

theorem refl (s : State) : s.Reports s := rfl

theorem after {s t u : State} (h : t.Reports u) (h' : s.Reports t) : s.Reports u :=
  Eq.trans h (by rw [show t = _ from h'])

theorem ite {s t u : State} {c : Prop} [Decidable c] (h : s.Reports t) (h' : s.Reports u) : s.Reports (if c then t else u) := by
  split <;> assumption

theorem kept {s t : State} (h : s.Reports t) : t.mem = s.mem ∧ t.cores = s.cores ∧ t.churns = s.churns := by
  rw [show t = _ from h]
  exact ⟨rfl, rfl, rfl⟩

end State.Reports

section
variable {s t : State} (h : s.Reports t)
include h

theorem State.Reports.setReg (off : Nat) (v : Word) : s.Reports (t.setReg off v) := .after rfl h
theorem State.Reports.setField (off hi lo v : Nat) : s.Reports (t.setField off hi lo v) := .after rfl h
theorem State.Reports.setBit (off i : Nat) : s.Reports (t.setBit off i) := .after rfl h
theorem State.Reports.evLog (l : List (Nat × List Word)) : s.Reports { t with evLog := l } := .after rfl h

end

theorem ringPush_reports (s : State) (r : RingId) (bytes : Bool → List Byte) : s.Reports (s.ringPush r bytes) := by
  obtain ⟨due, h⟩ := ringPush_eq s r bytes
  rw [h]
  rfl

theorem drainEvents_reports (s : State) (e : Fin 2) (fuel : Nat) : s.Reports (s.drainEvents e fuel) := by
  induction fuel generalizing s with
  | zero => exact .refl s
  | succ fuel ih =>
    unfold State.drainEvents
    split
    · exact .refl s
    · split
      · exact (ih _).after (State.Reports.after rfl (ringPush_reports s _ _))
      · exact .refl s

theorem eventTo_reports (s : State) (e : Fin 2) (ev : Event) : s.Reports (s.eventTo e ev) := by
  have hdrain : s.Reports (State.drainEvents { s with evHeld := tabSet s.evHeld e.val [ev] } e 1) :=
    (drainEvents_reports _ e 1).after rfl
  exact .ite hdrain (.ite rfl ((State.Reports.refl s).setBit _ _))

theorem event_reports (s : State) (kind sub : Nat) (unit v v2 : Word) : s.Reports (s.event kind sub unit v v2) :=
  (eventTo_reports _ 1 _).after ((eventTo_reports _ 0 _).after rfl)

theorem count_reports (s : State) (bank idx amt : Nat) : s.Reports (s.count bank idx amt) :=
  .ite (.refl s) (.ite rfl (.ite rfl ((event_reports ..).after rfl)))

theorem countErr_reports (s : State) (bank idx : Nat) : s.Reports (s.countErr bank idx) :=
  .ite rfl (.ite rfl ((event_reports ..).after rfl))

theorem errRec_reports (s : State) (kind action : Nat) (unit : Word) (addr : Nat) :
    s.Reports (s.errRec kind action unit addr) := by
  unfold State.errRec
  refine (countErr_reports _ _ _).after (State.Reports.evLog (.ite (.setBit ?_ _ _) ?_) _) <;>
  exact .setField (.setReg (.setReg (.setReg (.setReg (.setReg (.refl s) _ _) _ _) _ _) _ _) _ _) _ _ _ _

theorem flipDone_reports (s : State) (unit : Word) (addr : Nat) : s.Reports (s.flipDone unit addr) :=
  (errRec_reports ..).after rfl

/-! Writes of SRAM (R632, R686). -/

/-- t is s after writes of SRAM from address lo on, and what they report. -/
def State.WritesFrom (lo : Nat) (s t : State) : Prop :=
  (∀ k, k < lo → memByte t.mem.bytes k = memByte s.mem.bytes k) ∧ State.Reports { s with mem := t.mem } t

namespace State.WritesFrom

theorem refl (lo : Nat) (s : State) : State.WritesFrom lo s s := ⟨fun _ _ => rfl, .refl s⟩

theorem trans {lo : Nat} {s t u : State} (h : State.WritesFrom lo s t) (h' : State.WritesFrom lo t u) :
    State.WritesFrom lo s u := by
  obtain ⟨hm, hr⟩ := h
  obtain ⟨hm', hr'⟩ := h'
  refine ⟨fun k hk => (hm' k hk).trans (hm k hk), hr'.after ?_⟩
  show ({ t with mem := u.mem } : State) = _
  rw [show t = _ from hr]

theorem of_mem {lo : Nat} {s : State} {m : Store} (h : ∀ k, k < lo → memByte m.bytes k = memByte s.mem.bytes k) :
    State.WritesFrom lo s { s with mem := m } := ⟨h, rfl⟩

theorem reports {lo : Nat} {s t u : State} (h : State.WritesFrom lo s t) (h' : t.Reports u) : State.WritesFrom lo s u := by
  have hm : u.mem = t.mem := h'.kept.1
  refine h.trans ⟨fun k _ => by rw [hm], ?_⟩
  rwa [hm]

theorem mono {lo lo' : Nat} {s t : State} (h : State.WritesFrom lo s t) (hl : lo' ≤ lo) : State.WritesFrom lo' s t :=
  ⟨fun k hk => h.1 k (Nat.lt_of_lt_of_le hk hl), h.2⟩

theorem foldl {α : Type} {lo : Nat} {f : State → α → State} (h : ∀ s x, State.WritesFrom lo s (f s x)) (l : List α)
    (s : State) : State.WritesFrom lo s (l.foldl f s) := by
  induction l generalizing s with
  | nil => exact .refl lo s
  | cons x l ih => exact (h s x).trans (ih (f s x))

theorem kept {lo : Nat} {s t : State} (h : State.WritesFrom lo s t) :
    t.lines = s.lines ∧ t.backs = s.backs ∧ t.splits = s.splits ∧ t.seqs = s.seqs ∧ t.pending = s.pending := by
  obtain ⟨-, hr⟩ := h
  rw [show t = _ from hr]
  exact ⟨rfl, rfl, rfl, rfl, rfl⟩

end State.WritesFrom

theorem flitsOf_ge {a n f : Nat} (h : f ∈ flitsOf a n) : a / 64 ≤ f := by
  unfold flitsOf at h
  split at h
  · exact nomatch h
  · obtain ⟨i, -, rfl⟩ := List.mem_map.mp h
    exact Nat.le_add_right ..

theorem flipArmed_mem {s : State} {cached : Bool} {a n f : Nat} (h : s.flipArmed cached a n = some f) : f ∈ flitsOf a n := by
  unfold State.flipArmed at h
  split at h
  · simp only at h
    split at h
    · exact nomatch h
    · split at h
      · split at h
        · rename_i hc
          cases h
          exact List.contains_iff_mem.mp hc
        · exact nomatch h
      · exact nomatch h
  · exact nomatch h

/-- An armed flip alters the flit that the write has touched. -/
theorem flipMem_writesFrom (s : State) (a n : Nat) : State.WritesFrom (a / 64 * 64) s (s.flipMem a n) := by
  unfold State.flipMem
  split
  · exact .refl _ s
  · rename_i f hf
    have hlo := flitsOf_ge (flipArmed_mem hf)
    refine .reports (.of_mem fun k hk => ?_) (flipDone_reports ..)
    split
    · exact memByte_memWrite_out _ _ _ (.inl (by omega))
    · split <;> rfl

theorem writeSram_writesFrom (s : State) (a : Nat) (bs : List Byte) :
    State.WritesFrom (a / 64 * 64) s (s.writeSram a bs false) := by
  unfold State.writeSram
  split
  · exact .refl _ s
  · exact .trans (.of_mem fun k hk => memByte_memWrite_out _ _ _ (.inl (by omega))) (flipMem_writesFrom _ a bs.length)

theorem logSlot_ge (st slot : Nat) : sysKey 0 0 ≤ logSlot st slot / 64 * 64 := by
  simp only [logSlot, sysKey]; omega

theorem writePair_log_writesFrom (s : State) (slot : Nat) (bs : List Byte) :
    State.WritesFrom (sysKey 0 0) s (s.writePair (logSlot 0 slot) (logSlot 1 slot) bs) :=
  ((writeSram_writesFrom s _ bs).mono (logSlot_ge 0 slot)).trans ((writeSram_writesFrom _ _ bs).mono (logSlot_ge 1 slot))

/-- The log of a stack that alone is lost is written again into the system areas (R640). -/
theorem mendLog_writesFrom (s : State) (st : Nat) : State.WritesFrom (sysKey 0 0) s (s.mendLog [st]) := by
  have hone : ([st].contains 0 && [st].contains 1) = false := by simp; omega
  unfold State.mendLog
  rw [hone, if_neg Bool.false_ne_true]
  split
  · refine State.WritesFrom.foldl (fun t e => ?_) s.log s
    exact writePair_log_writesFrom t e.slot (cmdBytes e.cmd)
  · exact .refl _ s

end Sys2Proof.Machine
end

section
/-!
PROOFS. Cores, fields, links and edges that fail, reset scopes, the end of a recovery, the watchdog and the churn (R35 to R37, R655 to
R678, R769).
-/
namespace Sys2Proof.Machine

/-! Cores that fail, and their failover (R655 to R657, R663). -/

section
variable {n : Fin 624} {s : State} (hl : s.live = true)
include hl

theorem exec_missedHeartbeat : exec (.missedHeartbeat n) s = .next (s.coreFails n.val false) := by
  show execMissedHeartbeat n s = _
  rw [execMissedHeartbeat, if_pos hl]

theorem exec_coreFailover (stall : BitVec 48) : exec (.coreFailover n stall) s =
    let w := s.coreFails n.val false
    .next (if (n.val, false) ∈ w.failed then
      (w.takeOver n.val true).moved n.val 1 (posUnit 1 n.val 0) (stall.setWidth 64) else w) := by
  show execCoreFailover n stall s = _
  simp only [execCoreFailover, hl, Bool.not_true, Bool.false_eq_true, if_false, List.contains_iff_mem]

omit hl in
/-- Without a lost field the event changes nothing. -/
theorem exec_fieldLoss_none (stall : BitVec 48) (h : (n.val, true) ∉ s.failed) : exec (.fieldLoss n stall) s = .next s := by
  have hc : s.failed.contains (n.val, true) = false := by simpa using h
  show execFieldLoss n stall s = _
  simp only [execFieldLoss, hc, Bool.not_false, Bool.or_true, if_true]

/-- A lost field is taken over, erased and refilled, and its pages are marked. -/
theorem exec_fieldLoss (stall : BitVec 48) (h : (n.val, true) ∈ s.failed) : exec (.fieldLoss n stall) s =
    let a := (s.poisonSlice n.val).takeOver n.val true
    let b := State.refillFields { a with mem := a.mem.erase (fieldKey n.val 0) (fieldKey n.val 0x2000000) }
      fun p => decide (p = n.val)
    .next ((b.poisonPages fun r => decide (r.pos = n.val) &&
      (decide (r.loc = 1) || decide (r.loc = 3))).movedRegen n.val 3 (posUnit 11 n.val 0) (stall.setWidth 64)) := by
  show execFieldLoss n stall s = _
  simp only [execFieldLoss, hl, List.contains_iff_mem.mpr h, Bool.not_true, Bool.or_self, Bool.false_eq_true, if_false]

end

/-- A core with a free spare waits for its failover, and the waves hold. -/
theorem coreFails_waits {s : State} {n : Nat} {field : Bool} (hp : s.hasPos n = true) (hk : isK12 n = false)
    (hf : (s.failed.any fun x => decide (x.1 = n)) = false) (ho : s.spareOpen (n / 13) = true) :
    s.coreFails n field =
      let w := s.hold.vacate (n / 13)
      { w with failed := w.failed ++ [(n, field)], failover := w.failover.filter fun x => decide (x.1 ≠ n / 13) } := by
  simp only [State.coreFails, hp, hk, hf, ho, Bool.not_true, Bool.false_eq_true, if_false, if_true]

/-- Whether a context works on a wave in flight. -/
def State.ctxInFlight (s : State) (x : Context) (c : Ctx) : Bool :=
  x.inWave && s.waves.any fun w => decide (w.ctx = c) && decide (w.num.toNat = fieldOf x.waveWord 47 0)

theorem ctx_hold (s : State) (n : Nat) (c : Ctx) :
    s.hold.ctx n c = if s.ctxInFlight (s.ctx n c) c then { s.ctx n c with held := true } else s.ctx n c := by
  have hcore := tabGetD_map s.cores (fun _ (k : Core) => { k with
    d := if s.ctxInFlight k.d .d then { k.d with held := true } else k.d,
    p := if s.ctxInFlight k.p .p then { k.p with held := true } else k.p }) n Core.zero
  have hctx : s.hold.ctx n c = Core.ctx _ c := congrArg (Core.ctx · c) hcore
  rw [hctx]
  cases c <;> rfl

theorem held_hold (s : State) (n : Nat) (c : Ctx) :
    (s.hold.ctx n c).held = ((s.ctx n c).held || s.ctxInFlight (s.ctx n c) c) := by
  rw [ctx_hold]
  cases hf : s.ctxInFlight (s.ctx n c) c <;> simp

/-! Planned failover and rotation (R660, R661). -/

section
variable {s : State} {n : Nat}

theorem planFailover_refused (h : isK12 n = true ∨ s.hasPos n = false ∨ s.spareOpen (n / 13) = false ∨
    (∃ x ∈ s.failover, x.1 = n / 13)) : s.planFailover n = s := by
  refine if_pos ?_
  rcases h with h | h | h | ⟨x, hx, h⟩
  · simp [h]
  · simp [h]
  · simp [h]
  · have hany : (s.failover.any fun x => decide (x.1 = n / 13)) = true := List.any_eq_true.mpr ⟨x, hx, decide_eq_true h⟩
    simp [hany]

theorem planFailover_starts (hk : isK12 n = false) (hp : s.hasPos n = true) (ho : s.spareOpen (n / 13) = true)
    (hf : ∀ x ∈ s.failover, x.1 ≠ n / 13) :
    s.planFailover n = { s.vacate (n / 13) with failover := (s.vacate (n / 13)).failover ++ [(n / 13, n)] } := by
  have hany : (s.failover.any fun x => decide (x.1 = n / 13)) = false :=
    List.any_eq_false.mpr fun x hx => by simpa using hf x hx
  simp only [State.planFailover, hk, hp, ho, hany, Bool.not_true, Bool.or_self, Bool.false_eq_true, if_false]

end

theorem exec_plannedFailover {n : Fin 624} {s : State} (hl : s.live = true) :
    exec (.plannedFailover n) s = .next (s.planFailover n.val) := by
  show execPlannedFailover n s = _
  rw [execPlannedFailover, if_pos hl]

section
variable {g : Fin 48} {s : State} {n : Nat} (hl : s.live = true)
  (hn : s.failover.find? (fun x => decide (x.1 = g.val)) = some (g.val, n))
include hl hn

theorem exec_plannedFailoverSwitch (stall : BitVec 48) (hf : s.failed = []) (hr : s.resume = [])
    (hw : ∀ w ∈ s.waves, w.latest.isSome = true) : exec (.plannedFailoverSwitch g stall) s = .next ((State.takeOver
      { s with failover := s.failover.filter fun x => decide (x.1 ≠ g.val) } n
      (s.positionDegraded g.val (s.physOf n))).moved n 2 (posUnit 1 n 0) (stall.setWidth 64)) := by
  have hany : (s.waves.any fun w => w.latest.isNone) = false :=
    List.any_eq_false.mpr fun w h => by simpa using Option.isSome_iff_ne_none.mp (hw w h)
  show execPlannedFailoverSwitch g stall s = _
  simp only [execPlannedFailoverSwitch, hn, hl, hf, hr, hany, List.isEmpty_nil, Bool.not_true, Bool.or_self,
    Bool.false_eq_true, if_false]

omit hl in
theorem exec_plannedFailoverSwitch_deferred (stall : BitVec 48)
    (h : s.failed ≠ [] ∨ s.resume ≠ [] ∨ ∃ w ∈ s.waves, w.latest = none) :
    exec (.plannedFailoverSwitch g stall) s = .next s := by
  show execPlannedFailoverSwitch g stall s = _
  simp only [execPlannedFailoverSwitch, hn]
  refine congrArg _ (if_pos ?_)
  rcases h with h | h | ⟨w, hw, h⟩
  · simp [h]
  · simp [h]
  · have hany : (s.waves.any fun w => w.latest.isNone) = true := List.any_eq_true.mpr ⟨w, hw, by simp [h]⟩
    simp [hany]

end

theorem exec_rotation {g : Fin 48} {s : State} (hl : s.live = true) (hb : s.bit (offERR + 8) 7 = true)
    (ho : s.spareOpen g.val = true) (hf : s.failed = []) (hr : s.resume = []) (hd : g.val ∉ s.degCl)
    (hn : ∀ x ∈ s.failover, x.1 ≠ g.val) : exec (.rotation g) s =
      let k := tabGetD s.rotNext g.val 0
      .next (State.planFailover { s with rotNext := tabSet s.rotNext g.val ((k + 1) % 12) } (13 * g.val + k)) := by
  have hany : (s.failover.any fun x => decide (x.1 = g.val)) = false :=
    List.any_eq_false.mpr fun x hx => by simpa using hn x hx
  show execRotation g s = _
  simp only [execRotation, hl, hb, ho, hf, hr, hany, List.contains_eq_mem, hd, decide_false, List.isEmpty_nil, Bool.not_true,
    Bool.or_self, Bool.false_eq_true, if_false]

theorem exec_rotation_off {g : Fin 48} {s : State} (h : s.bit (offERR + 8) 7 = false ∨ s.spareOpen g.val = false) :
    exec (.rotation g) s = .next s := by
  show execRotation g s = _
  exact congrArg _ (if_pos (by rcases h with h | h <;> simp [h]))

/-! Flits that fail parity, and ring edges (R35, R37, R630, R665). -/

section
variable {s : State} (hl : s.live = true)
include hl

theorem exec_streamParity {i : Nat} {d : StreamDef} {x : FlyFlit} {rest : List FlyFlit} (hd : s.streamDef i = some d)
    (hf : (s.strm i).fly = x :: rest) :
    exec (.flitParityFailure (.stream i)) s = .next (State.errRec (s.setStrm i { s.strm i with
      fly := { x with flit := { x.flit with pois := true } } :: rest }) 4 3 (posUnit 1 d.prod.val 0) 0) := by
  show execFlitParityFailure (.stream i) s = _
  simp only [execFlitParityFailure, State.poisonFlit, hl, hd, hf, Option.elim_some, List.isEmpty_cons, Bool.not_true,
    Bool.false_eq_true, if_false]

section
variable {i : Nat} {st : Fin 4} {m : Fin 17} (hm : (s.meshOut st).getLsbD m.val = false)
  (hc : s.flitCrosses i (.mesh st.val m.val) = true)
include hm hc

/-- On a link that has not failed before, the flit arrives poisoned. -/
theorem exec_meshParity_first
    (h : tabGet? ((s.poisonFlit i).errRec 4 3 (meshUnit st.val m.val) 0).netChurn (17 * st.val + m.val) = none) :
    exec (.flitParityFailure (.mesh i st m)) s =
      let w := (s.poisonFlit i).errRec 4 3 (meshUnit st.val m.val) 0
      .next { w with netChurn := tabSet w.netChurn (17 * st.val + m.val) w.churns } := by
  show execFlitParityFailure (.mesh i st m) s = _
  simp only [execFlitParityFailure, hl, hm, hc, h, Bool.not_true, Bool.or_self, Bool.false_eq_true, if_false]

/-- A link that failed in another churn of the last 16 is mapped out as well. -/
theorem exec_meshParity_again {c : Nat}
    (h : tabGet? ((s.poisonFlit i).errRec 4 3 (meshUnit st.val m.val) 0).netChurn (17 * st.val + m.val) = some c) :
    exec (.flitParityFailure (.mesh i st m)) s =
      let w := (s.poisonFlit i).errRec 4 3 (meshUnit st.val m.val) 0
      let u : State := { w with netChurn := tabSet w.netChurn (17 * st.val + m.val) w.churns }
      .next (if c ≠ u.churns ∧ u.churns < c + 16 then u.mapLink st m.val else u) := by
  show execFlitParityFailure (.mesh i st m) s = _
  simp only [execFlitParityFailure, hl, hm, hc, h, Bool.not_true, Bool.or_self, Bool.false_eq_true, if_false]

end

end

theorem exec_meshParity_apart {i : Nat} {st : Fin 4} {m : Fin 17} {s : State}
    (h : (s.meshOut st).getLsbD m.val = true ∨ s.flitCrosses i (.mesh st.val m.val) = false) :
    exec (.flitParityFailure (.mesh i st m)) s = .next s := by
  show execFlitParityFailure (.mesh i st m) s = _
  have hc : ((s.meshOut st).getLsbD m.val || !s.flitCrosses i (.mesh st.val m.val)) = true := by
    rcases h with h | h <;> simp [h]
  simp only [execFlitParityFailure, hc, if_true, ite_self]

/-- A flit in flight on stream i as it is resent: where its path uses the edge, by the route that is left. -/
def State.rerouted (s : State) (e i : Nat) (y : FlyFlit) : FlyFlit :=
  if y.path.any (fun p => p.contains (.edge e)) then { y with path := s.streamRoute i } else y

theorem fly_resendEdge (s : State) (e : Fin 4) (i : Nat) :
    ((s.resendEdge e).strm i).fly = (s.strm i).fly.map (s.rerouted e.val i) :=
  congrArg StreamRt.fly (tabGetD_map s.streams (fun j r => ({ r with fly := r.fly.map (s.rerouted e.val j) } : StreamRt)) i
    (StreamRt.fresh ((s.streamDef i).elim 0 (·.cap))))

theorem exec_ringEdgeFailure {e : Fin 4} {s : State} (hl : s.live = true) : exec (.ringEdgeFailure e) s =
    let u := State.resendEdge { s with edgesDown := s.edgesDown ++ [e] } e
    .next (if e ∈ s.edgesDown then s else if s.edgesDown = [] then u.degrade (edgeUnit e.val) else u.startRecovery) := by
  show execRingEdgeFailure e s = _
  simp only [execRingEdgeFailure, hl, Bool.not_true, Bool.false_or, List.contains_iff_mem, List.isEmpty_iff]

/-! Reset scopes (R86, R167, R380, R668 to R673). -/

section
variable {s : State} {n : Nat}

theorem loadCore_no_image (h : s.image = none) :
    s.loadCore n = s.setCore n { Core.zero with faults := (s.core n).faults } := by
  simp only [State.loadCore, State.program, h, Option.bind_none]

/-- What a core reset clears, before the core loads its program. -/
def State.clearCore (s : State) (n : Nat) : State :=
  { s with
    mem := s.mem.erase (coreKey n 0) (coreKey n 0x100000),
    regs := s.regs.filter fun x => !(decide (offSTN n ≤ x.1) && decide (x.1 < offSTN n + 0x880)),
    streams := s.streams.filter fun x => !s.streamMeets x.1 n,
    reqs := s.reqs.filter fun r => match r.who with
      | .ctx k _ => decide (k ≠ n)
      | .grp k _ => decide (k ≠ n)
      | .other => true,
    cores := tabErase s.cores n }

theorem core_clearCore_same : (s.clearCore n).core n = Core.zero := by
  show tabGetD (tabErase s.cores n) n Core.zero = _
  rw [tabGetD, tabGet?_tabErase, if_pos rfl]
  rfl

theorem core_clearCore_other {m : Nat} (h : m ≠ n) : (s.clearCore n).core m = s.core m := by
  show tabGetD (tabErase s.cores n) m Core.zero = _
  rw [tabGetD, tabGet?_tabErase, if_neg h]
  rfl

theorem reg_clearCore {a : Nat} (h : a < offSTN n ∨ offSTN n + 0x880 ≤ a) : (s.clearCore n).reg a = s.reg a := by
  refine congrArg (·.getD (regReset a)) (tabGet?_filter s.regs fun v => ?_)
  simp only [Bool.not_eq_true', Bool.and_eq_false_iff, decide_eq_false_iff_not]
  omega

end

theorem exec_coreReset {n : Fin 624} {s : State} (hl : s.live = true) :
    exec (.coreReset n) s = .next ((s.clearCore n.val).loadCore n.val) := by
  show execCoreReset n s = _
  simp only [execCoreReset, hl, Bool.not_true, Bool.false_eq_true, if_false]
  rfl

section
variable {st : Fin 4} {s : State} (hl : s.live = true)
include hl

theorem exec_baseLogicReset (stall : BitVec 48) : exec (.baseLogicReset st stall) s =
    let a := (s.settleSlices fun p => decide (p / 156 = st.val)).flushLines fun l =>
      decide (l.pos / 156 = st.val) && s.lineInBase l
    let b := ((List.range 24).filter fun c => decide (if c < 8 then c / 2 = st.val else (c - 8) / 4 = st.val)).foldl
      State.restartCtl a
    let c : State := { b with movers := b.movers.map fun (x : Nat × Mover) =>
      (x.1, if x.1 / 4 = st.val then x.2.again else x.2) }
    .next (c.recovered 4 (unitName 0 st.val 0 0 0 0) (stall.setWidth 64) 0#64) := by
  show execBaseLogicReset st stall s = _
  simp only [execBaseLogicReset, hl, Bool.not_true, Bool.false_eq_true, if_false]

theorem exec_forcedBaseLogicReset : exec (.forcedBaseLogicReset st) s = .next s.startRecovery := by
  show execForcedBaseLogicReset st s = _
  rw [execForcedBaseLogicReset, if_pos hl]

theorem exec_stackReset : exec (.stackReset st) s =
    .next (if s.hasImage then s.startRecovery else (s.resetStack st.val).mendLog [st.val]) := by
  show execStackReset st s = _
  simp only [execStackReset, hl, Bool.not_true, Bool.false_eq_true, if_false]

theorem exec_wholeDeviceRecovery : exec .wholeDeviceRecovery s = .next s.startRecovery := by
  obtain ⟨hready, -⟩ : s.ready = true ∧ _ := by simpa [State.live, and_assoc] using hl
  show execWholeDeviceRecovery s = _
  rw [execWholeDeviceRecovery, hready, Bool.true_or, if_pos rfl]

end

/-- The field of a position of the stack reads as zero after a stack reset. -/
theorem resetStack_field (s : State) {st n a : Nat} (hn : n / 156 = st) (hn' : n < 624) (ha : a < 0x2000000) :
    memByte (s.resetStack st).mem.bytes (fieldKey n a) = 0#8 := by
  show memByte (memErase (memErase (memErase s.mem.bytes _ _) _ _) _ _) (fieldKey n a) = 0#8
  rw [memByte_memErase_out _ (.inl ?_), memByte_memErase_out _ (.inl ?_), memByte_memErase_in]
  all_goals simp only [fieldKey, coreKey, sysKey]; omega

theorem resetStack_drops (s : State) (st : Nat) :
    (∀ x ∈ (s.resetStack st).lines, x.2.pos / 156 ≠ st) ∧ (∀ x ∈ (s.resetStack st).backs, x.1 / 156 ≠ st) ∧
    ∀ x ∈ (s.resetStack st).splits, x.1 / 156 ≠ st := by
  have other {α : Type} {l : List α} {f : α → Nat} : ∀ x ∈ l.filter fun x => !decide (f x / 156 = st), f x / 156 ≠ st :=
    fun x hx => by simpa using (List.mem_filter.mp hx).2
  exact ⟨other (f := fun x : Nat × Line => x.2.pos), other, other⟩

/-- No field lies in a system area. -/
theorem fieldKey_lt_sysKey {n a : Nat} (hn : n < 624) (ha : a < 0x2000000) : fieldKey n a < sysKey 0 0 := by
  simp only [fieldKey, sysKey]; omega

/-- A stack reset zeroes the stack's fields and drops its lines, records and splits; sequences stay (R167, R669). -/
theorem stackReset_effect (s : State) (st : Nat) :
    let t := (s.resetStack st).mendLog [st]
    (∀ n a, n / 156 = st → n < 624 → a < 0x2000000 → memByte t.mem.bytes (fieldKey n a) = 0#8) ∧
    (∀ x ∈ t.lines, x.2.pos / 156 ≠ st) ∧ (∀ x ∈ t.backs, x.1 / 156 ≠ st) ∧ (∀ x ∈ t.splits, x.1 / 156 ≠ st) ∧
    t.seqs = s.seqs ∧ t.pending = s.pending := by
  intro t
  have hw := mendLog_writesFrom (s.resetStack st) st
  obtain ⟨hlines, hbacks, hsplits, hseqs, hpending⟩ := hw.kept
  obtain ⟨hl, hb, hp⟩ := resetStack_drops s st
  exact ⟨fun n a hn hn' ha => (hw.1 _ (fieldKey_lt_sysKey hn' ha)).trans (resetStack_field s hn hn' ha), hlines ▸ hl,
    hbacks ▸ hb, hsplits ▸ hp, hseqs, hpending⟩

/-! The end of a recovery, the watchdog and the churn (R674, R675, R678, R769). -/

section
variable {s : State} (hr : s.ready = true) (hv : s.boot.recovering = true)
include hr hv

theorem exec_recoveryResume_kept (stall : BitVec 48) (h : s.boot.sysLost = []) : exec (.recoveryResume stall) s =
    let a := s.resumePlacement.readLog
    let b : State := { a with boot := { a.boot with recovering := false, sysLost := [], memLost := [] } }
    .next ((((b.recovered 5 0#64 (stall.setWidth 64) 0#64).tellDump.ringBells).flushRings.pullAll).settleAll) := by
  show execRecoveryResume stall s = _
  simp only [execRecoveryResume, hr, hv, h, List.isEmpty_nil, Bool.not_true, Bool.or_self, Bool.false_eq_true, if_false]

theorem exec_recoveryResume_lost (stall : BitVec 48) (h : s.boot.sysLost ≠ []) : exec (.recoveryResume stall) s =
    let a := s.sysAreaLost.readLog
    let b : State := { a with boot := { a.boot with recovering := false, sysLost := [], memLost := [] } }
    .next (((b.tellDump.ringBells).flushRings.pullAll).settleAll) := by
  show execRecoveryResume stall s = _
  simp only [execRecoveryResume, hr, hv, List.isEmpty_eq_false_iff.mpr h, Bool.not_true, Bool.not_false, Bool.or_self,
    Bool.false_eq_true, if_false, if_true]

end

theorem exec_hang {s : State} (hl : s.live = true) (hw : s.waves ≠ []) (ht : s.field (offCNT + 0x10) 15 0 ≠ 0) :
    exec .hang s = .next (if s.idleChurns < s.field (offCNT + 0x10) 15 0 then s else s.freeze 1) := by
  show execHang s = _
  simp only [execHang, hl, List.isEmpty_eq_false_iff.mpr hw, ht, Bool.not_true, decide_false, Bool.or_self, Bool.false_or,
    decide_eq_true_eq]

theorem exec_churn (c : ChurnSample) {s : State} (hl : s.live = true) : exec (.churn c) s =
    let w := (s.churnWork c).churnOver.copyLog
    .next (if w.isSealed && decide (w.churns % 100 = 0) then w.refreshTotals else w) := by
  show execChurn c s = _
  simp only [execChurn, hl, Bool.not_true, Bool.false_eq_true, if_false]

/-- A round that is over is counted, and each core's replays start anew (R655, R678). -/
theorem churnOver_effect (s : State) : s.churnOver.churns = s.churns + 1 ∧ s.churnOver.mem = s.mem ∧
    ∀ x ∈ s.churnOver.cores, x.2.replays = 0 := by
  obtain ⟨hmem, hcores, hchurns⟩ := State.Reports.kept (t := s.churnOver) (count_reports _ 0 8 1)
  refine ⟨hchurns, hmem, fun x hx => ?_⟩
  obtain ⟨y, -, rfl⟩ := List.mem_map.mp (hcores ▸ hx)
  rfl

/-- Settles O55: each event by what its unit does under the stated conditions. A stack reset mends the command log in the system
areas only, so the erased fields stay zero; what counts the churn touches neither memory nor cores. -/
theorem failoverResetsAndRecovery : Obligations.FailoverResetsAndRecovery := by
  unfold Obligations.FailoverResetsAndRecovery
  refine ⟨?fail, ?waits, held_hold, ?planned, ?switch, ?rotation, fun g s => exec_rotation_off, ?stream, ?mesh,
    fun i st m s => exec_meshParity_apart, ?edge, ?core, ?resets, ?stack, ?resume, ?hang, fun c s => exec_churn c,
    churnOver_effect⟩
  case fail =>
    intro n stall s hl
    rw [exec_coreFailover hl]
    exact ⟨exec_missedHeartbeat hl, ⟨fun h => congrArg _ (if_pos h), fun h => congrArg _ (if_neg h)⟩,
      exec_fieldLoss_none stall, exec_fieldLoss hl stall⟩
  case waits =>
    intro n s hl hp hk hf ho
    rw [exec_missedHeartbeat hl, coreFails_waits hp hk hf ho]
  case planned =>
    intro n s hl
    rw [exec_plannedFailover hl]
    exact ⟨fun h => by rw [planFailover_refused h], fun hk hp ho hf => by rw [planFailover_starts hk hp ho hf]⟩
  case switch =>
    exact fun g stall s n hl hn => ⟨exec_plannedFailoverSwitch hl hn stall, exec_plannedFailoverSwitch_deferred hn stall⟩
  case rotation => exact fun g s => exec_rotation
  case stream => exact fun i s d x rest hl hd hf => exec_streamParity hl hd hf
  case mesh => exact fun i st m s hl _ hm hc => ⟨exec_meshParity_first hl hm hc, fun c => exec_meshParity_again hl hm hc⟩
  case edge =>
    intro e s hl
    rw [exec_ringEdgeFailure hl]
    refine ⟨fun h => congrArg _ (if_pos h), fun h => ⟨_, congrArg _ ((if_neg (by simp [h])).trans (if_pos h)), ?_, rfl, rfl,
      rfl, fly_resendEdge _ e⟩, fun h hne => congrArg _ ((if_neg hne).trans (if_neg h))⟩
    show s.edgesDown ++ [e] = [e]
    rw [h, List.nil_append]
  case core =>
    intro n s hl hi
    rw [exec_coreReset hl, loadCore_no_image (s := s.clearCore n.val) hi, core_clearCore_same]
    refine ⟨_, rfl, core_setCore_same .., fun m hm => ?_, rfl, rfl, rfl, rfl, rfl, fun a => reg_clearCore⟩
    rw [core_setCore_other _ _ hm, core_clearCore_other hm]
  case resets =>
    exact fun st stall s hl => ⟨exec_baseLogicReset hl stall, exec_forcedBaseLogicReset hl, exec_stackReset hl,
      exec_wholeDeviceRecovery hl⟩
  case stack =>
    intro st s hl hi
    rw [exec_stackReset hl, State.hasImage, hi]
    exact ⟨_, rfl, stackReset_effect s st.val⟩
  case resume => exact fun stall s hr hv => ⟨exec_recoveryResume_kept hr hv stall, exec_recoveryResume_lost hr hv stall⟩
  case hang =>
    intro s hl hw ht
    rw [exec_hang hl hw ht]
    exact ⟨fun h => by rw [if_neg (Nat.not_lt.mpr h)], fun h => by rw [if_pos h]⟩

end Sys2Proof.Machine
end

section
/-!
PROOFS. Engine instructions: how an operation enters an engine queue, and what ELD, EWS, EDR and ECF do once they issue (R62,
R308, R310, R394, R407 to R410, R419).
-/
namespace Sys2Proof.Machine

/-! Engines of a core, and what leaves them as they are. -/

@[simp] theorem Core.eng_setEng_same (k : Core) (e : Nat) (g : Engine) : (k.setEng e g).eng e = g := by
  unfold Core.eng Core.setEng
  split <;> rfl

@[simp] theorem Core.eng_setCtx (k : Core) (c : Ctx) (x : Context) (e : Nat) : (k.setCtx c x).eng e = k.eng e := by
  cases c <;> rfl

@[simp] theorem eng_setCtx (s : State) (n : Nat) (c : Ctx) (x : Context) (e : Nat) :
    ((s.setCtx n c x).core n).eng e = (s.core n).eng e := by
  rw [State.setCtx, core_setCore_same, Core.eng_setCtx]

@[simp] theorem eng_taintIf (s : State) (u : Issue) (po : Bool) (e : Nat) :
    ((s.taintIf u po).core u.core.val).eng e = (s.core u.core.val).eng e := by
  cases po
  · rfl
  · exact eng_setCtx ..

/-- A read of the core store reports what it finds (R633). -/
theorem readStore_reports (s : State) (n f : Nat) : s.Reports (s.readStore n f).2 := by
  simp only [State.readStore]
  split
  · exact .refl s
  · exact .refl s
  · exact errRec_reports ..

theorem readMany_reports {rd : State → Nat → Delivered × State} (h : ∀ (s : State) f, s.Reports (rd s f).2) (s : State)
    (f k : Nat) : s.Reports (readMany rd s f k).s := by
  induction k generalizing s f with
  | zero => exact .refl s
  | succ k ih => exact (ih _ _).after (h s f)

theorem storeRead_reports (s : State) (n off len : Nat) : s.Reports (s.storeRead n off len).s :=
  readMany_reports (fun s f => readStore_reports s n f) s _ _

theorem State.Reports.core {s t : State} (h : s.Reports t) (n : Nat) : t.core n = s.core n :=
  congrArg (tabGetD · n Core.zero) h.kept.2.1

/-! The queues of an engine (R308, R310, R394). -/

/-- Whether the queue of an engine, or the one for work that waits apart, has room. -/
def Engine.hasRoom (g : Engine) (apart : Bool) : Prop := (if apart then g.backQ else g.queue).length < 8

/-- Whether decode work that such an operation belongs to waits for back-fill under way: any but EDR. -/
def EngOp.waitsForBackfill : EngOp → Bool
  | .edr .. => false
  | _ => true

/-- The state with an operation of an issue in a queue of an engine, which runs as far as it goes. -/
def State.engEntered (s : State) (u : Issue) (e : Nat) (apart : Bool) (op : EngOp) : State :=
  let n := u.core.val
  let g := (s.core n).eng e
  let h : Engine := if apart then { g with backQ := g.backQ ++ [op] } else
    { g with queue := g.queue ++ [op],
             bfSince := if u.ctx = .d ∧ op.waitsForBackfill = true ∧ g.backBusy = true ∧ g.bfSince = none then some s.time
               else g.bfSince }
  let w := s.setCore n ((s.core n).setEng e h)
  (if u.ctx = .d then w.endGap n else w).engRun n e

section
variable {s : State} {u : Issue} {e : Nat} {apart : Bool}

theorem engPush_room (h : ((s.core u.core.val).eng e).hasRoom apart) (op : EngOp) :
    s.engPush u e apart op = .next (s.engEntered u e apart op) := by
  unfold State.engPush State.engEntered
  rw [if_neg (Nat.not_le.mpr h)]
  cases op <;>
  simp only [EngOp.waitsForBackfill, Bool.and_eq_true, decide_eq_true_eq, Option.isNone_iff_eq_none, Bool.and_true,
    Bool.and_false, Bool.false_eq_true, true_and, false_and, and_false, and_assoc]

theorem engPush_full (h : ¬ ((s.core u.core.val).eng e).hasRoom apart) (op : EngOp) : s.engPush u e apart op = .stall :=
  if_pos (Nat.not_lt.mp h)

end

/-! What an issue does with the effect of its instruction. -/

/-- The state after an issue whose instruction has an effect. -/
def Eff.ends (s : State) (u : Issue) : Eff → State
  | .stall => s
  | .hold t => t
  | .fault t code => t.programFault u.core.val u.ctx code (s.at u).pc.toNat
  | .jump t p => t.afterIssue u p
  | .next t => t.afterIssue u (s.nextPc u)

theorem issue_ends {s : State} {u : Issue} {f : Fields} {use : Use} (h : s.canIssue u f use) (body : State → Eff) :
    s.issue u f use body = (body s).ends s u := by
  rw [issue_eq s u f use body h]
  cases body s <;> rfl

/-- Effects that leave an issue where it is: a program fault, with or without the poison of its operand taken in, or a hold. -/
inductive Eff.Blocked (s t : State) : Eff → Prop
  | fault (c : Nat) : Blocked s t (.fault s c)
  | fault_tainted (c : Nat) : Blocked s t (.fault t c)
  | stall : Blocked s t .stall

/-- An outcome of an issue that does not complete. -/
def State.staysAt (s : State) (u : Issue) (f : Fields) (o : Host.Outcome State Fault Refusal) : Prop :=
  let t := s.taintIf u ((s.at u).poisA f.srca.toNat)
  (∃ c : Nat, o = .next (s.programFault u.core.val u.ctx c (s.at u).pc.toNat)) ∨
    (∃ c : Nat, o = .next (t.programFault u.core.val u.ctx c (s.at u).pc.toNat)) ∨ o = .next s

section
variable {s t : State} {u : Issue} {e e' : Eff} {i : Instr}

theorem Eff.Blocked.ite {p : Prop} [Decidable p] (h : e.Blocked s t) (h' : e'.Blocked s t) :
    (if p then e else e').Blocked s t := by
  split <;> assumption

theorem exec_ends (hi : exec i s = .next (e.ends s u)) (he : e = e') : exec i s = .next (e'.ends s u) := he ▸ hi

theorem exec_blocked {f : Fields} (hi : exec i s = .next (e.ends s u))
    (h : e.Blocked s (s.taintIf u ((s.at u).poisA f.srca.toNat))) : s.staysAt u f (exec i s) := by
  cases h with
  | fault c => exact .inl ⟨c, hi⟩
  | fault_tainted c => exact .inr (.inl ⟨c, hi⟩)
  | stall => exact .inr (.inr hi)

end

/-- The core-store offset of ELD, with its offset of 20 bits. -/
theorem addrOf_low20 (x : Context) (f : Fields) :
    addrOf x f (immBits f 19 0) = (x.getA f.srca.toNat + (f.imm.setWidth 20).setWidth 64).toNat := by
  have hoff : BitVec.ofInt 64 (immBits f 19 0) = (f.imm.setWidth 20).setWidth 64 := by
    apply BitVec.eq_of_toNat_eq
    rw [immBits_eq]
    simp
    omega
  rw [addrOf, hoff]

theorem immBits_rows (f : Fields) : immBits f 31 25 = f.imm.toNat / 2 ^ 25 % 128 := immBits_eq f 31 25

/-! The instructions. -/

section
variable {u : Issue} {f : Fields} {s : State}

/-- ELD with its image in the core store (R408). -/
theorem exec_eld_image (h : s.issues (.eld u f)) (h32 : f.imm.getLsbD 32 = false) :
    exec (.eld u f) s =
      let n := u.core.val
      let back := s.apart n u.ctx (engOf f)
      let g := (s.core n).eng (engOf f)
      let rows := f.imm.toNat / 2 ^ 25 % 128 + 1
      let a := ((s.at u).getA f.srca.toNat + (f.imm.setWidth 20).setWidth 64).toNat
      let len := imageLen (g.cfgAfter back).afmt rows
      let t := s.taintIf u ((s.at u).poisA f.srca.toNat)
      .next (Eff.ends s u (
        if a % 64 ≠ 0 then .fault t fALIGN
        else if a + len > 0x100000 then .fault t fCSTORE
        else if (if back then g.backQ else g.queue).length ≥ 8 then .stall
        else (t.storeRead n a len).s.engPush u (engOf f) back (.eld u.ctx back rows (f.imm.getLsbD 24)
          (t.storeRead n a len).bytes (t.imageLanes n a len (g.cfgAfter back).afmt)))) := by
  refine (congrArg Host.Outcome.next (issue_ends h _)).trans ?_
  simp only [immBit, h32, Bool.false_eq_true, if_false, addrOf_low20, immBits_rows]

/-- ELD with a handle (R408, R419). -/
theorem exec_eld_handle (h : s.issues (.eld u f)) (h32 : f.imm.getLsbD 32 = true) :
    exec (.eld u f) s =
      let back := s.apart u.core.val u.ctx (engOf f)
      .next (Eff.ends s u (
        (s.handle u (f.imm.toNat / 2 ^ 20 % 16)).elim (.fault s fHANDLE) fun x =>
          if x.1.sending then .fault s fHANDLE
          else s.engPush u (engOf f) back
            (.eldStream u.ctx back (f.imm.toNat / 2 ^ 25 % 128 + 1) (f.imm.getLsbD 24) x.1.idx x.2))) := by
  refine (congrArg Host.Outcome.next (issue_ends h _)).trans ?_
  have hhandle : immBits f 23 20 = f.imm.toNat / 2 ^ 20 % 16 := immBits_eq f 23 20
  simp only [immBit, h32, if_true, immBits_rows, hhandle]
  cases s.handle u (f.imm.toNat / 2 ^ 20 % 16) <;> rfl

theorem exec_ews (h : s.issues (.ews u f)) :
    exec (.ews u f) s =
      let n := u.core.val
      let back := s.apart n u.ctx (engOf f)
      let cfg := ((s.core n).eng (engOf f)).cfgAfter back
      let rows := f.imm.toNat / 2 ^ 25 % 128 + 1
      let base := ((s.at u).getA f.srca.toNat).toNat
      let addr := base + f.imm.toNat % 65536 * 512
      let t := s.taintIf u ((s.at u).poisA f.srca.toNat)
      .next (Eff.ends s u (
        if base % 512 ≠ 0 then .fault t fALIGN
        else if cfg.hold = true ∧ rows ≠ 1 then .fault t fEWS
        else if addr + runLen cfg.wfmt rows > t.fieldLen n then .fault t fEWS
        else t.engPush u (engOf f) back (.ews u.ctx back (f.imm.getLsbD 32) rows addr))) := by
  refine (congrArg Host.Outcome.next (issue_ends h _)).trans ?_
  have hlow : immBits f 15 0 = f.imm.toNat % 65536 := by rw [immBits_eq]; simp
  simp only [immBit, immBits_rows, hlow, Bool.and_eq_true, decide_eq_true_eq]

theorem exec_edr (h : s.issues (.edr u f)) :
    exec (.edr u f) s =
      let n := u.core.val
      let x := s.at u
      let apart := decide (u.ctx = .p) && !((s.core n).eng (engOf f)).backQ.isEmpty
      .next (Eff.ends s u (
        if 60 < f.dst.toNat then .fault s fREG
        else if ((List.range 4).map (f.dst.toNat + ·)).any x.pendV.getLsbD then .stall
        else (s.setCtx n u.ctx { x with pendV := x.pendV ||| (15#64 <<< f.dst.toNat) }).engPush u (engOf f) apart
          (.edr u.ctx f.dst.toNat (x.getV f.srcb.toNat)))) := by
  refine (congrArg Host.Outcome.next (issue_ends h _)).trans ?_
  simp only [Bool.and_comm (!((s.core u.core.val).eng (engOf f)).backQ.isEmpty)]
  rfl

theorem exec_ecf (h : s.issues (.ecf u f)) :
    exec (.ecf u f) s =
      let w := f.imm.toNat / 2 ^ 30 % 8
      let a := f.imm.toNat / 2 ^ 28 % 4
      let apart := decide (u.ctx = .p) && !((s.core u.core.val).eng (engOf f)).backQ.isEmpty
      .next (Eff.ends s u (
        if w ≥ 4 ∨ a = 3 then .fault s fILL
        else s.engPush u (engOf f) apart (.ecf u.ctx
          { wfmt := BitVec.ofNat 3 w, afmt := BitVec.ofNat 2 a, hold := f.imm.getLsbD 27, biasc := f.imm.getLsbD 26 }))) := by
  refine (congrArg Host.Outcome.next (issue_ends h _)).trans ?_
  have hw : immBits f 32 30 = f.imm.toNat / 2 ^ 30 % 8 := immBits_eq f 32 30
  have ha : immBits f 29 28 = f.imm.toNat / 2 ^ 28 % 4 := immBits_eq f 29 28
  simp only [immBit, hw, ha,
    Bool.and_comm (!((s.core u.core.val).eng (engOf f)).backQ.isEmpty)]

end

/-! What they do with room in their queue. -/

section
variable {u : Issue} {f : Fields} {s : State}

section
variable (h : s.issues (.eld u f)) (hr : ((s.core u.core.val).eng (engOf f)).hasRoom (s.apart u.core.val u.ctx (engOf f)))
include h hr

theorem exec_eld_image_enters (h32 : f.imm.getLsbD 32 = false) :
    let n := u.core.val
    let back := s.apart n u.ctx (engOf f)
    let afmt := (((s.core n).eng (engOf f)).cfgAfter back).afmt
    let rows := f.imm.toNat / 2 ^ 25 % 128 + 1
    let a := ((s.at u).getA f.srca.toNat + (f.imm.setWidth 20).setWidth 64).toNat
    let t := s.taintIf u ((s.at u).poisA f.srca.toNat)
    let r := t.storeRead n a (imageLen afmt rows)
    a % 64 = 0 → a + imageLen afmt rows ≤ 0x100000 → exec (.eld u f) s =
      .next ((r.s.engEntered u (engOf f) back (.eld u.ctx back rows (f.imm.getLsbD 24) r.bytes
        (t.imageLanes n a (imageLen afmt rows) afmt))).afterIssue u (s.nextPc u)) := by
  intro n back afmt rows a t r ha hl
  have hroom : ((r.s.core n).eng (engOf f)).hasRoom back := by rwa [(storeRead_reports ..).core, eng_taintIf]
  exact exec_ends (exec_eld_image h h32) ((if_neg (not_not_intro ha)).trans ((if_neg (Nat.not_lt.mpr hl)).trans
    ((if_neg (Nat.not_le.mpr hr)).trans (engPush_room hroom _))))

theorem exec_eld_handle_enters (h32 : f.imm.getLsbD 32 = true) {y : StreamEnd} {last : Bool}
    (hh : s.handle u (f.imm.toNat / 2 ^ 20 % 16) = some (y, last)) (hs : y.sending = false) :
    exec (.eld u f) s =
      let back := s.apart u.core.val u.ctx (engOf f)
      .next ((s.engEntered u (engOf f) back (.eldStream u.ctx back (f.imm.toNat / 2 ^ 25 % 128 + 1) (f.imm.getLsbD 24)
        y.idx last)).afterIssue u (s.nextPc u)) := by
  refine (exec_eld_handle h h32).trans (congrArg Host.Outcome.next ?_)
  rw [hh, Option.elim_some, if_neg (Bool.eq_false_iff.mp hs), engPush_room hr]
  rfl

end

theorem exec_ews_enters (h : s.issues (.ews u f))
    (hr : ((s.core u.core.val).eng (engOf f)).hasRoom (s.apart u.core.val u.ctx (engOf f))) :
    let n := u.core.val
    let back := s.apart n u.ctx (engOf f)
    let cfg := ((s.core n).eng (engOf f)).cfgAfter back
    let rows := f.imm.toNat / 2 ^ 25 % 128 + 1
    let base := ((s.at u).getA f.srca.toNat).toNat
    let addr := base + f.imm.toNat % 65536 * 512
    let t := s.taintIf u ((s.at u).poisA f.srca.toNat)
    base % 512 = 0 → (cfg.hold = true → rows = 1) → addr + runLen cfg.wfmt rows ≤ t.fieldLen n → exec (.ews u f) s =
      .next ((t.engEntered u (engOf f) back (.ews u.ctx back (f.imm.getLsbD 32) rows addr)).afterIssue u (s.nextPc u)) := by
  intro n back cfg rows base addr t hb ht hl
  have hroom : ((t.core n).eng (engOf f)).hasRoom back := by rwa [eng_taintIf]
  exact exec_ends (exec_ews h) ((if_neg (not_not_intro hb)).trans ((if_neg fun hc => hc.2 (ht hc.1)).trans
    ((if_neg (Nat.not_lt.mpr hl)).trans (engPush_room hroom _))))

theorem exec_edr_enters (h : s.issues (.edr u f))
    (hr : ((s.core u.core.val).eng (engOf f)).hasRoom
      (decide (u.ctx = .p) && !((s.core u.core.val).eng (engOf f)).backQ.isEmpty))
    (hd : f.dst.toNat ≤ 60) (hp : ∀ k, k < 4 → (s.at u).pendV.getLsbD (f.dst.toNat + k) = false) :
    exec (.edr u f) s =
      let n := u.core.val
      let x := s.at u
      .next (((s.setCtx n u.ctx { x with pendV := x.pendV ||| (15#64 <<< f.dst.toNat) }).engEntered u (engOf f)
        (decide (u.ctx = .p) && !((s.core n).eng (engOf f)).backQ.isEmpty)
        (.edr u.ctx f.dst.toNat (x.getV f.srcb.toNat))).afterIssue u (s.nextPc u)) := by
  have hfree : ¬ ((List.range 4).map (f.dst.toNat + ·)).any (s.at u).pendV.getLsbD = true := by simpa using hp
  refine exec_ends (exec_edr h) ((if_neg (Nat.not_lt.mpr hd)).trans ((if_neg hfree).trans (engPush_room ?_ _)))
  rwa [eng_setCtx]

/-! What they do while their queue is full. -/

theorem engPush_blocked {t w : State} {e : Nat} {apart : Bool} (he : (t.core u.core.val).eng e = (s.core u.core.val).eng e)
    (hr : ¬ ((s.core u.core.val).eng e).hasRoom apart) (op : EngOp) : (t.engPush u e apart op).Blocked s w := by
  rw [engPush_full (by rwa [he])]
  exact .stall

theorem exec_eld_full (h : s.issues (.eld u f))
    (hr : ¬ ((s.core u.core.val).eng (engOf f)).hasRoom (s.apart u.core.val u.ctx (engOf f))) :
    s.staysAt u f (exec (.eld u f) s) := by
  cases h32 : f.imm.getLsbD 32
  · refine exec_blocked (exec_eld_image h h32) (.ite (.fault_tainted _) (.ite (.fault_tainted _) ?_))
    rw [if_pos (Nat.not_lt.mp hr)]
    exact .stall
  · refine exec_blocked (exec_eld_handle h h32) ?_
    cases s.handle u (f.imm.toNat / 2 ^ 20 % 16)
    · exact .fault _
    · exact .ite (.fault _) (engPush_blocked rfl hr _)

theorem exec_ews_full (h : s.issues (.ews u f))
    (hr : ¬ ((s.core u.core.val).eng (engOf f)).hasRoom (s.apart u.core.val u.ctx (engOf f))) :
    s.staysAt u f (exec (.ews u f) s) :=
  exec_blocked (exec_ews h) (.ite (.fault_tainted _) (.ite (.fault_tainted _) (.ite (.fault_tainted _)
    (engPush_blocked (eng_taintIf ..) hr _))))

section
variable (hr : ¬ ((s.core u.core.val).eng (engOf f)).hasRoom
  (decide (u.ctx = .p) && !((s.core u.core.val).eng (engOf f)).backQ.isEmpty))
include hr

theorem exec_edr_full (h : s.issues (.edr u f)) : s.staysAt u f (exec (.edr u f) s) :=
  exec_blocked (exec_edr h) (.ite (.fault _) (.ite .stall (engPush_blocked (eng_setCtx ..) hr _)))

theorem exec_ecf_full (h : s.issues (.ecf u f)) : s.staysAt u f (exec (.ecf u f) s) :=
  exec_blocked (exec_ecf h) (.ite (.fault _) (engPush_blocked rfl hr _))

end

end

/-- Settles O27: each issue does what its instruction's equation says; reads of the core store and the mark of a poisoned
address leave the engines as they are, so the room that the issue finds is the room that its operation finds. -/
theorem engineInstructionsEnterTheirQueue : Obligations.EngineInstructionsEnterTheirQueue := by
  unfold Obligations.EngineInstructionsEnterTheirQueue
  refine ⟨fun u f s => ⟨exec_eld_image_enters, ?handle, exec_ews_enters, exec_edr_enters, ?ecf, ?full⟩,
    fun u f s => ⟨?imageFault, ?unbound, ?ewsFault, ?edrFault, ?ecfFault⟩⟩
  case handle => exact fun h hr h32 y last => exec_eld_handle_enters h hr h32
  case ecf =>
    exact fun h hr hw ha => exec_ends (exec_ecf h) ((if_neg (by omega)).trans (engPush_room hr _))
  case imageFault =>
    exact fun h h32 => ⟨fun ha => exec_ends (exec_eld_image h h32) (if_pos ha),
      fun ha hl => exec_ends (exec_eld_image h h32) ((if_neg (not_not_intro ha)).trans (if_pos hl))⟩
  case unbound => exact fun h h32 hh => exec_ends (e' := .fault s fHANDLE) (exec_eld_handle h h32) (by rw [hh]; rfl)
  case ewsFault =>
    exact fun h => ⟨fun hb => exec_ends (exec_ews h) (if_pos hb),
      fun hb hh ht => exec_ends (exec_ews h) ((if_neg (not_not_intro hb)).trans (if_pos ⟨hh, ht⟩)),
      fun hb ht hl => exec_ends (exec_ews h) ((if_neg (not_not_intro hb)).trans
        ((if_neg fun hc => hc.2 (ht hc.1)).trans (if_pos hl)))⟩
  case edrFault => exact fun h hd => exec_ends (exec_edr h) (if_pos hd)
  case ecfFault => exact fun h hc => exec_ends (exec_ecf h) (if_pos hc)
  case full =>
    intro i q hi h hr
    simp only [List.mem_cons, List.not_mem_nil, or_false, Prod.mk.injEq] at hi
    obtain ⟨rfl, rfl⟩ | ⟨rfl, rfl⟩ | ⟨rfl, rfl⟩ | ⟨rfl, rfl⟩ := hi
    · exact exec_eld_full h hr
    · exact exec_ews_full h hr
    · exact exec_edr_full hr h
    · exact exec_ecf_full hr h

end Sys2Proof.Machine
end

section
/-!
PROOFS. Planes and tiles of an engine: how a plane enters, a beat is read again, and a tile combines and retires (R63 to R84).
-/
namespace Sys2Proof.Machine

/-! What a failing beat marks (R158, R165). -/

theorem carried_keeps (s : State) (l : List Nat) (beat : Nat) : (s.carried l beat).mem = s.mem ∧
    (s.carried l beat).cores = s.cores ∧ (s.carried l beat).regs = s.regs := by
  unfold State.carried
  induction l generalizing s with
  | nil => exact ⟨rfl, rfl, rfl⟩
  | cons g l ih =>
    obtain ⟨hmem, hcores, hregs⟩ := ih _
    rw [List.foldl_cons, hmem, hcores, hregs]
    dsimp only
    split <;> exact ⟨rfl, rfl, rfl⟩

/-- A beat that fails is noted with its groups, a second time in its churn also for its row; memory, cores and registers stay. -/
theorem failing_beat_keeps (s : State) (n off : Nat) (l : List Nat) (beat : Nat) :
    let t := (s.failsAgain n off).carried l beat
    t.mem = s.mem ∧ t.cores = s.cores ∧ t.regs = s.regs := by
  obtain ⟨hmem, hcores, hregs⟩ := carried_keeps (s.failsAgain n off) l beat
  dsimp only
  rw [hmem, hcores, hregs]
  unfold State.failsAgain
  split <;> exact ⟨rfl, rfl, rfl⟩

/-! Bytes that fail parity. -/

theorem memByte_unlisted {m : Memory} {a : Nat} (h : ∀ c ∈ m, c.1 ≠ a) : memByte m a = 0#8 := by
  simpa [memByte] using memByte_append_right [] h

theorem memByte_of_no_cells {m : Memory} {lo hi a : Nat} (h : (memCells m lo hi).isEmpty = true) (h1 : lo ≤ a) (h2 : a < hi) :
    memByte m a = 0#8 := by
  refine memByte_unlisted fun c hc he => ?_
  rw [List.isEmpty_iff, memCells, List.filter_eq_nil_iff] at h
  exact h c hc (by simp [he, h1, h2])

/-- The places that fail parity are those of the bytes that do. -/
theorem mem_badBytes {st : Store} {a n i : Nat} : i ∈ st.badBytes a n ↔ i < n ∧ st.byteFails (a + i) = true := by
  unfold Store.badBytes
  split
  next h =>
    obtain ⟨hflips, hchk⟩ := Bool.and_eq_true_iff.mp h
    refine iff_of_false List.not_mem_nil fun ⟨hi, hf⟩ => ?_
    rw [Store.byteFails, memByte_of_no_cells hflips (by omega) (by omega), memByte_of_no_cells hchk (by omega) (by omega)] at hf
    exact absurd hf (by decide)
  next => simp

theorem badBytes_eq_nil {st : Store} {a n : Nat} : st.badBytes a n = [] ↔ ∀ i, i < n → st.byteFails (a + i) = false := by
  simp only [List.eq_nil_iff_forall_not_mem, mem_badBytes, not_and, Bool.not_eq_true]

/-! Prefill (R64, R66, R76). -/

/-- A read of the V-port reports an armed flip, if it takes one (R686). -/
theorem vportRead_reports (s : State) (n e addr len : Nat) : s.Reports (s.vportRead n e addr len).2 := by
  unfold State.vportRead
  split
  · exact .refl s
  · exact flipDone_reports ..

theorem vportRead_no_flip {s : State} {n e : Nat} (h : s.vportFlip n e = none) (addr len : Nat) :
    s.vportRead n e addr len =
      ((s.mem.read (fieldKey n addr) len, s.mem.badBytes (fieldKey n addr) len), s) := by
  simp only [State.vportRead, h, ite_self]

/-- A run but for how far its planes have been fetched. -/
def Run.unfetched (r : Run) : Run := { r with fetched := Vector.replicate 32 0 }

theorem updateFirst_map {α β : Type} {p : α → Bool} {f : α → α} {g : α → β} (h : ∀ x, g (f x) = g x)
    (l : List α) : (updateFirst p f l).map g = l.map g := by
  induction l with
  | nil => rfl
  | cons x l ih =>
    unfold updateFirst
    split
    · rw [List.map_cons, List.map_cons, h]
    · rw [List.map_cons, List.map_cons, ih]

/-- y is x after feeders have fetched planes. -/
structure Prefilled (x y : Engine × State) : Prop where
  engine : y.1 = { x.1 with feeders := y.1.feeders, runs := y.1.runs }
  runs : y.1.runs.map Run.unfetched = x.1.runs.map Run.unfetched
  state : x.2.Reports y.2

namespace Prefilled

theorem refl (x : Engine × State) : Prefilled x x := ⟨rfl, rfl, .refl _⟩

theorem trans {x y z : Engine × State} (h : Prefilled x y) (h' : Prefilled y z) : Prefilled x z :=
  ⟨h'.engine.trans (by rw [h.engine]), h'.runs.trans h.runs, h'.state.after h.state⟩

theorem keeps {x y : Engine × State} (h : Prefilled x y) :
    y.1.tiles = x.1.tiles ∧ y.1.act = x.1.act ∧ y.1.bank = x.1.bank ∧ y.1.link = x.1.link := by
  rw [h.engine]
  exact ⟨rfl, rfl, rfl, rfl⟩

/-- The first run keeps all but its count of fetched planes. -/
theorem head {x y : Engine × State} (h : Prefilled x y) {r : Run} {rs : List Run} (hr : x.1.runs = r :: rs) :
    ∃ r' rs', y.1.runs = r' :: rs' ∧ r'.entered = r.entered ∧ r'.t = r.t ∧ r'.addr = r.addr := by
  have hruns := h.runs
  rw [hr, List.map_cons] at hruns
  obtain ⟨r', rs', hy, hr', -⟩ := List.map_eq_cons_iff.mp hruns
  exact ⟨r', rs', hy, (congrArg Run.entered hr' :), (congrArg Run.t hr' :), (congrArg Run.addr hr' :)⟩

end Prefilled

theorem fillGroup_prefilled (n e : Nat) (g : Fin 32) (k : Nat) (x : Engine × State) : Prefilled x (fillGroup n e g k x) := by
  induction k generalizing x with
  | zero => exact .refl x
  | succ k ih =>
    unfold fillGroup
    dsimp only
    split
    · exact .refl x
    · split
      · exact .refl x
      · refine Prefilled.trans (y := (_, _)) ⟨rfl, ?_, ?_⟩ (ih _)
        · apply updateFirst_map
          exact fun _ => rfl
        · exact vportRead_reports ..

/-! A plane enters (R67, R76 to R83). -/

section
variable (eng : Engine) (r : Run) (g : Fin 32) (k p : Nat)

/-- Whether an open tile k takes plane p of row group g next. -/
def takesPlane (x : Tile) : Bool := decide (x.idx = k) && x.result.isNone && decide (x.entered[g] = p)

/-- A tile after plane p of row group g has entered it: each accumulator of its block takes its partial sum. -/
def Engine.afterPlane (bytes : Array Byte) (bad : Bool) (x : Tile) : Tile :=
  let blk : Nat := if g.val < 16 then 0 else 256
  { x with
    entered := x.entered.set g (p + 1),
    pois := x.pois ||| eng.poisL ||| (if bad then 255#8 else 0#8),
    acc := Vector.ofFn fun i : Fin 512 => if blk ≤ i.val ∧ i.val < blk + 256 then
      (sat32 (x.acc[i].toInt + eng.partialSum r bytes g.val k p ((i.val - blk) / 32) (i.val % 32))).1 else x.acc[i] }

variable (bytes : Array Byte) (bad : Bool)

theorem enterPlane_eq : eng.enterPlane r g k p bytes bad =
    { eng with tiles := updateFirst (takesPlane g k p) (eng.afterPlane r g k p bytes bad)
                 (if eng.tiles.any (takesPlane g k p) then eng.tiles else eng.tiles ++ [eng.newTile r k]) } := by
  have hblk : (if 4 * g.val < 64 then 0 else 256) = if g.val < 16 then 0 else 256 := by
    congr 1
    exact propext (by omega)
  unfold Engine.enterPlane
  rw [hblk]
  rfl

theorem enterPlane_tiles_open (h : ∃ x ∈ eng.tiles, takesPlane g k p x = true) :
    (eng.enterPlane r g k p bytes bad).tiles =
      updateFirst (takesPlane g k p) (eng.afterPlane r g k p bytes bad) eng.tiles := by
  rw [enterPlane_eq, if_pos (List.any_eq_true.mpr h)]

theorem enterPlane_tiles_new (h : ∀ x ∈ eng.tiles, takesPlane g k p x = false) :
    (eng.enterPlane r g k p bytes bad).tiles =
      updateFirst (takesPlane g k p) (eng.afterPlane r g k p bytes bad) (eng.tiles ++ [eng.newTile r k]) := by
  rw [enterPlane_eq, if_neg (by simpa using h)]

end

/-- A run after row group g has entered one more plane. -/
def Run.entering (r : Run) (g : Fin 32) : Run := { r with entered := r.entered.set g (r.entered[g] + 1) }

/-- The engine as row group g has taken plane b of its run r, which is not its last, before its feeder fetches on. -/
def Engine.taking (eng : Engine) (r : Run) (g : Fin 32) (b : PlaneBuf) : Engine :=
  let m := r.entered[g]
  { eng.enterPlane r g (m / r.planes) (m % r.planes) b.bytes.toArray (b.asRead && !b.bad.isEmpty) with
    runs := r.entering g :: eng.runs.tail, feeders := eng.feeders.set g (eng.feeders[g].used (r.entering g) m) }

/-- A plane enters whose row group has no failing cells and whose run goes on. -/
theorem enter_goes_on {s : State} {n e : Nat} {g : Fin 32} {r : Run} (b : PlaneBuf)
    (hb : ((s.core n).eng e).badLanes g.val = 0#8) (hd : (r.entering g).slowest ≠ r.t * r.planes) :
    ∃ x, Prefilled (((s.core n).eng e).taking r g b, s) x ∧ s.enter n e g r b =
      (x.2.setCore n ((x.2.core n).setEng e x.1)).skewSeen n e ((r.entering g).fastest - (r.entering g).slowest) := by
  refine ⟨_, fillGroup_prefilled n e g 2 _, ?_⟩
  have hend : decide ((r.entering g).slowest = r.t * r.planes) = false := decide_eq_false hd
  unfold Run.entering at hend
  simp only [State.enter, hb, BitVec.or_zero, hend, Bool.false_eq_true, if_false, if_true, List.singleton_append]
  rfl

theorem skewSeen_reports (s : State) (n e skew : Nat) : s.Reports (s.skewSeen n e skew) :=
  .ite (.setField (.refl s) ..) (.refl s)

/-- What a plane that enters leaves: its sums are in the tiles, its run goes on; activations, bank, links and memory stay. -/
theorem enter_effect {s : State} {n e : Nat} {g : Fin 32} {r : Run} (b : PlaneBuf)
    (hb : ((s.core n).eng e).badLanes g.val = 0#8) (hd : (r.entering g).slowest ≠ r.t * r.planes) :
    let eng := (s.core n).eng e
    let m := r.entered[g]
    let t := s.enter n e g r b
    let eng' := (t.core n).eng e
    eng'.tiles = (eng.enterPlane r g (m / r.planes) (m % r.planes) b.bytes.toArray (b.asRead && !b.bad.isEmpty)).tiles ∧
    (∃ y ys, eng'.runs = y :: ys ∧ y.entered = (r.entering g).entered ∧ y.t = r.t ∧ y.addr = r.addr) ∧
    eng'.act = eng.act ∧ eng'.bank = eng.bank ∧ eng'.link = eng.link ∧ t.mem = s.mem := by
  obtain ⟨x, hx, ht⟩ := enter_goes_on b hb hd
  have hskew := skewSeen_reports (x.2.setCore n ((x.2.core n).setEng e x.1)) n e
    ((r.entering g).fastest - (r.entering g).slowest)
  have heng : ((s.enter n e g r b).core n).eng e = x.1 := by
    rw [ht, hskew.core, core_setCore_same, Core.eng_setEng_same]
  have hmem : (s.enter n e g r b).mem = s.mem := by
    rw [ht, hskew.kept.1]
    exact hx.state.kept.1
  obtain ⟨htiles, hact, hbank, hlink⟩ := hx.keeps
  dsimp only
  rw [heng]
  exact ⟨htiles, hx.head rfl, hact, hbank, hlink, hmem⟩

/-! PLANE_ENTRY (R76, R81). -/

section
variable {s : State} {n e : Nat} {g : Fin 32} {r : Run} {rs : List Run} {b : PlaneBuf} {bs : List PlaneBuf}
  (hr : ((s.core n).eng e).runs = r :: rs) (hb : ((s.core n).eng e).feeders[g].buf = b :: bs)
  (hm : ((s.core n).eng e).mayEnter r g = true)
include hr hb hm

theorem tryEnter_enters (h : b.bad = [] ∨ b.asRead = true) : s.tryEnter n e g = s.enter n e g r b := by
  simp only [State.tryEnter, hr, hb, hm, List.head?_cons, Bool.not_true, Bool.false_eq_true, if_false]
  exact if_pos (by rcases h with h | h <;> simp [h])

/-- A plane that fails parity is read again: its feeder waits for that, and DETECTED is set. -/
theorem tryEnter_rereads (h : b.bad ≠ []) (ha : b.asRead = false) : ∃ t : State, s.tryEnter n e g = t ∧ t.mem = s.mem ∧
    (t.core n).eng e = { (s.core n).eng e with
      feeders := ((s.core n).eng e).feeders.set g { ((s.core n).eng e).feeders[g] with hold := .reread } } ∧
    t.bit (offENG n e + 8) 17 = true := by
  simp only [State.tryEnter, hr, hb, hm, ha, List.head?_cons, Bool.not_true, Bool.false_eq_true, if_false, Bool.or_false,
    List.isEmpty_iff, h]
  refine ⟨_, rfl, ?_⟩
  obtain ⟨hmem, hcores, hregs⟩ := failing_beat_keeps _ n b.addr _ _
  refine ⟨hmem, ?_, ?_⟩
  · rw [State.core, hcores]
    exact (congrArg (Core.eng · e) (core_setCore_same ..)).trans (Core.eng_setEng_same ..)
  · rw [State.bit, State.reg, hregs]
    exact bit_setBit_same _ (offENG n e + 8) 17 (by decide)

end

theorem exec_planeEntry {n : Fin 624} {e : Fin 2} {g : Fin 32} {s : State} (hl : s.coreLive n.val = true) :
    exec (.planeEntry n e g) s = .next (s.tryEnter n.val e.val g) :=
  congrArg Host.Outcome.next (if_pos hl)

/-! WEIGHT_REREAD (R81, R82). -/

section
variable {n : Fin 624} {e : Fin 2} {g : Fin 32} {s : State} {b : PlaneBuf} {rest : List PlaneBuf}

/-- The state u with the beat at the head of a feeder as the field of s holds it. -/
def State.reread (s u : State) (n e : Nat) (g : Fin 32) (b : PlaneBuf) (rest : List PlaneBuf) (h : Hold)
    (asRead : Bool) : State :=
  let eng := (s.core n).eng e
  let key := fieldKey n b.addr
  u.setCore n ((u.core n).setEng e { eng with
    feeders := eng.feeders.set g { hold := h, buf := { b with
      bytes := s.mem.read key b.bytes.length, bad := s.mem.badBytes key b.bytes.length, asRead := asRead } :: rest } })

variable (hl : s.coreLive n.val = true) (hh : ((s.core n.val).eng e.val).feeders[g].hold = .reread)
  (hb : ((s.core n.val).eng e.val).feeders[g].buf = b :: rest) (hf : s.vportFlip n.val e.val = none)
include hl hh hb hf

theorem exec_weightReread : exec (.weightReread n e g) s =
    let n := n.val
    let sus := s.suspect (s.vportOf n e.val b.addr [g.val])
    .next (
      if s.mem.badBytes (fieldKey n b.addr) b.bytes.length = [] then
        ((s.reread s n e.val g b rest .ready false).errRec 5 1 (posUnit 2 n e.val) b.addr).tryEnter n e.val g
      else if (sus.backAt n b.addr).isSome then s.reread sus n e.val g b rest .restore false
      else ((s.reread sus n e.val g b rest .ready true).errRec 5 3 (posUnit 2 n e.val) b.addr).tryEnter n e.val g) := by
  show execWeightReread n e g s = _
  simp only [execWeightReread, hl, hh, hb, vportRead_no_flip hf, ne_eq, not_true_eq_false, decide_false, Bool.not_true,
    Bool.or_self, Bool.false_eq_true, if_false, List.isEmpty_iff]
  rfl

end

/-! Combine (R68 to R73, R84). -/

theorem countErrs_reports (s : State) (bank idx k : Nat) : s.Reports (s.countErrs bank idx k) := by
  induction k generalizing s with
  | zero => exact .refl s
  | succ k ih => exact (ih _).after (countErr_reports ..)

theorem engSat_reports (s : State) (n e k : Nat) : s.Reports (s.engSat n e k) :=
  .ite (.refl s) ((countErrs_reports ..).after (.setBit (.refl s) ..))

/-- The columns of a tile as its combine looks them up. -/
def Tile.columnOf (x : Tile) (i : Nat) : BitVec 32 × Nat × Nat := ((List.range 256).map x.column).toArray.getD i (0#32, 0, 0)

theorem getD_toArray_range {α : Type} (f : Nat → α) (d : α) (i : Fin 256) :
    ((List.range 256).map f).toArray.getD i.val d = f i := by
  simp [Array.getD]

theorem Tile.columnOf_eq (x : Tile) (i : Fin 256) : x.columnOf i.val = x.column i.val := getD_toArray_range ..

/-- The results of a tile's columns. -/
def Tile.results (x : Tile) : Vector ColVal 256 :=
  Vector.ofFn fun i : Fin 256 => { c := (x.column i.val).1, m := BitVec.ofNat 9 (x.column i.val).2.1 }

/-- The hold bank of an engine with the columns of a tile added. -/
def Engine.bankWith (eng : Engine) (x : Tile) : Vector ColVal 256 :=
  Vector.ofFn fun i : Fin 256 =>
    let old : ColVal := if x.fresh then { c := 0#32, m := 0x1FF#9 } else eng.bank[i]
    let v := alignAdd old.c old.m.toNat (x.column i.val).1 (x.column i.val).2.1
    { c := v.1, m := BitVec.ofNat 9 v.2.1 }

/-- An engine with a HOLD tile added into its bank. -/
def Engine.holding (eng : Engine) (x : Tile) : Engine :=
  { eng with bank := eng.bankWith x, bankLam := x.lam, bankPois := (if x.fresh then 0#8 else eng.bankPois) ||| x.pois,
             tiles := eng.tiles.filter fun y => decide (y ≠ x), edr := eng.edr.map fun y => { y with before := y.before - 1 } }

theorem Engine.bank_getD (eng : Engine) (d : ColVal) (i : Fin 256) : eng.bank.toList.getD i.val d = eng.bank[i] := by
  simp [List.getD]

theorem Engine.clearBank_bank (eng : Engine) (i : Fin 256) : eng.clearBank.bank[i] = { c := 0#32, m := 0x1FF#9 } := by
  simp [Engine.clearBank, emptyBank]

theorem addHold_eq (eng : Engine) (x : Tile) : (eng.addHold x x.columnOf).1 = eng.holding x := by
  unfold Engine.addHold Engine.holding Engine.bankWith
  simp only [getD_toArray_range, Engine.bank_getD, Tile.columnOf_eq]
  cases x.fresh
  · rfl
  · simp only [if_true, Engine.clearBank_bank]
    rfl

section
variable {n : Fin 624} {e : Fin 2} {s : State} {x : Tile} (hl : s.coreLive n.val = true)
  (hx : ((s.core n.val).eng e.val).tiles.find? Tile.complete = some x)
include hl hx

theorem exec_tileCombine_plain (hh : x.hold = false) : ∃ k, exec (.tileCombine n e) s = .next
    ((s.setCore n.val ((s.core n.val).setEng e.val { (s.core n.val).eng e.val with
      tiles := updateFirst Tile.complete (fun y => { y with result := some x.results })
        ((s.core n.val).eng e.val).tiles })).engSat n.val e.val k) := by
  refine ⟨total (((List.range 256).map x.column).map fun c => c.2.2), ?_⟩
  show execTileCombine n e s = _
  simp only [execTileCombine, hl, hx, hh, getD_toArray_range, Bool.not_true, Bool.false_eq_true, if_false]
  rfl

theorem exec_tileCombine_waits (hh : x.hold = true) {y : EdrRt} (hy : ((s.core n.val).eng e.val).edr = some y)
    (hb : y.before = 0) : exec (.tileCombine n e) s = .next s := by
  show execTileCombine n e s = _
  simp only [execTileCombine, hl, hx, hh, hy, hb, Option.any_some, decide_true, Bool.not_true, Bool.false_eq_true, if_false,
    if_true]

theorem exec_tileCombine_holds (hh : x.hold = true) (hy : ∀ y, ((s.core n.val).eng e.val).edr = some y → y.before ≠ 0) :
    ∃ k, exec (.tileCombine n e) s = .next (((s.setCore n.val ((s.core n.val).setEng e.val
      (((s.core n.val).eng e.val).holding x))).engSat n.val e.val k).engAfter n.val e.val) := by
  have hedr : (((s.core n.val).eng e.val).edr.any fun x => decide (x.before = 0)) = false := by
    rw [Bool.eq_false_iff]
    intro hc
    obtain ⟨y, he, hz⟩ := (Option.any_eq_true _ _).mp hc
    exact hy y he (of_decide_eq_true hz)
  rw [← addHold_eq]
  refine ⟨total (((List.range 256).map x.column).map fun c => c.2.2) +
    (((s.core n.val).eng e.val).addHold x x.columnOf).2, ?_⟩
  show execTileCombine n e s = _
  simp only [execTileCombine, hl, hx, hh, hedr, Bool.not_true, Bool.false_eq_true, if_false, if_true]
  rfl

end

/-! Retire (R70, R71, R78). -/

/-- An engine whose column group cg retires tile x, the first that it has not retired. -/
def Engine.retiring (eng : Engine) (cg : Fin 8) (x : Tile) : Engine :=
  let ready (y : Tile) : Bool := !y.retired.getLsbD cg.val
  { eng with
    tiles := (updateFirst ready (fun y => { y with retired := y.retired ||| BitVec.twoPow 8 cg.val }) eng.tiles).filter
      fun y => decide (y.retired ≠ 255#8),
    credits := eng.credits.set cg (eng.credits[cg] - 1), link := eng.link.set cg (eng.link[cg] ++ [x.packet cg]) }

theorem exec_tileRetire {n : Fin 624} {e : Fin 2} {cg : Fin 8} {s : State} {x : Tile} (hl : s.coreLive n.val = true)
    (hx : ((s.core n.val).eng e.val).tiles.find? (fun y => !y.retired.getLsbD cg.val) = some x) (hr : x.result.isSome = true)
    (hc : ((s.core n.val).eng e.val).credits[cg] ≠ 0) :
    exec (.tileRetire n e cg) s = .next ((s.setCore n.val ((s.core n.val).setEng e.val
      (((s.core n.val).eng e.val).retiring cg x))).engAfter n.val e.val) := by
  show execTileRetire n e cg s = _
  simp only [execTileRetire, hl, hx, hc, Option.isNone_eq_false_iff.mpr hr, decide_false, Bool.not_true, Bool.or_self,
    Bool.false_eq_true, if_false]
  rfl

/-- One credit goes, the part is on the link, the other column groups and the bank stay, and no tile is left that every column
group has retired. -/
theorem Engine.retiring_effect (eng : Engine) {cg : Fin 8} (x : Tile) (hc : eng.credits[cg] ≠ 0) :
    let g := eng.retiring cg x
    g.credits[cg] + 1 = eng.credits[cg] ∧ g.link[cg] = eng.link[cg] ++ [x.packet cg] ∧
      (∀ c : Fin 8, c ≠ cg → g.credits[c] = eng.credits[c] ∧ g.link[c] = eng.link[c]) ∧ g.bank = eng.bank ∧
      (∀ y ∈ g.tiles, y.retired ≠ 255#8) := by
  refine ⟨?_, ?_, fun c hne => ?_, rfl, fun y hy => ?_⟩
  · have hset : (eng.retiring cg x).credits[cg] = eng.credits[cg] - 1 := by simp [Engine.retiring]
    omega
  · simp [Engine.retiring]
  · have hval : cg.val ≠ c.val := fun h => hne (Fin.ext h.symm)
    simp [Engine.retiring, Vector.getElem_set_ne, hval]
  · exact of_decide_eq_true (List.mem_filter.mp hy).2

/-- Settles O48: each event by what its engine does. A plane that enters changes its tile and its run; what follows it in the same
step, prefill and the largest skew, leaves the tiles, and of the run all but the count of fetched planes. -/
theorem enginePlaneAndTileEvents : Obligations.EnginePlaneAndTileEvents := by
  unfold Obligations.EnginePlaneAndTileEvents
  refine ⟨?entry, ?enter, ?tiles, ?reread, ?combine, ?retire⟩
  case entry =>
    intro n e g s r rs b bs eng hl hr hb hm
    rw [exec_planeEntry hl]
    refine ⟨fun h => congrArg _ (tryEnter_enters hr hb hm h), fun h ha => ?_⟩
    obtain ⟨t, ht, hmem, heng, hbit⟩ := tryEnter_rereads hr hb hm h ha
    refine ⟨t, congrArg _ ht, hmem, ?_, ?_, hbit⟩
    · rw [heng]
      exact Vector.getElem_set_self ..
    · rw [heng]
  case enter => exact fun n e g s r rs b _ hb hd => enter_effect b hb hd
  case tiles =>
    exact fun eng r g k p bytes bad =>
      ⟨enterPlane_tiles_open eng r g k p bytes bad, enterPlane_tiles_new eng r g k p bytes bad⟩
  case reread =>
    intro n e g s b rest hl eng hh hb hf key len bad sus fed
    rw [exec_weightReread hl hh hb hf]
    refine ⟨fun h => ?_, fun h => ?_⟩
    · exact congrArg _ (if_pos (badBytes_eq_nil.mpr h))
    · obtain ⟨i, hi, hfail⟩ := h
      have hbad : s.mem.badBytes key len ≠ [] := List.ne_nil_of_mem (mem_badBytes.mpr ⟨hi, hfail⟩)
      refine ⟨fun h => ?_, fun h => ?_⟩
      · exact congrArg _ ((if_neg hbad).trans (if_pos h))
      · exact congrArg _ ((if_neg hbad).trans (if_neg (by rw [h]; exact Bool.false_ne_true)))
  case combine =>
    intro n e s x hl eng hx
    refine ⟨fun hh => ?_, fun hh ⟨y, hy, hb⟩ => exec_tileCombine_waits hl hx hh hy hb, fun hh hy => ?_⟩
    · obtain ⟨k, hk⟩ := exec_tileCombine_plain hl hx hh
      have hkept := (engSat_reports (s.setCore n.val ((s.core n.val).setEng e.val { eng with
        tiles := updateFirst Tile.complete (fun y => { y with result := some x.results }) eng.tiles })) n.val e.val k)
      refine ⟨_, x.results, hk, hkept.kept.1, ?_, fun i => ?_⟩
      · rw [hkept.core, core_setCore_same, Core.eng_setEng_same]
      · simp [Tile.results]
    · obtain ⟨k, hk⟩ := exec_tileCombine_holds hl hx hh hy
      exact ⟨eng.bankWith x, k, hk, fun i => by simp [Engine.bankWith]⟩
  case retire =>
    intro n e cg s x hl eng hx hr hc
    exact ⟨_, exec_tileRetire hl hx hr hc, eng.retiring_effect x hc⟩

end Sys2Proof.Machine
end

section
/-!
PROOFS. Registers of a context after one of them is written, what a vector instruction leaves unchanged, special registers,
element-wise instructions and reductions (R112, R117, R379, R383, R396 to R398, R406, R762, R808).
-/
namespace Sys2Proof.Machine

/-! Registers of a context (R379). -/

section
variable (x : Context) {i j : Nat}

theorem Context.getV_setV_same (r : VReg) (h : i < 64) : (x.setV i r).getV i = r := by
  simp [Context.setV, Context.getV, h]

theorem Context.getV_setV_other (r : VReg) (h : j ≠ i) : (x.setV i r).getV j = x.getV j := by
  unfold Context.setV
  split
  · simp only [Context.getV]
    split
    · exact Vector.getElem_set_ne _ _ (Ne.symm h)
    · rfl
  · rfl

/-- All but the vector registers. -/
theorem Context.setV_kept (r : VReg) :
    (x.setV i r).a = x.a ∧ (x.setV i r).aPois = x.aPois ∧ (x.setV i r).p = x.p ∧ (x.setV i r).pc = x.pc := by
  unfold Context.setV
  split <;> exact ⟨rfl, rfl, rfl, rfl⟩

theorem Context.getA_setV (r : VReg) : (x.setV i r).getA j = x.getA j := by
  simp only [Context.getA, (x.setV_kept r).1]

theorem Context.getA_setA_same (w : Word) (po : Bool) (h0 : 0 < i) (h : i < 32) : (x.setA i w po).getA i = w := by
  simp [Context.setA, Context.getA, h0, h, Nat.ne_of_gt h0]

theorem Context.getA_setA_other (w : Word) (po : Bool) (h : j ≠ i) : (x.setA i w po).getA j = x.getA j := by
  unfold Context.setA
  split
  · simp only [Context.getA]
    split
    · rfl
    · split
      · exact Vector.getElem_set_ne _ _ (Ne.symm h)
      · rfl
  · rfl

/-- All but the scalar registers. -/
theorem Context.setA_kept (w : Word) (po : Bool) :
    (x.setA i w po).v = x.v ∧ (x.setA i w po).p = x.p ∧ (x.setA i w po).pc = x.pc := by
  unfold Context.setA
  split <;> exact ⟨rfl, rfl, rfl⟩

theorem Context.getV_setA (w : Word) (po : Bool) : (x.setA i w po).getV j = x.getV j := by
  simp only [Context.getV, (x.setA_kept w po).1]

end

@[simp] theorem VReg.lane_ofFn (g : Nat → Lane) (po : BitVec 4) {i : Nat} (h : i < 64) : (VReg.ofFn g po).lane i = g i := by
  simp [VReg.lane, VReg.ofFn, h]

/-! What ends a vector instruction: its registers, its flags, and the count of its issue (R112, R762). -/

/-- The state after a vector instruction that leaves x in its context and raises flags. -/
def State.vecDone (s : State) (u : Issue) (x : Context) (fl : FpFlags) : State :=
  ((s.putAt u x).raiseFlags u.core.val fl).vecIssue u

/-- The counter of vector issues does not wrap at the next one. -/
def State.vecRoom (s : State) (u : Issue) : Prop := tabGetD s.cnt.vals ((0x100 + u.core.val) * 256 + 7) 0 + 1 < 2 ^ 48

theorem raiseFlags_eq (s : State) (n : Nat) (fl : FpFlags) : ∃ regs, s.raiseFlags n fl = { s with regs := regs } := by
  unfold State.raiseFlags
  split
  · exact ⟨_, rfl⟩
  · exact ⟨_, rfl⟩

theorem reg_raiseFlags_same (s : State) (n : Nat) (fl : FpFlags) :
    (s.raiseFlags n fl).reg (offVMODE n) = s.reg (offVMODE n) ||| BitVec.ofNat 64 (fl.toNat * 256) := by
  unfold State.raiseFlags
  split
  · rename_i h
    simp [h]
  · exact reg_setReg_same ..

theorem reg_raiseFlags_other (s : State) (n : Nat) (fl : FpFlags) {off : Nat} (h : off ≠ offVMODE n) :
    (s.raiseFlags n fl).reg off = s.reg off := by
  unfold State.raiseFlags
  split
  · rfl
  · exact reg_setReg_other s _ h

/-- A counter that does not wrap reports nothing. -/
theorem count_unwrapped {s : State} {bank idx amt : Nat} (h : tabGetD s.cnt.vals (bank * 256 + idx) 0 + amt < 2 ^ 48) :
    ∃ cnt, s.count bank idx amt = { s with cnt := cnt } := by
  unfold State.count
  split
  · exact ⟨_, rfl⟩
  · exact ⟨_, if_pos h⟩

section
variable (s : State) (u : Issue) (x : Context) (fl : FpFlags)

/-- Whatever is counted, memory and the context of the issue stay. -/
theorem vecDone_kept : (s.vecDone u x fl).at u = x ∧ (s.vecDone u x fl).mem = s.mem ∧ (s.vecDone u x fl).cmem = s.cmem ∧
    ∀ (n : Nat) (e : Ctx), (n, e) ≠ (u.core.val, u.ctx) → (s.vecDone u x fl).ctx n e = s.ctx n e := by
  have hcount : ((s.putAt u x).raiseFlags u.core.val fl).Reports (s.vecDone u x fl) :=
    count_reports _ (0x100 + u.core.val) 7 1
  obtain ⟨regs, hr⟩ := raiseFlags_eq (s.putAt u x) u.core.val fl
  rw [hr] at hcount
  rw [show s.vecDone u x fl = _ from hcount]
  exact ⟨ctx_setCtx_same .., rfl, rfl, fun n e h => ctx_setCtx_other s x h⟩

variable {s u} (h : s.vecRoom u)
include h

/-- Without a wrap of the counter only the flags are reported. -/
theorem vecDone_unwrapped : ∃ cnt, s.vecDone u x fl = { (s.putAt u x).raiseFlags u.core.val fl with cnt := cnt } := by
  obtain ⟨regs, hr⟩ := raiseFlags_eq (s.putAt u x) u.core.val fl
  have hcnt : ((s.putAt u x).raiseFlags u.core.val fl).cnt = s.cnt := by rw [hr]; rfl
  exact count_unwrapped (by rw [hcnt]; exact h)

theorem vecDone_host : (s.vecDone u x fl).host = s.host := by
  obtain ⟨cnt, hc⟩ := vecDone_unwrapped x fl h
  obtain ⟨regs, hr⟩ := raiseFlags_eq (s.putAt u x) u.core.val fl
  rw [hc, hr]
  rfl

theorem reg_vecDone_other {off : Nat} (ho : off ≠ offVMODE u.core.val) : (s.vecDone u x fl).reg off = s.reg off := by
  obtain ⟨cnt, hc⟩ := vecDone_unwrapped x fl h
  rw [hc]
  exact reg_raiseFlags_other (s.putAt u x) _ fl ho

theorem reg_vecDone_vmode : (s.vecDone u x fl).reg (offVMODE u.core.val) =
    s.reg (offVMODE u.core.val) ||| BitVec.ofNat 64 (fl.toNat * 256) := by
  obtain ⟨cnt, hc⟩ := vecDone_unwrapped x fl h
  rw [hc]
  exact reg_raiseFlags_same (s.putAt u x) _ fl

/-- VMODE gains the flags at bits 12 to 8 and keeps its other bits (R112). -/
theorem bit_vecDone {k : Nat} (hk : k < 64) : (s.vecDone u x fl).bit (offVMODE u.core.val) k =
    (s.bit (offVMODE u.core.val) k || (decide (8 ≤ k) && fl.getLsbD (k - 8))) := by
  have hflag : (fl.toNat * 256).testBit k = (decide (8 ≤ k) && fl.toNat.testBit (k - 8)) :=
    Nat.testBit_mul_two_pow fl.toNat k 8
  rw [State.bit, reg_vecDone_vmode x fl h, bitOf, BitVec.getLsbD_or, BitVec.getLsbD_ofNat, hflag,
    decide_eq_true hk, Bool.true_and]
  rfl

end

/-! Special registers (R117, R396). -/

section
variable {u : Issue} {f : Fields} {s : State}

/-- The number of a special register, IMM[7:0]. -/
theorem immBits_special (f : Fields) : immBits f 7 0 = f.imm.toNat % 256 := by simp [immBits_eq]

theorem exec_mrs_listed {v : Word} (h : s.issues (.mrs u f)) (hv : s.special u (f.imm.toNat % 256) = some v) :
    exec (.mrs u f) s = .next ((s.putA u f.dst v false).afterIssue u (s.nextPc u)) := by
  refine congrArg Host.Outcome.next (issue_next h ?_)
  rw [immBits_special, hv]

theorem exec_mrs_unlisted (h : s.issues (.mrs u f)) (hv : s.special u (f.imm.toNat % 256) = none) :
    exec (.mrs u f) s = .next (s.programFault u.core.val u.ctx 1 (s.at u).pc.toNat) := by
  refine congrArg Host.Outcome.next (issue_fault h ?_)
  rw [immBits_special, hv]
  rfl

/-- R396 lists the numbers 0 to 3. -/
theorem special_unlisted (s : State) (u : Issue) {k : Nat} (h : 3 < k) : s.special u k = none := by
  match k, h with
  | k + 4, _ => rfl

theorem rndReserved_iff (w : Word) : rndReserved w = true ↔ 4 < w.toNat % 8 := by
  simp [rndReserved, fieldOf, bitsOf]

theorem exec_msr_refused (h : s.issues (.msr u f))
    (hbad : f.imm.toNat % 256 ≠ 0 ∨ 4 < ((s.at u).getA f.srca.toNat).toNat % 8) :
    exec (.msr u f) s = .next (s.programFault u.core.val u.ctx 1 (s.at u).pc.toNat) := by
  refine congrArg Host.Outcome.next (issue_fault h ?_)
  rw [immBits_special]
  split
  · rfl
  · rename_i hk
    exact if_pos ((rndReserved_iff _).mpr (hbad.resolve_left hk))

theorem exec_msr_writes (h : s.issues (.msr u f)) (hk : f.imm.toNat % 256 = 0)
    (ha : ((s.at u).getA f.srca.toNat).toNat % 8 ≤ 4) : exec (.msr u f) s =
      .next ((s.setReg (offVMODE u.core.val) ((s.at u).getA f.srca.toNat &&& 0x1F37#64)).afterIssue u (s.nextPc u)) := by
  refine congrArg Host.Outcome.next (issue_next h ?_)
  rw [immBits_special, if_neg (not_not_intro hk), if_neg (mt (rndReserved_iff _).mp (Nat.not_lt.mpr ha))]
  rfl

end

/-- Settles O20: MRS by the number it reads, MSR by the two causes of its fault. -/
theorem specialRegisters : Obligations.SpecialRegisters := by
  unfold Obligations.SpecialRegisters
  intro u f s
  refine ⟨fun h => ⟨?_, ?_, ?_, ?_, ?_⟩, fun h => ⟨?_, ?_⟩⟩
  · exact fun hk => exec_mrs_listed h (by rw [hk]; rfl)
  · exact fun hk => exec_mrs_listed h (by rw [hk]; rfl)
  · exact fun hk => exec_mrs_listed h (by rw [hk]; rfl)
  · exact fun hk => exec_mrs_listed h (by rw [hk]; rfl)
  · exact fun hk => exec_mrs_unlisted h (special_unlisted s u hk)
  · exact exec_msr_writes h
  · exact exec_msr_refused h

/-! Element-wise instructions (R383, R398). -/

/-- A quarter is full when it holds no inactive lane. -/
theorem quarterFull_eq (m : Word) (j : Nat) :
    quarterFull m j = !(List.range 16).any fun i => !m.getLsbD (16 * j + i) := by
  have hbit (i : Nat) : (fieldOf m (16 * j + 15) (16 * j)).testBit i = (decide (i < 16) && m.getLsbD (16 * j + i)) := by
    rw [fieldOf_testBit]
    congr 2
    exact propext ⟨fun h => by omega, fun h => by omega⟩
  have hones (i : Nat) : Nat.testBit 0xFFFF i = decide (i < 16) := Nat.testBit_two_pow_sub_one 16 i
  rw [Bool.eq_iff_iff]
  simp only [quarterFull, decide_eq_true_eq, Bool.not_eq_true', List.any_eq_false, List.mem_range, Bool.not_eq_false]
  constructor
  · intro h i hi
    have := hbit i
    rw [show fieldOf m _ _ = _ from h, hones] at this
    simpa [hi] using this.symm
  · intro h
    refine Nat.eq_of_testBit_eq fun i => (hbit i).trans ?_
    rw [hones]
    by_cases hi : i < 16
    · simp [h i hi]
    · simp [hi]

theorem elemPois_getLsbD (old : BitVec 4) (m : Word) (src : BitVec 4) {j : Nat} (h : j < 4) :
    (elemPois old m src).getLsbD j =
      (src.getLsbD j || (old.getLsbD j && (List.range 16).any fun i => !m.getLsbD (16 * j + i))) := by
  rw [elemPois, maskBy_getLsbD, decide_eq_true h, Bool.true_and, quarterFull_eq, Bool.not_not, Bool.and_comm]

/-- A flag is in a union when it is among the flags of some result. -/
theorem allFlags_getLsbD (l : List FpFlags) (k : Nat) : (allFlags l).getLsbD k = l.any (·.getLsbD k) := by
  have hfold : ∀ acc : FpFlags, (l.foldl (· ||| ·) acc).getLsbD k = (acc.getLsbD k || l.any (·.getLsbD k)) := by
    induction l with
    | nil => simp
    | cons fl l ih => intro acc; rw [List.foldl_cons, ih, BitVec.getLsbD_or, List.any_cons, Bool.or_assoc]
  rw [allFlags, hfold, BitVec.getLsbD_zero, Bool.false_or]

theorem laneFlags_getLsbD (m : Word) (op : Nat → Lane × FpFlags) (k : Nat) :
    (laneFlags m op).getLsbD k = true ↔ ∃ i, i < 64 ∧ m.getLsbD i = true ∧ (op i).2.getLsbD k = true := by
  have hlane (i : Nat) : (if active m i then (op i).2 else 0#5).getLsbD k = (m.getLsbD i && (op i).2.getLsbD k) := by
    rw [active]
    cases m.getLsbD i <;> simp
  rw [laneFlags, allFlags_getLsbD]
  simp only [List.any_map, List.any_eq_true, List.mem_range, Function.comp_apply, hlane, Bool.and_eq_true]

theorem elemWise_eq_vecDone (s : State) (u : Issue) (f : Fields) (a b c : Nat → Lane) (po : BitVec 4) (op : LaneOp) :
    s.elemWise u f a b c po op =
      let old := (s.at u).getV f.dst.toNat
      let m := predOf (s.at u) f
      s.vecDone u ((s.at u).setV f.dst.toNat (old.merge m (fun i => (op (a i) (b i) (c i)).1) (elemPois old.pois m po)))
        (laneFlags m fun i => op (a i) (b i) (c i)) := rfl

/-- Settles O22: lanes and poison from the merged register, the flags from the union over the active lanes, the rest from what every
vector instruction leaves unchanged. -/
theorem elementWiseLanesPoisonAndFlags : Obligations.ElementWiseLanesPoisonAndFlags := by
  unfold Obligations.ElementWiseLanesPoisonAndFlags
  intro u f s a b c po op x m old t r hroom
  let y := x.setV f.dst.toNat (old.merge m (fun i => (op (a i) (b i) (c i)).1) (elemPois old.pois m po))
  let fl := laneFlags m fun i => op (a i) (b i) (c i)
  have ht : t = s.vecDone u y fl := elemWise_eq_vecDone ..
  obtain ⟨hat, hmem, hcmem, hctx⟩ := vecDone_kept s u y fl
  rw [← ht] at hat hmem hcmem hctx
  obtain ⟨ha, hpa, hp, hpc⟩ : y.a = x.a ∧ y.aPois = x.aPois ∧ y.p = x.p ∧ y.pc = x.pc := x.setV_kept _
  have hr : r = old.merge m (fun i => (op (a i) (b i) (c i)).1) (elemPois old.pois m po) :=
    (congrArg (·.getV f.dst.toNat) hat).trans (x.getV_setV_same _ f.dst.isLt)
  have hbit {k : Nat} (hk : k < 64) : t.bit (offVMODE u.core.val) k =
      (s.bit (offVMODE u.core.val) k || (decide (8 ≤ k) && fl.getLsbD (k - 8))) := ht ▸ bit_vecDone y fl hroom hk
  rw [hat]
  refine ⟨?lanes, ?pois, fun v hv => x.getV_setV_other _ hv, ha, hpa, hp, hpc, ?flags, ?others,
    fun off ho => ht ▸ reg_vecDone_other y fl hroom ho, hctx, hmem, hcmem, ht ▸ vecDone_host y fl hroom⟩
  case lanes =>
    intro i hi
    rw [hr]
    exact VReg.lane_ofFn _ _ hi
  case pois =>
    intro j hj
    rw [hr]
    exact elemPois_getLsbD _ _ _ hj
  case flags =>
    intro k hk
    refine (Bool.eq_iff_iff.mp (hbit (k := 8 + k) (by omega))).trans ?_
    rw [Bool.or_eq_true, decide_eq_true (Nat.le_add_right 8 k), Bool.true_and, Nat.add_sub_cancel_left, laneFlags_getLsbD]
    rfl
  case others =>
    intro k hk hout
    refine (hbit hk).trans ?_
    by_cases h8 : 8 ≤ k
    · rw [BitVec.getLsbD_of_ge fl (k - 8) (by omega), Bool.and_false, Bool.or_false]
      rfl
    · rw [decide_eq_false h8, Bool.false_and, Bool.or_false]
      rfl

/-! Reductions (R123, R406). -/

section
variable (op : Lane → Lane → Lane × FpFlags)

/-- A level of the tree without leaves has none above it and raises no flag. -/
theorem treeLevel_none (k : Nat) :
    treeLevel op (List.replicate k none) = (List.replicate ((k + 1) / 2) none, 0#5) := by
  match k with
  | 0 => rfl
  | 1 => rfl
  | k + 2 =>
    have ih := treeLevel_none k
    rw [show (k + 2 + 1) / 2 = (k + 1) / 2 + 1 by omega]
    cases k with
    | zero => rfl
    | succ k => simp only [List.replicate_succ, treeLevel] at ih ⊢; rw [ih]

theorem treeReduce_none (n k : Nat) : treeReduce op n (List.replicate k none) = (none, 0#5) := by
  induction n generalizing k with
  | zero => cases k <;> rfl
  | succ n ih => simp only [treeReduce, treeLevel_none, ih]; rfl

/-- A level halves the list. -/
theorem treeLevel_length (l : List (Option Lane)) : (treeLevel op l).1.length = (l.length + 1) / 2 := by
  induction l using treeLevel.induct (op := op) with
  | case1 a b t _ _ _ _ _ _ ih => simp only [treeLevel, List.length_cons, ih]; omega
  | case2 a t _ _ _ ih => simp only [treeLevel, List.length_cons, ih]; omega
  | case3 b t _ _ _ ih => simp only [treeLevel, List.length_cons, ih]; omega
  | case4 x => simp [treeLevel]
  | case5 => rfl

/-- A level keeps a leaf where there is one. -/
theorem treeLevel_some (l : List (Option Lane)) (h : ∃ v, some v ∈ l) : ∃ w, some w ∈ (treeLevel op l).1 := by
  induction l using treeLevel.induct (op := op) with
  | case1 a b t => exact ⟨_, List.mem_cons_self ..⟩
  | case2 a t => exact ⟨a, List.mem_cons_self ..⟩
  | case3 b t _ _ _ ih =>
    obtain ⟨v, hv⟩ := h
    rcases List.mem_cons.mp hv with hv | hv
    · exact nomatch hv
    · rcases List.mem_cons.mp hv with hb | ht
      · exact ⟨v, List.mem_cons.mpr (.inl hb)⟩
      · obtain ⟨w, hw⟩ := ih ⟨v, ht⟩
        exact ⟨w, List.mem_cons_of_mem _ hw⟩
  | case4 x => rwa [treeLevel]
  | case5 => exact h

/-- The pairwise tree over at most 2^n leaves gives a value when a leaf is present. -/
theorem treeReduce_some {n : Nat} {l : List (Option Lane)} (hl : l.length ≤ 2 ^ n) (h : ∃ v, some v ∈ l) :
    ∃ w, (treeReduce op n l).1 = some w := by
  induction n generalizing l with
  | zero =>
    obtain ⟨v, hv⟩ := h
    have hone : l = [some v] := by
      obtain ⟨x, rfl⟩ := List.length_eq_one_iff.mp (Nat.le_antisymm hl (List.length_pos_of_mem hv))
      rw [List.mem_singleton.mp hv]
    exact ⟨v, by rw [hone]; rfl⟩
  | succ n ih =>
    refine ih ?_ (treeLevel_some op l h)
    rw [treeLevel_length]
    omega

end

/-- The leaves of a reduction: the active lanes in ascending order. -/
def activeLeaves (m : Word) (lane : Nat → Lane) : List (Option Lane) :=
  (List.range 64).map fun i => if m.getLsbD i then some (lane i) else none

theorem activeLeaves_zero (lane : Nat → Lane) : activeLeaves 0#64 lane = List.replicate 64 none := by
  have hnone : (fun i => if (0#64).getLsbD i then some (lane i) else none) = fun _ => none := by simp
  rw [activeLeaves, hnone, List.map_const', List.length_range]

theorem activeLeaves_some {m : Word} (h : m ≠ 0#64) (lane : Nat → Lane) : ∃ v, some v ∈ activeLeaves m lane := by
  obtain ⟨i, hi, hm⟩ : ∃ i, i < 64 ∧ m.getLsbD i = true := by
    false_or_by_contra
    rename_i hnone
    refine h (BitVec.eq_of_getLsbD_eq fun i hi => ?_)
    rw [BitVec.getLsbD_zero]
    exact Bool.eq_false_iff.mpr fun hm => hnone ⟨i, hi, hm⟩
  exact ⟨lane i, List.mem_map.mpr ⟨i, List.mem_range.mpr hi, if_pos hm⟩⟩

section
variable (u : Issue) (f : Fields) (s : State)

/-- The state after a reduction of value v that raises the flags fl (R383, R808). -/
def State.reduced (v : Lane) (fl : FpFlags) : State :=
  let po : BitVec 4 := if ((s.at u).getV f.srca.toNat).pois = 0#4 then 0#4 else 15#4
  s.vecDone u ((s.at u).setV f.dst.toNat (VReg.ofFn (fun _ => v) po)) fl

/-- The value that a reduction over no lane takes (R123, notes/assumptions/11.md). -/
def State.freeReduce (kind : Nat) : Lane :=
  Config.emptyReduce kind (s.field (offVMODE u.core.val) 5 0) ((List.range 64).map ((s.at u).getV f.srca.toNat).lane)

variable {u f s}

/-- What a reduction gives: the tree over the active lanes, or the free value. The three reductions have the same operands. -/
theorem vreduce_eq (h : s.issues (.vrsum u f)) (kind : Nat) (op : Lane → Lane → Lane × FpFlags) :
    s.vreduce u f kind op =
      let r := treeReduce op 6 (activeLeaves (predOf (s.at u) f) ((s.at u).getV f.srca.toNat).lane)
      (s.reduced u f (r.1.getD (s.freeReduce u f kind)) r.2).afterIssue u (s.nextPc u) := issue_next h rfl

/-- Without an active lane the tree is empty; with one it gives a value. -/
theorem vreduce_cases (h : s.issues (.vrsum u f)) (kind : Nat) (op : Lane → Lane → Lane × FpFlags) :
    let r := treeReduce op 6 (activeLeaves (predOf (s.at u) f) ((s.at u).getV f.srca.toNat).lane)
    let done (v : Lane) (fl : FpFlags) : Host.Outcome State Fault Refusal :=
      .next ((s.reduced u f v fl).afterIssue u (s.nextPc u))
    (predOf (s.at u) f = 0#64 → .next (s.vreduce u f kind op) = done (s.freeReduce u f kind) 0#5) ∧
    (predOf (s.at u) f ≠ 0#64 → ∃ v, r.1 = some v ∧ .next (s.vreduce u f kind op) = done v r.2) := by
  intro r done
  refine ⟨fun hm => ?_, fun hm => ?_⟩
  · rw [vreduce_eq h, hm, activeLeaves_zero, treeReduce_none]
    rfl
  · obtain ⟨v, hv⟩ : ∃ v, r.1 = some v := treeReduce_some op (by simp [activeLeaves]) (activeLeaves_some hm _)
    refine ⟨v, hv, ?_⟩
    rw [vreduce_eq h]
    show Host.Outcome.next ((s.reduced u f (r.1.getD _) r.2).afterIssue u (s.nextPc u)) = _
    rw [hv]
    rfl

end

/-- Settles O25: each reduction by its pairwise tree. -/
theorem vectorReductions : Obligations.VectorReductions := by
  unfold Obligations.VectorReductions
  intro u f s
  exact ⟨fun h => vreduce_cases h 0 _, fun h => vreduce_cases h 1 _, fun h => vreduce_cases h 2 _⟩

end Sys2Proof.Machine
end

section
/-!
PROOFS. VCVT: the place of an element in a register, what each element becomes, and the two block exponents of an E8 destination
(R402 to R404, R804 to R806, R808).
-/
namespace Sys2Proof.Machine

/-! Numbers packed side by side. -/

/-- Numbers of w bits one above the other: below 2^(w n), and each read back at its place. -/
theorem packed_digits (w : Nat) (g : Nat → Nat) (n : Nat) :
    let sum := (List.range n).foldl (fun acc k => acc + g k % 2 ^ w * 2 ^ (w * k)) 0
    sum < 2 ^ (w * n) ∧ ∀ j, j < n → sum / 2 ^ (w * j) % 2 ^ w = g j % 2 ^ w := by
  induction n with
  | zero => simp
  | succ n ih =>
    simp only [List.range_succ, List.foldl_append, List.foldl_cons, List.foldl_nil]
    generalize (List.range n).foldl (fun acc k => acc + g k % 2 ^ w * 2 ^ (w * k)) 0 = sum at ih ⊢
    obtain ⟨hlt, hdigit⟩ := ih
    have hd : g n % 2 ^ w < 2 ^ w := Nat.mod_lt _ (Nat.two_pow_pos w)
    refine ⟨?_, fun j hj => ?_⟩
    · calc sum + g n % 2 ^ w * 2 ^ (w * n)
          < 2 ^ (w * n) + g n % 2 ^ w * 2 ^ (w * n) := Nat.add_lt_add_right hlt _
        _ = (g n % 2 ^ w + 1) * 2 ^ (w * n) := by rw [Nat.add_mul, Nat.one_mul, Nat.add_comm]
        _ ≤ 2 ^ w * 2 ^ (w * n) := Nat.mul_le_mul_right _ hd
        _ = 2 ^ (w * (n + 1)) := by rw [← Nat.pow_add, Nat.mul_add, Nat.mul_one, Nat.add_comm]
    · by_cases hjn : j = n
      · subst hjn
        rw [Nat.add_mul_div_right _ _ (Nat.two_pow_pos _), Nat.div_eq_of_lt hlt, Nat.zero_add, Nat.mod_mod]
      · have hexp : w * n = w * (n - j - 1) + w + w * j := by
          rw [← Nat.mul_succ, ← Nat.mul_add]
          congr 1
          omega
        have hplace : g n % 2 ^ w * 2 ^ (w * n) = g n % 2 ^ w * 2 ^ (w * (n - j - 1)) * 2 ^ w * 2 ^ (w * j) := by
          rw [hexp, Nat.pow_add, Nat.pow_add, Nat.mul_assoc, Nat.mul_assoc, Nat.mul_assoc]
        rw [hplace, Nat.add_mul_div_right _ _ (Nat.two_pow_pos _), Nat.add_mul_mod_self_right, hdigit j (by omega)]

/-! The place of an element (R403). -/

theorem Fmt.width_cases (b : Fmt) : b.width = 8 ∨ b.width = 16 ∨ b.width = 32 := by
  cases b <;> simp [Fmt.width]

section
variable {w p e i : Nat} {old : Nat → Lane} {act : Nat → Bool} {val : Nat → Nat}

theorem elemPut_inactive (h : act i = false) : elemPut w p old act val i = old i := by
  simp [elemPut, h]

/-- Narrow elements lie side by side in the lanes of their part. -/
theorem elemLane_narrow (hw : w = 8 ∨ w = 16) (p e : Nat) : elemLane w p e = p * (64 / (32 / w)) + e / (32 / w) := by
  rcases hw with rfl | rfl <;> simp [elemLane] <;> omega

/-- An active lane of the part takes its elements, one above the other. -/
theorem elemPut_narrow (hw : w = 8 ∨ w = 16) (he : e < 64) (h : act (elemLane w p e) = true) :
    elemPut w p old act val (elemLane w p e) = BitVec.ofNat 32 ((List.range (32 / w)).foldl
      (fun acc k => acc + val (e / (32 / w) * (32 / w) + k) % 2 ^ w * 2 ^ (w * k)) 0) := by
  have hne : w ≠ 32 := by omega
  have hlt : e / (32 / w) < 64 / (32 / w) := by rcases hw with rfl | rfl <;> omega
  rw [elemLane_narrow hw] at h ⊢
  rw [elemPut, if_neg hne, if_pos ⟨Nat.le_add_right .., by rw [Nat.add_mul, Nat.one_mul]; omega, h⟩, Nat.add_sub_cancel_left]

/-- An element reads back as it was put, cut to its width. -/
theorem elemGet_elemPut (hw : w = 8 ∨ w = 16 ∨ w = 32) (he : e < 64) (h : act (elemLane w p e) = true) :
    elemGet (elemPut w p old act val) w p e = val e % 2 ^ w := by
  have narrow (hw : w = 8 ∨ w = 16) : elemGet (elemPut w p old act val) w p e = val e % 2 ^ w := by
    obtain ⟨hlt, hdigit⟩ := packed_digits w (fun k => val (e / (32 / w) * (32 / w) + k)) (32 / w)
    have hper : 0 < 32 / w ∧ w * (32 / w) = 32 := by rcases hw with rfl | rfl <;> decide
    rw [hper.2] at hlt
    rw [elemGet, elemPut_narrow hw he h, BitVec.toNat_ofNat, Nat.mod_eq_of_lt hlt, Nat.shiftRight_eq_div_pow,
      hdigit _ (Nat.mod_lt _ hper.1), Nat.div_add_mod']
  rcases hw with hw | hw | rfl
  · exact narrow (.inl hw)
  · exact narrow (.inr hw)
  · have hlane : elemLane 32 p e = e := by simp [elemLane]
    rw [hlane] at h
    simp [elemGet, elemPut, hlane, h, Nat.mod_one]

end

/-- An element is read from its own lane alone. -/
theorem elemGet_congr {v v' : Nat → Lane} {w p e : Nat} (h : v (elemLane w p e) = v' (elemLane w p e)) :
    elemGet v w p e = elemGet v' w p e := by
  rw [elemGet, elemGet, h]

/-! What each element becomes (R119, R404, R804 to R806). -/

section
variable (s : State) (x : Context) (f : Fields)

/-- The multiplier of element e: the third vector source beside an exponent scalar, else source B. -/
def cvtMulAt (e : Nat) : Nat :=
  if cvtMul (cvtSrc f) (cvtDst f) && cvtExp (cvtSrc f) (cvtDst f) then ((x.getV (immBits f 27 22)).lane e).toNat
  else (vecB x f e).toNat

/-- The exponent of the block of element e. -/
def cvtExpAt (e : Nat) : Nat :=
  if e < 32 then fieldOf (x.getA f.srcb.toNat) 7 0 else fieldOf (x.getA f.srcb.toNat) 15 8

/-- The source element e of the part. -/
def cvtCodeAt (e : Nat) : Nat :=
  elemGet (x.getV f.srca.toNat).lane (cvtSrc f).width (sidePart (cvtSrc f) (cvtDst f) (cvtPart f)) e

/-- The value that element e of an E8 destination rounds. -/
def cvtValueAt (e : Nat) : Num :=
  withMul (if cvtDst f = .e8 then .a8 else cvtSrc f) (srcValue (cvtSrc f) (cvtCodeAt x f e) (cvtMulAt x f e) (cvtExpAt x f e))
    (cvtMulAt x f e)

/-- The exponent of block k of an E8 destination. -/
def cvtBlockCode (k : Nat) : Nat :=
  if cvtDst f = .e8 then e8Code ((List.range 32).map fun i => cvtValueAt x f (32 * k + i)) 256 0 else 0

/-- What element e becomes, with its flags. -/
def State.cvtElem (n e : Nat) : Nat × FpFlags :=
  if cvtSrc f = cvtDst f then (cvtCodeAt x f e, 0#5)
  else if cvtDst f = .e8 then e8Sig (if e < 32 then cvtBlockCode x f 0 else cvtBlockCode x f 1) (cvtValueAt x f e)
  else s.convertElem n (cvtSrc f) (cvtDst f) (cvtCodeAt x f e) (cvtMulAt x f e) (cvtExpAt x f e)

/-- The context after a VCVT: its destination, and the block exponents of an E8 destination. -/
def State.cvtContext (n : Nat) (po : BitVec 4) (src : Bool) : Context :=
  let y := x.setV f.dst.toNat (VReg.ofFn (elemPut (cvtDst f).width (sidePart (cvtDst f) (cvtSrc f) (cvtPart f))
    (x.getV f.dst.toNat).lane (active (predOf x f)) fun e => (s.cvtElem x f n e).1) po)
  if decide (cvtDst f = .e8) && decide (cvtSrc f ≠ .e8) then
    y.setA f.srcb.toNat (BitVec.ofNat 64 (cvtBlockCode x f 0 + cvtBlockCode x f 1 * 256)) src else y

end

section
variable {s : State} {x : Context} {f : Fields} {n e : Nat}

/-- Every conversion but the one into E8 goes by its element alone. -/
theorem cvtElem_plain (h : cvtDst f ≠ .e8 ∨ cvtSrc f = .e8) : s.cvtElem x f n e =
    s.convertElem n (cvtSrc f) (cvtDst f) (cvtCodeAt x f e) (cvtMulAt x f e) (cvtExpAt x f e) := by
  by_cases hsame : cvtSrc f = cvtDst f
  · rw [State.cvtElem, if_pos hsame, State.convertElem, if_pos hsame]
  · have hd : cvtDst f ≠ .e8 := h.elim id fun hs hd => hsame (hs.trans hd.symm)
    rw [State.cvtElem, if_neg hsame, if_neg hd]

/-- An element of an E8 destination is rounded at the exponent of its block. -/
theorem cvtElem_e8 (hd : cvtDst f = .e8) (hs : cvtSrc f ≠ .e8) (he : e < 64) :
    s.cvtElem x f n e = e8Sig (cvtBlockCode x f (e / 32)) (cvtValueAt x f e) := by
  rw [State.cvtElem, if_neg (hd ▸ hs), if_pos hd]
  split
  · rw [show e / 32 = 0 by omega]
  · rw [show e / 32 = 1 by omega]

variable {po : BitVec 4} {src : Bool}

/-- Of a context only the destination and, with an E8 destination, the exponent register change. -/
theorem cvtContext_kept : let y := s.cvtContext x f n po src
    (∀ v, v ≠ f.dst.toNat → y.getV v = x.getV v) ∧ y.p = x.p ∧ y.pc = x.pc ∧
      ∀ r, (r ≠ f.srcb.toNat ∨ cvtDst f ≠ .e8 ∨ cvtSrc f = .e8) → y.getA r = x.getA r := by
  unfold State.cvtContext
  simp only
  generalize VReg.ofFn _ po = r
  obtain ⟨-, -, hp, hpc⟩ := x.setV_kept (i := f.dst.toNat) r
  split
  · rename_i h8
    simp only [Bool.and_eq_true, decide_eq_true_eq] at h8
    obtain ⟨-, hp', hpc'⟩ := (x.setV f.dst.toNat r).setA_kept (i := f.srcb.toNat)
      (BitVec.ofNat 64 (cvtBlockCode x f 0 + cvtBlockCode x f 1 * 256)) src
    refine ⟨fun v hv => ?_, hp'.trans hp, hpc'.trans hpc, fun k hk => ?_⟩
    · rw [Context.getV_setA, x.getV_setV_other r hv]
    · have hne : k ≠ f.srcb.toNat := hk.elim id fun h => h.elim (absurd h8.1) fun hs => absurd hs h8.2
      rw [Context.getA_setA_other _ _ _ hne, Context.getA_setV]
  · exact ⟨fun v hv => x.getV_setV_other r hv, hp, hpc, fun k _ => x.getA_setV r⟩

/-- The destination takes the converted elements. -/
theorem cvtContext_dst {i : Nat} (hi : i < 64) : ((s.cvtContext x f n po src).getV f.dst.toNat).lane i =
    elemPut (cvtDst f).width (sidePart (cvtDst f) (cvtSrc f) (cvtPart f)) (x.getV f.dst.toNat).lane (active (predOf x f))
      (fun e => (s.cvtElem x f n e).1) i := by
  unfold State.cvtContext
  simp only
  split
  · rw [Context.getV_setA, x.getV_setV_same _ f.dst.isLt, VReg.lane_ofFn _ _ hi]
  · rw [x.getV_setV_same _ f.dst.isLt, VReg.lane_ofFn _ _ hi]

/-- An element whose lane is active holds what it becomes. -/
theorem cvtContext_elem (he : e < 64)
    (h : (predOf x f).getLsbD (elemLane (cvtDst f).width (sidePart (cvtDst f) (cvtSrc f) (cvtPart f)) e) = true) :
    elemGet ((s.cvtContext x f n po src).getV f.dst.toNat).lane (cvtDst f).width
      (sidePart (cvtDst f) (cvtSrc f) (cvtPart f)) e = (s.cvtElem x f n e).1 % 2 ^ (cvtDst f).width := by
  rw [elemGet_congr (cvtContext_dst (BitVec.lt_of_getLsbD h))]
  exact elemGet_elemPut (cvtDst f).width_cases he h

/-- The exponent register takes the two block exponents of an E8 destination. -/
theorem cvtContext_exponents (hd : cvtDst f = .e8) (hs : cvtSrc f ≠ .e8) (h0 : 0 < f.srcb.toNat) (h : f.srcb.toNat < 32) :
    (s.cvtContext x f n po src).getA f.srcb.toNat = BitVec.ofNat 64 (cvtBlockCode x f 0 + cvtBlockCode x f 1 * 256) := by
  rw [State.cvtContext, if_pos (by simp [hd, hs]), Context.getA_setA_same _ _ _ h0 h]

end

/-! The fields of IMM as the statement writes them (R402, R403). -/

section
variable (x : Context) (f : Fields)

theorem cvtSrc_eq : cvtSrc f = fmtOf (f.imm.toNat / 2 ^ 18 % 8) := congrArg fmtOf (immBits_eq f 20 18)
theorem cvtDst_eq : cvtDst f = fmtOf (f.imm.toNat / 2 ^ 15 % 8) := congrArg fmtOf (immBits_eq f 17 15)
theorem cvtPart_eq : cvtPart f = f.imm.toNat / 2 ^ 13 % 4 := immBits_eq f 14 13
theorem cvtThird_eq : immBits f 27 22 = f.imm.toNat / 2 ^ 22 % 64 := immBits_eq f 27 22

theorem cvtExpAt_eq {e : Nat} (he : e < 64) :
    cvtExpAt x f e = (x.getA f.srcb.toNat).toNat / 2 ^ (8 * (e / 32)) % 256 := by
  unfold cvtExpAt
  split
  · rw [show e / 32 = 0 by omega]
    simp [fieldOf, bitsOf]
  · rw [show e / 32 = 1 by omega]
    simp [fieldOf, bitsOf, Nat.shiftRight_eq_div_pow]

end

theorem exec_vcvt_badPart {u : Issue} {f : Fields} {s : State} (h : s.issues (.vcvt u f))
    (hp : partOk (cvtSrc f) (cvtDst f) (cvtPart f) = false) :
    exec (.vcvt u f) s = .next (s.programFault u.core.val u.ctx 1 (s.at u).pc.toNat) :=
  congrArg Host.Outcome.next (issue_fault h (if_pos (by rw [hp]; rfl)))

theorem exec_vcvt {u : Issue} {f : Fields} {s : State} (h : s.issues (.vcvt u f))
    (hp : partOk (cvtSrc f) (cvtDst f) (cvtPart f) = true) :
    ∃ po src fl, exec (.vcvt u f) s =
      .next ((s.vecDone u (s.cvtContext (s.at u) f u.core.val po src) fl).afterIssue u (s.nextPc u)) :=
  ⟨_, _, _, congrArg Host.Outcome.next (issue_next h (if_neg (by rw [hp]; decide)))⟩

/-- Settles O26: the elements from the packed destination, the block exponents of E8, and what VCVT leaves unchanged. -/
theorem vectorConversion : Obligations.VectorConversion := by
  unfold Obligations.VectorConversion
  intro u f s h x n m src dst part va bl mul ex ps pd
  have hsrc : src = cvtSrc f := (cvtSrc_eq f).symm
  have hdst : dst = cvtDst f := (cvtDst_eq f).symm
  have hpart : part = cvtPart f := (cvtPart_eq f).symm
  have hpd : pd = sidePart (cvtDst f) (cvtSrc f) (cvtPart f) := by rw [← hsrc, ← hdst, ← hpart]
  have hmul : mul = cvtMulAt x f := by
    funext e
    simp only [mul, hsrc, hdst, cvtMulAt, cvtThird_eq]
    rfl
  have hcode (e : Nat) : elemGet va.lane src.width ps e = cvtCodeAt x f e := by rw [cvtCodeAt, ← hsrc, ← hdst, ← hpart]
  have hex {e : Nat} (he : e < 64) : ex e = cvtExpAt x f e := (cvtExpAt_eq x f he).symm
  clear_value src dst part mul ps pd
  subst hsrc hdst hpart hpd hmul
  refine ⟨exec_vcvt_badPart h, fun hp => ?_⟩
  obtain ⟨po, bad, fl, hexec⟩ := exec_vcvt h hp
  obtain ⟨hat, hmem, hcmem, -⟩ := vecDone_kept s u (s.cvtContext x f n po bad) fl
  obtain ⟨hv, hpred, hpc, ha⟩ := cvtContext_kept (s := s) (x := x) (f := f) (n := n) (po := po) (src := bad)
  refine ⟨_, hexec, ?_⟩
  rw [hat]
  refine ⟨?kept, ?plain, ?e8, hv, hpred, hpc, fun r _ => ha r, fun hroom off ho => reg_vecDone_other _ fl hroom ho, hmem, hcmem⟩
  case kept =>
    intro i hi hm
    rw [cvtContext_dst hi]
    exact elemPut_inactive hm
  case plain =>
    intro hne e he _ hm
    rw [cvtContext_elem he hm, cvtElem_plain hne, hcode, hex he]
  case e8 =>
    intro hd hs value code
    have hvalue {e : Nat} (he : e < 64) : value e = cvtValueAt x f e := by
      simp only [value, cvtValueAt, hd, if_true, hcode, hex he]
    have hblock {k : Nat} (hk : k < 2) : code k = cvtBlockCode x f k := by
      rw [cvtBlockCode, if_pos hd]
      refine congrArg (e8Code · 256 0) (List.map_congr_left fun i hi => hvalue ?_)
      have := List.mem_range.mp hi
      omega
    refine ⟨fun h0 h32 => ?_, fun e he hm => ?_⟩
    · rw [cvtContext_exponents hd hs h0 h32, hblock (by decide), hblock (by decide)]
    · have hw : (cvtDst f).width = 8 := by rw [hd]; rfl
      have helem := cvtContext_elem (s := s) (n := n) (po := po) (src := bad) he (by rw [hw]; exact hm)
      rw [hw, cvtElem_e8 hd hs he] at helem
      rw [hblock (by omega), hvalue he]
      exact helem

end Sys2Proof.Machine
end

section
/-!
PROOFS. An LDF of another position's field: the bond groups that carry its bytes (R154, R158, R414).
-/
namespace Sys2Proof.Machine

/-- The groups and beats of a next state whose bytes failed parity in this churn. -/
def parFailAfter : Host.Outcome State Fault Refusal → List (Nat × Nat)
  | .next t => t.parFail
  | _ => []

/-- A device at stage 8 where context D of core 0 runs, a1 names the field of position 1, and the first byte of that field fails
parity. -/
def failingNeighbour : State :=
  let x : Context := { Context.zero with active := true, lo := 0, hi := 4096 }
  let s := { State.reset with boot := { State.reset.boot with running := none },
                              mem := { State.reset.mem with chk := [(fieldKey 1 0, 1#8)] } }
  (s.setField offBOOT 3 0 8).setCtx 0 .d (x.setA 1 (BitVec.ofNat 64 (fieldKey 1 0)) false)

/-- Context D of core 0 issues. -/
def ldfIssue : Issue := { core := 0, ctx := .d }

/-- LDF of 8 bytes at a1 into a2. -/
def ldfFields : Fields := { dst := 2, srca := 1, srcb := 0, imm := 0 }

theorem failingNeighbour_issues : failingNeighbour.issues (.ldf ldfIssue ldfFields) :=
  show failingNeighbour.canIssue ldfIssue ldfFields (memUse true ldfFields (ones 30 30 ||| ones 28 28)) by
    unfold State.canIssue
    decide +kernel

/-- The failing byte has passed the port of the position whose field it is from (R154). -/
theorem ldf_carried_by_field_port :
    parFailAfter (exec (.ldf ldfIssue ldfFields) failingNeighbour) = [((Bond.position 0 1 0).index, 0)] := by decide +kernel

/-- Refutes O28: its LDF clause counts failing bytes against the port of the core that reads. Core 0 reads the field of position 1,
whose first byte fails: the bytes pass the port of position 1, and the statement names that of position 0. -/
theorem not_fieldAndCoreStoreAccess : ¬ Obligations.FieldAndCoreStoreAccess := by
  unfold Obligations.FieldAndCoreStoreAccess
  intro h
  obtain ⟨-, -, hldf, -⟩ := h ldfIssue ldfFields failingNeighbour (by decide +kernel)
  obtain ⟨-, -, -, hreads⟩ := hldf failingNeighbour_issues
  obtain ⟨-, hresult⟩ := hreads (by decide +kernel) (by decide +kernel) 1 0 (by decide +kernel)
  have hport := congrArg parFailAfter (hresult (by decide +kernel))
  rw [ldf_carried_by_field_port] at hport
  revert hport
  decide +kernel

end Sys2Proof.Machine
end

section
/-!
PROOFS. Cached loads and stores of station code: addresses, checks, and the requests that enter the memory queue (R131, R174, R412 to
R414, R426, R432).
-/
namespace Sys2Proof.Machine

/-! Address, class and checks. -/

/-- The address of a field or cached access, with its signed offset of 28 bits. -/
theorem memAddr_eq (x : Context) (f : Fields) :
    memAddr x f = (x.getA f.srca.toNat + (f.imm.setWidth 28).signExtend 64).toNat := by
  have hoff : BitVec.ofNat 28 (immBits f 27 0) = f.imm.setWidth 28 := by
    apply BitVec.eq_of_toNat_eq
    rw [immBits_eq]
    simp
  rw [memAddr, addrOf, signedOf, hoff]
  rfl

theorem memCls_eq (f : Fields) : memCls f = f.imm.toNat / 2 ^ 31 % 8 := immBits_eq f 33 31

/-- A memory instruction that need not wait for receives or for room does what follows that check (R426, R429). -/
theorem issue_unstalled {s t : State} {u : Issue} {f : Fields} {use : Use} {body : State → Eff} {e : Eff}
    (h : s.canIssue u f use) (hm : t.memStall u.core.val u.ctx = false)
    (hb : body s = if t.memStall u.core.val u.ctx then .stall else e) : s.issue u f use body = e.ends s u := by
  rw [issue_ends h, hb, if_neg (Bool.eq_false_iff.mp hm)]

/-- The checks of a cached access: ALIGN, then ACCV (R131, R174). -/
theorem exec_inCache {i : Instr} {s t : State} {u : Issue} {size a n : Nat} {store : Bool} {e : Eff}
    (hi : exec i s = .next (Eff.ends s u (if a % size ≠ 0 then .fault t fALIGN
      else if !t.cachedOk n a size store false then .fault (t.accvAt a) fACCV else e))) :
    (a % size ≠ 0 → exec i s = .next (Eff.ends s u (.fault t fALIGN))) ∧
    (a % size = 0 → t.cachedOk n a size store false = false → exec i s = .next (Eff.ends s u (.fault (t.accvAt a) fACCV))) ∧
    (a % size = 0 → t.cachedOk n a size store false = true → exec i s = .next (e.ends s u)) :=
  ⟨fun hal => exec_ends hi (if_pos hal),
    fun hal hno => exec_ends hi ((if_neg (not_not_intro hal)).trans (if_pos (by rw [hno]; rfl))),
    fun hal hyes => exec_ends hi ((if_neg (not_not_intro hal)).trans (if_neg (by rw [hyes]; decide)))⟩

/-! Requests to the caches (R174, R414, R432). -/

theorem pc_taintIf (s : State) (u : Issue) (po : Bool) : ((s.taintIf u po).at u).pc = (s.at u).pc := by
  cases po
  · rfl
  · rw [State.at, State.taintIf, if_pos rfl, State.putAt, ctx_setCtx_same]

/-- The destination of LDC is marked as awaiting a result (R426). -/
def State.awaiting (s : State) (u : Issue) (f : Fields) : State :=
  if immBit f 29 then s.putAt u { s.at u with pendV := (s.at u).pendV ||| BitVec.twoPow 64 f.dst.toNat }
  else if f.dst.toNat = 0 then s
  else s.putAt u { s.at u with pendA := (s.at u).pendA ||| BitVec.twoPow 32 f.dst.toNat }

theorem awaiting_vector {f : Fields} (s : State) (u : Issue) (h : f.imm.getLsbD 29 = true) : s.awaiting u f =
    s.setCtx u.core.val u.ctx { s.at u with pendV := (s.at u).pendV ||| BitVec.twoPow 64 f.dst.toNat } := if_pos h

theorem awaiting_scalar {f : Fields} (s : State) (u : Issue) (h : f.imm.getLsbD 29 = false) : s.awaiting u f =
    if f.dst = 0#6 then s
    else s.setCtx u.core.val u.ctx { s.at u with pendA := (s.at u).pendA ||| BitVec.twoPow 32 f.dst.toNat } := by
  have hzero : f.dst.toNat = 0 ↔ f.dst = 0#6 := BitVec.toNat_inj (y := 0#6)
  refine (if_neg (Bool.eq_false_iff.mp h)).trans ?_
  simp only [hzero]
  rfl

section
variable {s : State} {u : Issue} {f : Fields} (hm : (s.taintIf u ((s.at u).poisA f.srca.toNat)).memStall u.core.val u.ctx = false)
include hm

theorem exec_ldc (h : s.issues (.ldc u f)) : exec (.ldc u f) s =
    let n := u.core.val
    let po := (s.at u).poisA f.srca.toNat
    let t := s.taintIf u po
    let pa := ((s.at u).getA f.srca.toNat + (f.imm.setWidth 28).signExtend 64).toNat
    let d := f.dst.toNat
    .next (Eff.ends s u (if pa % memSize f ≠ 0 then .fault t fALIGN
      else if !t.cachedOk n pa (memSize f) false false then .fault (t.accvAt pa) fACCV
      else .next ((t.awaiting u f).pushReq (.ctx n u.ctx) (s.at u).pc.toNat
        (.ld (if f.imm.getLsbD 29 then .vreg d else .areg d) (f.imm.getLsbD 30) po) pa (memSize f)
        (f.imm.toNat / 2 ^ 31 % 8)))) := by
  rw [← memAddr_eq, ← memCls_eq, ← pc_taintIf s u ((s.at u).poisA f.srca.toNat)]
  exact congrArg Host.Outcome.next (issue_unstalled h hm rfl)

theorem exec_stc (h : s.issues (.stc u f)) : exec (.stc u f) s =
    let n := u.core.val
    let t := s.taintIf u ((s.at u).poisA f.srca.toNat)
    let pa := ((s.at u).getA f.srca.toNat + (f.imm.setWidth 28).signExtend 64).toNat
    let marks := storeMarks (t.at u) f
    .next (Eff.ends s u (if pa % memSize f ≠ 0 then .fault t fALIGN
      else if !t.cachedOk n pa (memSize f) true false then .fault (t.accvAt pa) fACCV
      else .next (t.pushReq (.ctx n u.ctx) (s.at u).pc.toNat
        (.st (storeBytes (t.at u) f) (if f.imm.getLsbD 29 then pois4 marks else quad (marks.any id))) pa (memSize f)
        (f.imm.toNat / 2 ^ 31 % 8)))) := by
  rw [← memAddr_eq, ← memCls_eq, ← pc_taintIf s u ((s.at u).poisA f.srca.toNat)]
  exact congrArg Host.Outcome.next (issue_unstalled h hm rfl)

end

theorem memSize_vector {f : Fields} (h : f.imm.getLsbD 29 = true) : memSize f = 256 := if_pos h

theorem memSize_scalar {f : Fields} (h : f.imm.getLsbD 29 = false) : memSize f = 8 := if_neg (Bool.eq_false_iff.mp h)

/-- Settles O30: after alignment and the rules of cached access one request is added; LDC marks its destination first, by V. -/
theorem cachedInstructionsEnterTheMemoryQueue : Obligations.CachedInstructionsEnterTheMemoryQueue := by
  unfold Obligations.CachedInstructionsEnterTheMemoryQueue
  intro u f s x n po s' y size pa cls fault enter hm
  refine ⟨fun h => ?ldc, fun h => exec_inCache (exec_stc hm h)⟩
  obtain ⟨hmisaligned, hrefused, henters⟩ := exec_inCache (exec_ldc hm h)
  refine ⟨hmisaligned, hrefused,
    fun hal hok => ⟨fun hv => (henters hal hok).trans ?vector, fun hv => (henters hal hok).trans ?scalar⟩⟩
  case vector => rw [awaiting_vector _ u hv, memSize_vector hv, if_pos hv]; rfl
  case scalar => rw [awaiting_scalar _ u hv, memSize_scalar hv, if_neg (Bool.eq_false_iff.mp hv)]; rfl

end Sys2Proof.Machine
end

section
/-!
PROOFS. Split changes, region-table writes and restorations of beats (R132 to R136, R147, R182, R263).
-/
namespace Sys2Proof.Machine

/-! Writes of the split (R132 to R136). -/

theorem offFST_ne_offSPLIT (n : Nat) : offFST n ≠ offSPLIT n := by
  simp only [offFST, offSPLIT]; omega

section
variable {s : State} {n : Nat} {v : Word}

theorem splitRefused_of_hasImage (f : Nat) (h : s.hasImage = true) : s.splitRefused n f = true := by
  simp [State.splitRefused, h]

theorem isK12_of_not_splitRefused {f : Nat} (h : s.splitRefused n f = false) : isK12 n = false := by
  simp only [State.splitRefused, Bool.or_eq_false_iff] at h
  obtain ⟨⟨⟨⟨⟨-, hk⟩, -⟩, -⟩, -⟩, -⟩ := h
  exact hk

theorem splitWrite_refused (h : s.splitRefused n (fieldOf v 4 0) = true) : s.splitWrite n v = s.setBit (offFST n) 8 := if_pos h

theorem splitWrite_starts (h : s.splitRefused n (fieldOf v 4 0) = false) (hne : fieldOf v 4 0 ≠ s.fprop n) : s.splitWrite n v =
    (({ s with splits := tabSet s.splits n (s.fprop n) }.setField (offSPLIT n) 4 0 (fieldOf v 4 0)).setBit (offFST n) 0) :=
  (if_neg (Bool.eq_false_iff.mp h)).trans (if_neg hne)

/-- A refused write shows REJ and changes nothing else. -/
theorem setRej_effect : (s.setBit (offFST n) 8).bit (offFST n) 8 = true ∧
    (s.setBit (offFST n) 8).field (offSPLIT n) 4 0 = s.field (offSPLIT n) 4 0 :=
  ⟨bit_setBit_same s _ 8 (by decide), field_setReg_other s _ 4 0 (offFST_ne_offSPLIT n).symm⟩

/-- A change that starts: FPROP reads the new value, PEND is set, and the old split stays in force (R134). -/
theorem splitWrite_effect (h : s.splitRefused n (fieldOf v 4 0) = false) (hne : fieldOf v 4 0 ≠ s.fprop n) :
    let t := s.splitWrite n v
    tabGet? t.splits n = some (s.fprop n) ∧ t.fprop n = s.fprop n ∧ t.field (offSPLIT n) 4 0 = fieldOf v 4 0 ∧
      t.bit (offFST n) 0 = true ∧ t.mem = s.mem := by
  intro t
  have ht : t = _ := splitWrite_starts h hne
  have hsplits : tabGet? t.splits n = some (s.fprop n) := by rw [ht]; exact tabGet?_tabSet_same ..
  refine ⟨hsplits, ?_, ?_, ?_, by rw [ht, setBit_mem, setField_mem]⟩
  · rw [State.fprop, isK12_of_not_splitRefused h, hsplits]
    rfl
  · rw [ht, State.setBit, field_setField_other _ _ _ _ _ _ (offFST_ne_offSPLIT n).symm, field_setField_same _ _ _ _ _ (by decide)]
    exact Nat.mod_eq_of_lt (fieldOf_lt v 4 0)
  · rw [ht]
    exact bit_setBit_same _ _ 0 (by decide)

end

section
variable {p : Port} {n : Fin 624} {v : Word} {s : State}

theorem exec_fldSplitWrite_acts (hp : s.hearsPort p = true) (hs : s.isSealed = false) :
    exec (.fldSplitWrite p n v) s = .next (s.splitWrite n.val v) :=
  congrArg Host.Outcome.next (if_pos (by rw [hp, hs]; rfl))

theorem exec_fldSplitWrite_ignored (h : s.hearsPort p = false ∨ s.isSealed = true) :
    exec (.fldSplitWrite p n v) s = .next s :=
  congrArg Host.Outcome.next (if_neg (by rcases h with h | h <;> simp [h]))

end

/-! The end of a split change (R134, R179). -/

section
variable {n : Fin 624} {s : State} {a : Nat} (hc : tabGet? s.splits n.val = some a)
include hc

theorem exec_splitChangeComplete_off (hl : s.live = false) : exec (.splitChangeComplete n) s = .next s := by
  refine congrArg Host.Outcome.next ?_
  rw [hc]
  exact if_pos (by rw [hl]; rfl)

theorem exec_splitChangeComplete (hl : s.live = true) :
    let f := s.field (offSPLIT n.val) 4 0
    let u := s.flushSlices fun pos => decide (pos / 156 = n.val / 156)
    exec (.splitChangeComplete n) s = .next (State.clearBit { u with
      mem := u.mem.erase (fieldKey n.val (Nat.min a f * 0x200000)) (fieldKey n.val (Nat.max a f * 0x200000)),
      splits := tabErase u.splits n.val } (offFST n.val) 0) := by
  refine congrArg Host.Outcome.next ?_
  rw [hc]
  exact if_neg (by rw [hl]; decide)

end

/-! Restorations (R147, R263). -/

/-- A flit of a beat of position n fails its parity. -/
def State.beatFails (s : State) (n beat : Nat) : Bool :=
  (List.range 8).any fun i => decide (s.mem.flitState (fieldKey n (512 * beat) / 64 + i) ≠ .good)

theorem beatFails_eq_false_iff {s : State} {n beat : Nat} : s.beatFails n beat = false ↔
    ∀ i, i < 8 → s.mem.flitState (fieldKey n (512 * beat) / 64 + i) = .good := by
  simp [State.beatFails]

/-- What waits for a beat of core n goes on: its engines and its contexts. -/
def State.beatGoesOn (s : State) (n : Nat) : State := ((s.engRun n 0).engRun n 1).settle n

section
variable {n : Fin 624} {beat : Fin 65536} {s : State}

theorem exec_beatRestoration_off (hl : s.live = false) : exec (.beatRestoration n beat) s = .next s :=
  congrArg Host.Outcome.next (if_pos (by rw [hl]; rfl))

theorem exec_beatRestoration (hl : s.live = true) : exec (.beatRestoration n beat) s =
    let x := s.restoreBeat n.val beat.val
    .next (State.beatGoesOn (
      if (s.backAt n.val (512 * beat.val)).isNone || !s.beatFails n.val beat.val || s.copyShut n.val (512 * beat.val) then s
      else if x.1 then x.2.errRec 5 2 (posUnit 11 n.val 0) (512 * beat.val) else x.2) n.val) :=
  congrArg Host.Outcome.next (if_neg (by rw [hl]; decide))

theorem exec_beatRestoration_idle (hl : s.live = true) (h : (s.backAt n.val (512 * beat.val)).isNone = true ∨
    s.beatFails n.val beat.val = false ∨ s.copyShut n.val (512 * beat.val) = true) :
    exec (.beatRestoration n beat) s = .next (s.beatGoesOn n.val) := by
  rw [exec_beatRestoration hl]
  exact congrArg (fun t => Host.Outcome.next (State.beatGoesOn t n.val)) (if_pos (by rcases h with h | h | h <;> simp [h]))

theorem exec_beatRestoration_restores (hl : s.live = true) (hb : (s.backAt n.val (512 * beat.val)).isSome = true)
    (hf : s.beatFails n.val beat.val = true) (hc : s.copyShut n.val (512 * beat.val) = false) {ok : Bool} {w : State}
    (hr : s.restoreBeat n.val beat.val = (ok, w)) : exec (.beatRestoration n beat) s =
      .next (State.beatGoesOn (bif ok then w.errRec 5 2 (posUnit 11 n.val 0) (512 * beat.val) else w) n.val) := by
  have hnone : (s.backAt n.val (512 * beat.val)).isNone = false := by rw [← Option.not_isSome, hb]; rfl
  rw [exec_beatRestoration hl, hr, hnone, hf, hc]
  cases ok <;> rfl

end

/-- Settles O50: a split write is refused or starts a change, the end of one erases the range between the two splits, and a
restoration runs where the beat is backed, fails, and its copies are not shut off. -/
theorem fieldSplitRegionAndRestoration : Obligations.FieldSplitRegionAndRestoration := by
  unfold Obligations.FieldSplitRegionAndRestoration
  refine ⟨fun p n v s => ⟨exec_fldSplitWrite_acts, exec_fldSplitWrite_ignored, ?image, splitWrite_effect⟩,
    fun n s a hc => ⟨exec_splitChangeComplete_off hc, ?complete⟩,
    fun p i lim v s => ⟨fun hp => congrArg Host.Outcome.next (if_pos hp),
      fun hp => congrArg Host.Outcome.next (if_neg (Bool.eq_false_iff.mp hp))⟩,
    fun n beat s => ⟨exec_beatRestoration_off, ?idle, ?restores⟩⟩
  case image =>
    intro hp hs him
    obtain ⟨hrej, hfield⟩ := setRej_effect (s := s) (n := n.val)
    refine ⟨_, exec_fldSplitWrite_acts hp hs, ?_⟩
    rw [splitWrite_refused (splitRefused_of_hasImage _ him)]
    exact ⟨hrej, hfield, setBit_splits .., setBit_mem ..⟩
  case complete =>
    intro hl f u
    refine ⟨_, exec_splitChangeComplete hc hl, ?_, bit_clearBit_same _ _ 0 (by decide), ?_, clearBit_lines .., clearBit_mem ..⟩
    · exact field_setReg_other _ _ 4 0 (offFST_ne_offSPLIT n.val).symm
    · exact (tabGet?_tabErase ..).trans (if_pos rfl)
  case idle =>
    intro hl h
    exact exec_beatRestoration_idle hl (h.imp_right (.imp_left beatFails_eq_false_iff.mpr))
  case restores =>
    intro w hl hb hbad hc
    have hf : s.beatFails n.val beat.val = true := (Bool.not_eq_false _).mp fun h => hbad (beatFails_eq_false_iff.mp h)
    exact ⟨exec_beatRestoration_restores hl hb hf hc (ok := false), exec_beatRestoration_restores hl hb hf hc (ok := true)⟩

end Sys2Proof.Machine
end

section
/-!
PROOFS. RED, CHUCK, UNCHUCK and CWB of station code (R199 to R202, R205, R227, R413 to R415).
-/
namespace Sys2Proof.Machine

/-! Operands. -/

/-- The context of an issue after it has taken in the poison of an operand (R384). -/
theorem at_taintIf (s : State) (u : Issue) (po : Bool) :
    (s.taintIf u po).at u = { s.at u with taint := po || (s.at u).taint } := by
  cases po
  · rfl
  · rw [State.at, State.taintIf, if_pos rfl, State.putAt, ctx_setCtx_same]; rfl

theorem getV_taintIf (s : State) (u : Issue) (po : Bool) (i : Nat) : ((s.taintIf u po).at u).getV i = (s.at u).getV i := by
  rw [at_taintIf]; rfl

/-- The address of RED, with its signed offset of 25 bits. -/
theorem addrOf_signed25 (x : Context) (f : Fields) :
    addrOf x f (signedOf 25 (immBits f 24 0)) = (x.getA f.srca.toNat + (f.imm.setWidth 25).signExtend 64).toNat := by
  have hoff : BitVec.ofNat 25 (immBits f 24 0) = f.imm.setWidth 25 := by
    apply BitVec.eq_of_toNat_eq
    rw [immBits_eq]
    simp
  rw [addrOf, signedOf, hoff]
  rfl

section
variable (f : Fields)

theorem immBits_redSize : immBits f 30 29 = f.imm.toNat / 2 ^ 29 % 4 := immBits_eq f 30 29
theorem immBits_redType : immBits f 28 27 = f.imm.toNat / 2 ^ 27 % 4 := immBits_eq f 28 27
theorem immBits_redOp : immBits f 26 25 = f.imm.toNat / 2 ^ 25 % 4 := immBits_eq f 26 25
theorem immBits_chuckRegion : immBits f 33 28 = f.imm.toNat / 2 ^ 28 % 64 := immBits_eq f 33 28
theorem immBits_chuckPriority : immBits f 27 25 = f.imm.toNat / 2 ^ 25 % 8 := immBits_eq f 27 25
theorem immBits_chuckClass : immBits f 24 22 = f.imm.toNat / 2 ^ 22 % 8 := immBits_eq f 24 22

theorem immBits_flushOp : immBits f 1 0 = f.imm.toNat % 4 :=
  (immBits_eq f 1 0).trans (congrArg (· % 4) (Nat.div_one _))

end

/-! RED (R205, R415). -/

/-- SIZE, TYPE or OP of a RED holds its reserved value (R415). -/
def redReserved (f : Fields) : Prop :=
  f.imm.toNat / 2 ^ 29 % 4 = 3 ∨ f.imm.toNat / 2 ^ 27 % 4 = 3 ∨ f.imm.toNat / 2 ^ 25 % 4 = 3

section
variable {u : Issue} {f : Fields} {s : State}

theorem exec_red_reserved (h : s.issues (.red u f)) (hr : redReserved f) :
    exec (.red u f) s = .next (Eff.ends s u (.fault s fILL)) := by
  rw [redReserved, ← immBits_redSize, ← immBits_redType, ← immBits_redOp] at hr
  exact congrArg Host.Outcome.next ((issue_ends h _).trans (congrArg (Eff.ends s u) (if_pos hr)))

/-- The reduction that a RED asks for: its operand is the low bytes of vB, poisoned with the first quarter or by the context's
taint (R205, R384). -/
def State.redAsked (s : State) (u : Issue) (f : Fields) (pa : Nat) : RedOp :=
  let t := s.taintIf u ((s.at u).poisA f.srca.toNat)
  let v := (s.at u).getV f.srcb.toNat
  { off := pa % 256, data := v.bytes.take (4 * 2 ^ (f.imm.toNat / 2 ^ 29 % 4)), ty := f.imm.toNat / 2 ^ 27 % 4,
    op := f.imm.toNat / 2 ^ 25 % 4, pois := (t.at u).taint || v.pois.getLsbD 0, sat := false,
    cls := f.imm.toNat / 2 ^ 31 % 8, core := u.core.val }

/-- A legal RED that need not wait is checked for ALIGN and ACCV, and then sends one request. -/
theorem exec_red (h : s.issues (.red u f)) (hr : ¬ redReserved f)
    (hm : (s.taintIf u ((s.at u).poisA f.srca.toNat)).memStall u.core.val u.ctx = false) :
    exec (.red u f) s =
      let n := u.core.val
      let t := s.taintIf u ((s.at u).poisA f.srca.toNat)
      let pa := ((s.at u).getA f.srca.toNat + (f.imm.setWidth 25).signExtend 64).toNat
      let size := 4 * 2 ^ (f.imm.toNat / 2 ^ 29 % 4)
      .next (Eff.ends s u (if pa % size ≠ 0 then .fault t fALIGN
        else if !t.cachedOk n pa size true true then .fault (t.accvAt pa) fACCV
        else .next (t.pushReq (.ctx n u.ctx) (s.at u).pc.toNat (.red (s.redAsked u f pa)) pa size
          (f.imm.toNat / 2 ^ 31 % 8)))) := by
  refine congrArg Host.Outcome.next (issue_unstalled h hm ?_)
  rw [redReserved] at hr
  simp only [addrOf_signed25, memCls_eq, immBits_redSize, immBits_redType, immBits_redOp, pc_taintIf, getV_taintIf, if_neg hr,
    State.redAsked]

/-- The checks of a RED, one case each. -/
theorem exec_red_cases (h : s.issues (.red u f)) (hr : ¬ redReserved f)
    (hm : (s.taintIf u ((s.at u).poisA f.srca.toNat)).memStall u.core.val u.ctx = false) :
    let n := u.core.val
    let t := s.taintIf u ((s.at u).poisA f.srca.toNat)
    let pa := ((s.at u).getA f.srca.toNat + (f.imm.setWidth 25).signExtend 64).toNat
    let size := 4 * 2 ^ (f.imm.toNat / 2 ^ 29 % 4)
    (pa % size ≠ 0 → exec (.red u f) s = .next (Eff.ends s u (.fault t fALIGN))) ∧
    (pa % size = 0 → t.cachedOk n pa size true true = false →
      exec (.red u f) s = .next (Eff.ends s u (.fault (t.accvAt pa) fACCV))) ∧
    (pa % size = 0 → t.cachedOk n pa size true true = true →
      exec (.red u f) s = .next (Eff.ends s u (.next (t.pushReq (.ctx n u.ctx) (s.at u).pc.toNat
        (.red (s.redAsked u f pa)) pa size (f.imm.toNat / 2 ^ 31 % 8))))) :=
  ⟨fun hal => exec_ends (exec_red h hr hm) (if_pos hal),
    fun hal hno => exec_ends (exec_red h hr hm) ((if_neg (not_not_intro hal)).trans (if_pos (by rw [hno]; rfl))),
    fun hal hyes => exec_ends (exec_red h hr hm) ((if_neg (not_not_intro hal)).trans (if_neg (by rw [hyes]; decide)))⟩

end

/-! CHUCK and UNCHUCK (R199 to R202). -/

/-- What CHUCK does with its range, from the place that its context keeps (R199). -/
def State.chuckAsked (s : State) (u : Issue) (f : Fields) : (Word ⊕ Nat × Nat) × State :=
  let x := s.at u
  (s.taintIf u (x.poisA f.srca.toNat || x.poisA f.srcb.toNat)).chuckRange ((x.getA f.srca.toNat).toNat / 256)
    (x.getA f.srcb.toNat).toNat (BitVec.ofNat 6 (f.imm.toNat / 2 ^ 28 % 64)) (f.imm.toNat / 2 ^ 25 % 8)
    (f.imm.toNat / 2 ^ 22 % 8) (x.chuck.getD (0, 0))

section
variable {u : Issue} {f : Fields} {s : State}

section
variable (h : s.issues (.chuck u f))
  (hm : (s.taintIf u ((s.at u).poisA f.srca.toNat || (s.at u).poisA f.srcb.toNat)).memStall u.core.val u.ctx = false)
include h hm

/-- A range that ended gives its status to aD, and no place is kept. -/
theorem exec_chuck_ends {v : Word} {w : State} (hr : s.chuckAsked u f = (.inl v, w)) :
    exec (.chuck u f) s = .next (Eff.ends s u (.next ((w.putAt u { w.at u with chuck := none }).putA u f.dst v
      ((s.at u).poisA f.srca.toNat || (s.at u).poisA f.srcb.toNat)))) := by
  refine congrArg Host.Outcome.next (issue_unstalled h hm ?_)
  rw [State.chuckAsked] at hr
  simp only [immBits_chuckRegion, immBits_chuckPriority, immBits_chuckClass, lineOf, hr]

/-- A range that waits keeps its place. -/
theorem exec_chuck_waits {k : Nat × Nat} {w : State} (hr : s.chuckAsked u f = (.inr k, w)) :
    exec (.chuck u f) s = .next (Eff.ends s u (.hold (w.putAt u { w.at u with chuck := some k }))) := by
  refine congrArg Host.Outcome.next (issue_unstalled h hm ?_)
  rw [State.chuckAsked] at hr
  simp only [immBits_chuckRegion, immBits_chuckPriority, immBits_chuckClass, lineOf, hr]

end

theorem exec_unchuck (h : s.issues (.unchuck u f)) (hm : s.memStall u.core.val u.ctx = false) :
    exec (.unchuck u f) s =
      .next (Eff.ends s u (.next (s.unchuckRegion (BitVec.ofNat 6 (f.imm.toNat / 2 ^ 28 % 64))))) := by
  rw [← immBits_chuckRegion]
  exact congrArg Host.Outcome.next (issue_unstalled h hm rfl)

/-! CWB (R201, R227). -/

/-- CWB waits while its range is busy or its controllers do not take its accesses; else it flushes the range. -/
theorem exec_cwb (h : s.issues (.cwb u f))
    (hm : (s.taintIf u ((s.at u).poisA f.srca.toNat || (s.at u).poisA f.srcb.toNat)).memStall u.core.val u.ctx = false) :
    exec (.cwb u f) s =
      let x := s.at u
      let t := s.taintIf u (x.poisA f.srca.toNat || x.poisA f.srcb.toNat)
      let lo := (x.getA f.srca.toNat).toNat / 256
      let hi := lo + (x.getA f.srcb.toNat).toNat
      let op := f.imm.toNat % 4
      .next (Eff.ends s u (if t.lineBusy lo hi || !t.flushGo lo hi op fun _ => true then .stall
        else .next (t.flushRange lo hi op none fun _ => true))) := by
  rw [← immBits_flushOp]
  refine congrArg Host.Outcome.next ((issue_ends h _).trans ?_)
  simp only [hm, Bool.false_or, lineOf]

end

/-! The obligation. -/

/-- Settles O31: each instruction by its equation; RED by its checks, CHUCK by how its range ended, CWB by whether it may flush. -/
theorem reductionsChucksAndWriteBacks : Obligations.ReductionsChucksAndWriteBacks := by
  unfold Obligations.ReductionsChucksAndWriteBacks
  intro u f s x n fault go a b pa sz size ty op s1 s2
  refine ⟨fun h => ⟨exec_red_reserved h, exec_red_cases h⟩, fun h hm => ?chuck, exec_unchuck, fun h hm => ?cwb⟩
  case chuck => exact ⟨fun v hv => exec_chuck_ends h hm (Prod.ext hv rfl), fun k hk => exec_chuck_waits h hm (Prod.ext hk rfl)⟩
  case cwb =>
    refine ⟨fun ⟨hidle, hgo⟩ => exec_ends (exec_cwb h hm) (if_neg ?on), fun hoff => exec_ends (exec_cwb h hm) (if_pos ?off)⟩
    case on => exact Bool.eq_false_iff.mp (Bool.or_eq_false_iff.mpr ⟨hidle, congrArg (!·) hgo⟩)
    case off =>
      refine (Bool.not_eq_false _).mp fun hfree => hoff ?_
      obtain ⟨hidle, hgo⟩ := Bool.or_eq_false_iff.mp hfree
      exact ⟨hidle, by simpa using hgo⟩

end Sys2Proof.Machine
end

section
/-!
PROOFS. Home slices: what a controller and a slice find after the steps that they share, and the bytes of a fill (R184, R188, R212,
R217, R219).
-/
namespace Sys2Proof.Machine

/-! What reports and the shared steps leave unchanged. -/

section
variable {s t : State} (h : s.Reports t)
include h

theorem State.Reports.lines_eq : t.lines = s.lines := by rw [show t = _ from h]
theorem State.Reports.fills_eq : t.fills = s.fills := by rw [show t = _ from h]
theorem State.Reports.evicts_eq : t.evicts = s.evicts := by rw [show t = _ from h]
theorem State.Reports.cmem_eq : t.cmem = s.cmem := by rw [show t = _ from h]
theorem State.Reports.withCmem (m : Store) : State.Reports { s with cmem := m } { t with cmem := m } := by
  rw [show t = _ from h]
  rfl
theorem State.Reports.ctl_eq (c : Nat) : t.ctl c = s.ctl c := by rw [show t = _ from h]; rfl

end

/-- The read of a fill is asked for, now or later; the lines stay. -/
theorem sendFill_lines (s : State) (pos ln cls : Nat) (alloc : Bool) : (s.sendFill pos ln cls alloc).lines = s.lines := by
  unfold State.sendFill
  split <;> rfl

/-- A masked write joins the queue of the controller that owns the line (R244). -/
theorem sendWrite_queues (s : State) (src ln : Nat) (mask : BitVec 256) (data : List Byte) (po : BitVec 4) (cls : Nat)
    (who : WriteFor) (acked : Bool) : ∃ w : MemWrite,
      ((s.sendWrite src ln mask data po cls who acked).ctl (ctlOf (256 * ln))).writes = (s.ctl (ctlOf (256 * ln))).writes ++ [w] ∧
      w.pa = 256 * ln ∧ w.mask = mask ∧ w.data = data ∧ w.pois = po ∧ w.cls = cls ∧ w.who = who ∧ w.acked = acked :=
  ⟨_, congrArg Controller.writes (ctl_setCtl_same ..), rfl, rfl, rfl, rfl, rfl, rfl, rfl⟩

/-! Bytes of a line. -/

theorem memRead_length (m : Memory) (a n : Nat) : (memRead m a n).length = n := by simp [memRead]

theorem memRead_getD (m : Memory) (a : Nat) {n i : Nat} (h : i < n) : (memRead m a n).getD i 0#8 = memByte m (a + i) := by
  simp [memRead, List.getD_eq_getElem?_getD, h]

/-- A byte of a line that is completed from memory: under the mask that of the slice, else that of memory (R184). -/
theorem mergeUnder_byte (m : BitVec 256) {own mem : List Byte} (op mp : BitVec 4) (hl : own.length = mem.length) (i : Nat) :
    (mergeUnder m own op mem mp).1.getD i 0#8 = if m.getLsbD i then own.getD i 0#8 else mem.getD i 0#8 := by
  simp only [mergeUnder, masked, List.getD_eq_getElem?_getD]
  rw [List.getElem?_zipWith]
  by_cases hi : i < mem.length
  · have ho : i < own.length := hl ▸ hi
    simp [hi, ho]
  · have ho : ¬ i < own.length := hl ▸ hi
    simp [hi, ho]

/-- The poison of a flit of such a line: that of the slice, and that of memory unless the mask covers the flit (R184, R217). -/
theorem mergeUnder_pois (m : BitVec 256) (own : List Byte) (op : BitVec 4) (mem : List Byte) (mp : BitVec 4) {q : Nat}
    (hq : q < 4) : (mergeUnder m own op mem mp).2.getLsbD q =
      (op.getLsbD q || (mp.getLsbD q && !covers m (64 * q) 64)) := by
  rw [mergeUnder, maskBy_getLsbD, decide_eq_true hq, Bool.true_and]

/-! The parity check of a line that memory cannot give again (R219). -/

section
variable (s : State) (ln : Nat) (l : Line)

/-- The check alters nothing of a line but its poison. -/
theorem markBad_line : (s.markBad ln l).1 = { l with pois := (s.markBad ln l).1.pois } := by
  simp only [State.markBad]
  split <;> rfl

/-- The flits that fail are poisoned, beside those that were. -/
theorem markBad_pois {q : Nat} (hq : q < 4) :
    (s.markBad ln l).1.pois.getLsbD q = (l.pois.getLsbD q || (s.badFlits ln).contains q) := by
  simp only [State.markBad]
  split
  · rename_i hb
    rw [List.isEmpty_iff.mp hb]
    exact (Bool.or_false _).symm
  · rw [BitVec.getLsbD_or, maskBy_getLsbD, decide_eq_true hq, Bool.true_and]

/-- Updates of the check bits alone leave the bytes of a store. -/
theorem foldl_bytes {α : Type} {f : Store → α → Store} (hf : ∀ st x, (f st x).bytes = st.bytes) (l : List α) (st : Store) :
    (l.foldl f st).bytes = st.bytes := by
  induction l generalizing st with
  | nil => rfl
  | cons x l ih => exact (ih _).trans (hf st x)

/-- The check alters the check bits of the cache memory, never its bytes, and reports. -/
theorem markBad_state : (s.markBad ln l).2.cmem.bytes = s.cmem.bytes ∧
    State.Reports { s with cmem := (s.markBad ln l).2.cmem } (s.markBad ln l).2 := by
  simp only [State.markBad]
  split
  · exact ⟨rfl, .refl s⟩
  · have hr : s.Reports ((s.setBit (offSLICE l.pos) 20).errRec 15 3 (posUnit 4 l.pos 0)
        (256 * ln + 64 * (s.badFlits ln).headD 0)) := (errRec_reports ..).after (.setBit (.refl s) ..)
    refine ⟨(foldl_bytes ?_ _ _).trans (congrArg Store.bytes hr.cmem_eq), hr.withCmem _⟩
    exact fun _ _ => rfl

end

end Sys2Proof.Machine
end

section
/-!
PROOFS. Cache events: probes, flushes, requests at their slices, fills, reductions, skimmed lines and write-backs (R186, R187, R191,
R194, R199, R201, R206 to R214, R219, R226, R227, R246, R432, R433, R813).
-/
namespace Sys2Proof.Machine

/-! Probes and flushes (R201, R226, R227). -/

section
variable {st : Fin 4} {s : State}

theorem exec_cacheProbe (v : Word) (hl : s.live = true) :
    let w : State := { s.setField (offCACHE st.val + 0x18) 47 8 (fieldOf v 47 8) with freeCtr := s.freeCtr + 1 }
    exec (.cacheProbe st v) s = .next (w.setReg (offCACHE st.val + 0x20)
      (w.probe st.val (256 * fieldOf v 47 8) (Config.freeValue s.freeCtr).toNat)) :=
  congrArg Host.Outcome.next (if_neg (by rw [hl]; decide))

/-- The flush that a write of CACHE_FLUSH_CTL asks for: its range from the registers, its region from the value (R227). -/
def State.flushAsked (s : State) (st : Fin 4) (v : Word) (op : Nat) : Flush :=
  { base := s.field (offCACHE st.val + 0x28) 47 8, len := s.field (offCACHE st.val + 0x30) 39 0 + 1, op := op,
    chid := if bitOf v 3 then some (BitVec.ofNat 6 (fieldOf v 9 4)) else none }

theorem startFlush_starts (v : Word) (op : Nat) (hl : s.live = true) (hf : tabGet? s.flushes st.val = none) :
    s.startFlush st v op =
      State.setBit { s with flushes := tabSet s.flushes st.val (s.flushAsked st v op) } (offCACHE st.val + 8) 16 :=
  if_neg (by rw [hl, hf]; decide)

theorem startFlush_ignored (v : Word) (op : Nat) (hf : (tabGet? s.flushes st.val).isSome = true) : s.startFlush st v op = s :=
  if_pos (by rw [hf, Bool.or_true])

/-- A flush that starts is kept with its range and region, FBUSY is set, and no line is touched yet. -/
theorem startFlush_effect (v : Word) (op : Nat) (hl : s.live = true) (hf : tabGet? s.flushes st.val = none) :
    let t := s.startFlush st v op
    tabGet? t.flushes st.val = some (s.flushAsked st v op) ∧ t.bit (offCACHE st.val + 8) 16 = true ∧ t.lines = s.lines ∧
      t.mem = s.mem ∧ t.cmem = s.cmem := by
  intro t
  rw [show t = _ from startFlush_starts v op hl hf]
  exact ⟨tabGet?_tabSet_same .., bit_setBit_same _ _ 16 (by decide), rfl, rfl, rfl⟩

variable {f : Flush} (hl : s.live = true) (hf : tabGet? s.flushes st.val = some f)
include hl hf

/-- A flush waits while its range is busy or its controllers do not take its accesses; else it handles its lines and ends. -/
theorem exec_flushComplete :
    let mine (l : Line) : Bool := decide (l.pos / 156 = st.val)
    let w := s.flushRange f.base (f.base + f.len) f.op f.chid mine
    exec (.flushComplete st) s = .next (
      if s.lineBusy f.base (f.base + f.len) || !s.flushGo f.base (f.base + f.len) f.op mine then s
      else State.clearBit { w with flushes := tabErase w.flushes st.val } (offCACHE st.val + 8) 16) := by
  refine congrArg Host.Outcome.next ?_
  simp only [hf, hl, Bool.not_true, Bool.false_or]

end

/-! Requests at their home slices (R177, R206, R236, R432). -/

theorem exec_sliceRequest {i : Nat} {s : State} {r : Req} (hl : s.live = true) (hr : s.reqs[i]? = some r) (hs : r.stage = .sent) :
    exec (.sliceRequest i) s = .next (
      if s.reqRefused r then s.refuseReq r
      else if s.reqHeld r then s
      else if s.reqBehind i r then s.arrive r
      else ((s.arrive r).serve r).memEvent) := by
  refine congrArg Host.Outcome.next ?_
  rw [hr]
  exact if_neg (by rw [hl, hs]; decide)

/-! Fills (R186, R191, R195, R207, R212). -/

/-- A load with SKIM waits for the fill of a line (R195). -/
def State.skimWaits (s : State) (ln : Nat) : Bool :=
  s.reqs.any fun r => decide (lineOf r.pa = ln) && decide (r.stage = .filling) && r.isSkim

section
variable {s t : State} {ln : Nat} {f : Fill} {bytes : List Byte}

theorem exec_lineFill (hl : s.live = true) (hf : tabGet? s.fills ln = some f) (hd : f.data = some bytes)
    (ht : s.fillLine ln f bytes = t) : exec (.lineFill ln) s = .next t.memEvent := by
  refine congrArg Host.Outcome.next ?_
  simp only [hf, hd, ht]
  exact if_pos hl

theorem fillData_plain (he : tabGet? s.evicts ln = none) (hlate : f.late = none) : s.fillData ln f bytes = (bytes, f.pois) := by
  simp only [State.fillData, he, hlate]

/-- A fill without a frame serves its loads alone. -/
theorem fillLine_absent (hn : tabGet? s.lines ln = none) :
    s.fillLine ln f bytes = State.servePassing { s with fills := tabErase s.fills ln } ln (s.fillData ln f bytes).1
      (s.fillData ln f bytes).2 := by
  simp only [State.fillLine, hn]

/-- The bytes and poison of a line with a frame, merged with its fill under its mask. -/
def State.fillMerged (s : State) (ln : Nat) (f : Fill) (bytes : List Byte) (l : Line) : List Byte × BitVec 4 :=
  mergeUnder l.mask (s.cmem.read (256 * ln) 256) l.pois (s.fillData ln f bytes).1 (s.fillData ln f bytes).2

section
variable {l : Line} (hline : tabGet? s.lines ln = some l)
include hline

/-- A FILLING line becomes CLEAN with the bytes of its fill. -/
theorem fillLine_filling (hs : l.state = 5#3) :
    let w := State.writeCache { s with fills := tabErase s.fills ln } l.pos (256 * ln) (s.fillData ln f bytes).1
    let l' : Line := { l with state := 1#3, mask := 0#256, pois := (s.fillData ln f bytes).2,
                              birth := tabGetD w.setAcc l.home.key 0 }
    let v := (w.putLine ln l').serveWaiting ln (s.fillData ln f bytes).2
    s.fillLine ln f bytes = (if s.skimWaits ln then v.skimmed ln else v).tryPair ln := by
  simp only [State.fillLine, hline, hs, if_true]
  rfl

/-- A line with bytes of its own takes those that its mask lacks; a PARTIAL one becomes DIRTY. -/
theorem fillLine_resident (hs : l.state ≠ 5#3) :
    let d := s.fillMerged ln f bytes l
    let l' : Line := { l with state := if l.state = 3#3 then 2#3 else l.state, pois := d.2 }
    let v := (State.putLine { s with fills := tabErase s.fills ln, cmem := s.cmem.write (256 * ln) d.1 } ln l').serveWaiting ln d.2
    s.fillLine ln f bytes = if s.skimWaits ln then v.skimmed ln else v := by
  simp only [State.fillLine, hline, hs, if_false]
  rfl

end

end

/-! Reductions (R207 to R209, R214, R219). -/

section
variable {s : State} {ln : Nat} {l : Line} {op : RedOp} {who : Option Nat} {rest : List (RedOp × Option Nat)}

theorem redMay_iff : s.redMay ln l op = true ↔ l.state ≠ 5#3 ∧ l.state ≠ 3#3 ∧ s.vacating l.pos = false ∧
    (isK12 l.pos = false ∨ s.mayIssue (sliceOf l.pos) op.cls (ctlOf (256 * ln)) = true) := by
  simp [State.redMay, and_assoc]

theorem redMay_eq_false (h : l.state = 5#3 ∨ l.state = 3#3 ∨ s.vacating l.pos = true ∨
    (isK12 l.pos = true ∧ s.mayIssue (sliceOf l.pos) op.cls (ctlOf (256 * ln)) = false)) : s.redMay ln l op = false := by
  rw [Bool.eq_false_iff]
  intro hm
  obtain ⟨h5, h3, hv, hgo⟩ := redMay_iff.mp hm
  obtain h | h | h | ⟨hk, hno⟩ := h
  · exact h5 h
  · exact h3 h
  · exact absurd (hv.symm.trans h) Bool.false_ne_true
  · exact hgo.elim (fun hk' => absurd (hk'.symm.trans hk) Bool.false_ne_true)
      fun hgo' => absurd (hno.symm.trans hgo') Bool.false_ne_true

theorem checkLine_good {cls : Nat} (hb : s.badFlits ln = []) : s.checkLine ln cls = s := by
  unfold State.checkLine
  split
  · rfl
  · exact if_pos (by rw [hb, List.isEmpty_nil, Bool.or_true])

/-- A CLEAN line alone in its frame that fails parity is read again: it is FILLING, and its reductions stay queued. -/
theorem checkLine_rereads (cls : Nat) (hline : tabGet? s.lines ln = some l) (hs : l.state = 1#3) (hb : s.badFlits ln ≠ [])
    (hc : l.curd = false) :
    tabGet? (s.checkLine ln cls).lines ln = some { l with state := 5#3, mask := 0#256, pois := 0#4 } := by
  have hgood : (s.badFlits ln).isEmpty = false := List.isEmpty_eq_false_iff.mpr hb
  simp only [State.checkLine, hline, hs, hgood, hc]
  rw [if_neg (by decide), if_pos trivial, if_neg (by decide), sendFill_lines]
  exact lines_putLine_same ..

theorem applyRed_cached (hk : isK12 l.pos = false) : s.applyRed ln l op who rest =
    (s.redHere ln l op false).1.putLine ln { (s.redHere ln l op false).2 with reds := rest } := by
  simp only [State.applyRed, hk]
  rfl

/-- In a write-through slice the reduced bytes go to memory, and the request is complete. -/
theorem applyRed_through (hk : isK12 l.pos = true) : s.applyRed ln l op who rest =
    let l' := (s.redHere ln l op true).2
    let u := (s.redHere ln l op true).1.putLine ln { l' with reds := rest }
    let v := (u.sendWrite (sliceOf l.pos) ln (byteMask op.off op.data.length) (u.cmem.read (256 * ln) 256) l'.pois op.cls
      .silent true).measured (sliceOf l.pos) op.cls (ctlOf (256 * ln)) u.time
    match who with
    | some id => v.finishReq id
    | none => v := by
  simp only [State.applyRed, hk]
  rfl

section
variable (hl : s.live = true) (hline : tabGet? s.lines ln = some l) (hred : l.reds = (op, who) :: rest)
include hline hred

theorem exec_redApply_waits (hm : s.redMay ln l op = false) : exec (.redApply ln) s = .next s := by
  refine congrArg Host.Outcome.next ?_
  simp only [hline, hred, hm, Bool.not_false, Bool.or_true, if_true]

include hl

theorem exec_redApply {t : State} (hm : s.redMay ln l op = true) (hb : s.badFlits ln = [])
    (ht : s.applyRed ln l op who rest = t) : exec (.redApply ln) s = .next t.memEvent := by
  obtain ⟨hs, -⟩ := redMay_iff.mp hm
  refine congrArg Host.Outcome.next ?_
  simp only [hline, hred, hm, hl, checkLine_good hb, hs, ht]
  rfl

/-- A line that must be read again waits for its fill. -/
theorem exec_redApply_rereads (hm : s.redMay ln l op = true) (hs : l.state = 1#3) (hb : s.badFlits ln ≠ [])
    (hc : l.curd = false) : exec (.redApply ln) s = .next (s.checkLine ln op.cls) := by
  refine congrArg Host.Outcome.next ?_
  simp only [hline, hred, hm, hl, checkLine_rereads op.cls hline hs hb hc]
  rfl

end

end

/-! Skimmed lines (R194). -/

theorem exec_skimDrop {s : State} {ln : Nat} {l : Line} (hl : s.live = true) (hline : tabGet? s.lines ln = some l)
    (hskim : l.skim = true) (hc : l.chuck = none) (hred : l.reds = []) (hw : s.lineWaits ln = false) (hs : l.state ≠ 5#3)
    (hf : tabGet? s.fills ln = none) : exec (.skimDrop ln) s = .next (s.dropLine ln) := by
  refine congrArg Host.Outcome.next ?_
  rw [hline]
  exact if_neg (by simp [hl, hskim, hc, hred, hw, hs, hf])

/-! Write-backs (R188, R212, R219, R246, R813). -/

/-- The fills in flight after a write-back of a line is issued: what it holds lies over the data of a fill of the line (R212). -/
def State.fillsUnder (s : State) (ln : Nat) (held : BitVec 256 × List Byte × BitVec 4) : List (Nat × Fill) :=
  match tabGet? s.fills ln with
  | some f => tabSet s.fills ln { f with late := some held }
  | none => s.fills

theorem tabGet?_fillsUnder {s : State} {ln : Nat} {f : Fill} (held : BitVec 256 × List Byte × BitVec 4)
    (hf : tabGet? s.fills ln = some f) : tabGet? (s.fillsUnder ln held) ln = some { f with late := some held } := by
  rw [State.fillsUnder, hf]
  exact tabGet?_tabSet_same ..

/-- The slice's side of a write-back of a checked copy: the copy is marked as issued, and what it holds lies over a fill (R188). -/
def State.backIssued (s : State) (ln : Nat) (e : Evict) : State :=
  { s with evicts := tabSet (tabSet s.evicts ln e) ln { e with issued := true },
           fills := s.fillsUnder ln (e.line.mask, s.cmem.read (256 * ln) 256, e.line.pois) }

/-- The write-back of a checked copy is sent and counted (R188, R762). -/
def State.sendBack (s : State) (src ln : Nat) (e : Evict) : State :=
  ((s.backIssued ln e).sendWrite src ln e.line.mask (s.cmem.read (256 * ln) 256) e.line.pois e.line.cls (.evict ln)
    false).countSlice e.line.pos 17 e.line.cls

/-- What the write-back of a checked copy leaves: the copy's line in one queued write, the copy as issued, and memory untouched. -/
theorem sendBack_effect (s : State) (src ln : Nat) (e : Evict) :
    let t := s.sendBack src ln e
    let c := ctlOf (256 * ln)
    ∃ w : MemWrite, (t.ctl c).writes = (s.ctl c).writes ++ [w] ∧ w.pa = 256 * ln ∧ w.mask = e.line.mask ∧
      w.data = s.cmem.read (256 * ln) 256 ∧ w.pois = e.line.pois ∧ w.cls = e.line.cls ∧ w.who = .evict ln ∧ w.acked = false ∧
      tabGet? t.evicts ln = some { e with issued := true } ∧
      (∀ f : Fill, tabGet? s.fills ln = some f →
        tabGet? t.fills ln = some { f with late := some (w.mask, w.data, w.pois) }) ∧ t.mem = s.mem ∧ t.lines = s.lines := by
  intro t c
  let here := s.cmem.read (256 * ln) 256
  let u := (s.backIssued ln e).sendWrite src ln e.line.mask here e.line.pois e.line.cls (.evict ln) false
  have hcount : u.Reports t := count_reports u (0x500 + e.line.pos) (17 + e.line.cls) 1
  obtain ⟨w, hq, hpa, hmask, hdata, hpois, hcls, hwho, hack⟩ :=
    sendWrite_queues (s.backIssued ln e) src ln e.line.mask here e.line.pois e.line.cls (.evict ln) false
  refine ⟨w, ?queue, hpa, hmask, hdata, hpois, hcls, hwho, hack, ?copy, fun f hf => ?fill, hcount.kept.1, hcount.lines_eq⟩
  case queue => rw [hcount.ctl_eq]; exact hq
  case copy => rw [hcount.evicts_eq]; exact tabGet?_tabSet_same ..
  case fill => rw [hcount.fills_eq, hmask, hdata, hpois]; exact tabGet?_fillsUnder _ hf

section
variable {s : State} {ln : Nat} {e : Evict}

theorem issueBack_eq : s.issueBack ln e =
    (s.markBad ln e.line).2.sendBack (sliceOf e.line.pos) ln { e with line := (s.markBad ln e.line).1 } := rfl

/-- One write joins the controller's queue, with the line's mask and bytes, and its marks and those of the flits that fail; the copy
is marked as issued, and a fill in flight keeps what the write holds. -/
theorem issueBack_effect :
    let t := s.issueBack ln e
    let c := ctlOf (256 * ln)
    ∃ w : MemWrite, (t.ctl c).writes = (s.ctl c).writes ++ [w] ∧ w.pa = 256 * ln ∧ w.mask = e.line.mask ∧
      w.data = s.cmem.read (256 * ln) 256 ∧ w.cls = e.line.cls ∧ w.who = .evict ln ∧ w.acked = false ∧
      (∀ q, q < 4 → w.pois.getLsbD q = (e.line.pois.getLsbD q || (s.badFlits ln).contains q)) ∧
      (∃ e' : Evict, tabGet? t.evicts ln = some e' ∧ e'.issued = true ∧ e'.line.pois = w.pois) ∧
      (∀ f : Fill, tabGet? s.fills ln = some f →
        tabGet? t.fills ln = some { f with late := some (w.mask, w.data, w.pois) }) ∧ t.mem = s.mem ∧ t.lines = s.lines := by
  intro t c
  rw [show t = _ from issueBack_eq]
  have hline := markBad_line s ln e.line
  have hmarks (q : Nat) := markBad_pois (q := q) s ln e.line
  obtain ⟨hbytes, hchecked⟩ := markBad_state s ln e.line
  generalize s.markBad ln e.line = r at *
  obtain ⟨w, hq, hpa, hmask, hdata, hpois, hcls, hwho, hack, hcopy, hfill, hmem, hlines⟩ :=
    sendBack_effect r.2 (sliceOf e.line.pos) ln { e with line := r.1 }
  refine ⟨w, ?queue, hpa, ?mask, ?data, ?cls, hwho, hack, fun q hq4 => ?pois, ⟨_, hcopy, rfl, hpois.symm⟩,
    fun f hf => hfill f (hchecked.fills_eq ▸ hf), hmem.trans hchecked.kept.1, hlines.trans hchecked.lines_eq⟩
  case queue => rw [hq, hchecked.ctl_eq]; rfl
  case mask => rw [hmask, hline]
  case data => rw [hdata]; exact congrArg (memRead · (256 * ln) 256) hbytes
  case cls => rw [hcls, hline]
  case pois => rw [hpois]; exact hmarks q hq4

section
variable (hl : s.live = true) (he : tabGet? s.evicts ln = some e)
include he

theorem exec_writeBackIssue_waits (hm : s.mayIssue (sliceOf e.line.pos) e.line.cls (ctlOf (256 * ln)) = false) :
    exec (.writeBackIssue ln) s = .next s := by
  refine congrArg Host.Outcome.next ?_
  rw [he]
  exact if_pos (by rw [hm]; exact Bool.or_true _)

include hl

theorem exec_writeBackIssue (hi : e.issued = false)
    (hm : s.mayIssue (sliceOf e.line.pos) e.line.cls (ctlOf (256 * ln)) = true) :
    exec (.writeBackIssue ln) s = .next (s.issueBack ln e) := by
  refine congrArg Host.Outcome.next ?_
  rw [he]
  exact if_neg (by rw [hl, hi, hm]; decide)

end

/-- A measured transaction leaves the queues as they are. -/
theorem measured_writes (s : State) (src cls c since : Nat) : ((s.measured src cls c since).ctl c).writes = (s.ctl c).writes :=
  Eq.trans (congrArg Controller.writes (ctl_setCtl_same s c _)) rfl

/-- A write-back of a line that its controller has still to take. -/
def backOf (ln : Nat) (w : MemWrite) : Bool := decide (w.who = .evict ln) && !w.acked

variable {w : MemWrite}

/-- The controller takes the write-back, and the copy leaves the eviction buffer. -/
theorem ackBack_effect (hw : (s.ctl (ctlOf (256 * ln))).writes.find? (backOf ln) = some w) :
    let t := s.ackBack ln
    let c := ctlOf (256 * ln)
    t.evicts = tabErase s.evicts ln ∧ t.cmem = s.cmem.erase (256 * ln) (256 * ln + 256) ∧ t.mem = s.mem ∧ t.regs = s.regs ∧
      (t.ctl c).writes = updateFirst (backOf ln) (fun w => { w with acked := true }) (s.ctl c).writes := by
  intro t c
  have ht : t = ((s.setCtl c { s.ctl c with
      writes := updateFirst (backOf ln) (fun w => { w with acked := true }) (s.ctl c).writes }).measured w.src w.cls c
        w.time).dropCopy ln := by
    unfold backOf at *
    simp only [t, State.ackBack, hw]
    rfl
  rw [ht]
  exact ⟨rfl, rfl, rfl, rfl, (measured_writes _ w.src w.cls c w.time).trans (congrArg Controller.writes (ctl_setCtl_same ..))⟩

theorem exec_writeBackAck (hl : s.live = true) (he : (tabGet? s.evicts ln).isSome = true) :
    exec (.writeBackAck ln) s = .next (s.ackBack ln).memEvent :=
  congrArg Host.Outcome.next (if_pos (by rw [hl, he]; rfl))

end

/-! The obligation. -/

/-- Settles O51: each event by its equation; a fill by what the slice has of its line, a reduction by whether it may be applied, a
write-back by the write that it queues. -/
theorem cacheProbesFlushesFillsAndEvictions : Obligations.CacheProbesFlushesFillsAndEvictions := by
  unfold Obligations.CacheProbesFlushesFillsAndEvictions
  refine ⟨fun st v s hl => exec_cacheProbe v hl, fun st v s hl => ⟨fun hf op c hc => ?flush, fun hf => ?busy⟩,
    fun st s f hl hf => ⟨fun hw => ?wait, fun hidle hgo => ?complete⟩, fun i s r hl hr hs => ?request,
    fun ln s f bytes hl hf hd => ?fill, fun ln s l op who rest hl hline hred => ?red,
    fun ln s l hl hline hskim hc hred hw hs hf => exec_skimDrop hl hline hskim hc hred hw hs hf,
    fun ln s e hl he hi => ?issue, fun ln s w hl he hw => ?ack⟩
  case flush =>
    have hexec : exec c s = .next (s.startFlush st v op) := by
      simp only [List.mem_cons, Prod.mk.injEq, List.not_mem_nil, or_false] at hc
      obtain ⟨rfl, rfl⟩ | ⟨rfl, rfl⟩ | ⟨rfl, rfl⟩ := hc <;> rfl
    obtain ⟨hasked, hfbusy, hkept⟩ := startFlush_effect v op hl hf
    exact ⟨_, _, hexec, hasked, rfl, rfl, rfl, rfl, hfbusy, hkept⟩
  case busy =>
    exact ⟨congrArg _ (startFlush_ignored v 1 hf), congrArg _ (startFlush_ignored v 2 hf), congrArg _ (startFlush_ignored v 3 hf)⟩
  case wait =>
    refine (exec_flushComplete hl hf).trans (congrArg _ (if_pos ?_))
    obtain hb | hg := hw
    · rw [hb, Bool.true_or]
    · rw [hg, Bool.not_false, Bool.or_true]
  case complete =>
    refine ⟨_, (exec_flushComplete hl hf).trans (congrArg _ (if_neg (by rw [hidle, hgo]; decide))), ?_, ?_, rfl, rfl, rfl, rfl⟩
    · exact bit_clearBit_same _ _ 16 (by decide)
    · exact (tabGet?_tabErase ..).trans (if_pos rfl)
  case request =>
    rw [exec_sliceRequest hl hr hs]
    refine ⟨fun hrefused => ?_, fun hok hheld => ?_, fun hok hfree hbehind => ?_, fun hok hfree hfirst => ?_⟩
    · rw [if_pos hrefused]
    · rw [if_neg (Bool.eq_false_iff.mp hok), if_pos hheld]
    · rw [if_neg (Bool.eq_false_iff.mp hok), if_neg (Bool.eq_false_iff.mp hfree), if_pos hbehind]
    · rw [if_neg (Bool.eq_false_iff.mp hok), if_neg (Bool.eq_false_iff.mp hfree), if_neg (Bool.eq_false_iff.mp hfirst)]
  case fill =>
    refine ⟨⟨fillData_plain, fun hn => exec_lineFill hl hf hd (fillLine_absent hn)⟩,
      fun l hline hs => exec_lineFill hl hf hd (fillLine_filling hline hs), fun l hline hs => ?_⟩
    let d := s.fillMerged ln f bytes l
    refine ⟨{ l with state := if l.state = 3#3 then 2#3 else l.state, pois := d.2 }, d.1, rfl, rfl, rfl, fun i hi hlen => ?_,
      fun q hq => mergeUnder_pois _ (s.cmem.read (256 * ln) 256) _ (s.fillData ln f bytes).1 _ hq,
      exec_lineFill hl hf hd (fillLine_resident hline hs)⟩
    rw [← memRead_getD s.cmem.bytes _ hi]
    exact mergeUnder_byte _ _ _ ((memRead_length ..).trans hlen.symm) i
  case red =>
    refine ⟨fun h => exec_redApply_waits hline hred (redMay_eq_false h), fun h5 h3 hv hb => ⟨fun hk => ?_, fun hk hm => ?_⟩,
      fun hs hv hk hb hc => ⟨?_, _, checkLine_rereads op.cls hline hs hb hc, rfl, rfl⟩⟩
    · exact ⟨(s.redHere ln l op false).1, (s.redHere ln l op false).2, rfl,
        exec_redApply hl hline hred (redMay_iff.mpr ⟨h5, h3, hv, .inl hk⟩) hb (applyRed_cached hk)⟩
    · exact ⟨(s.redHere ln l op true).1, (s.redHere ln l op true).2, rfl,
        exec_redApply hl hline hred (redMay_iff.mpr ⟨h5, h3, hv, .inr hm⟩) hb (applyRed_through hk)⟩
    · exact exec_redApply_rereads hl hline hred
        (redMay_iff.mpr ⟨by rw [hs]; decide, by rw [hs]; decide, hv, .inl hk⟩) hs hb hc
  case issue =>
    refine ⟨fun hm => ?_, exec_writeBackIssue_waits he⟩
    obtain ⟨w, heffect⟩ := issueBack_effect (s := s) (ln := ln) (e := e)
    exact ⟨_, w, exec_writeBackIssue hl he hi hm, heffect⟩
  case ack => exact ⟨_, exec_writeBackAck hl he, ackBack_effect hw⟩

end Sys2Proof.Machine
end

section
/-!
PROOFS. Memory controllers: what a controller chooses, what it tells its requesters, and what each of its events does (R244 to R249,
R267, R269, R271 to R277, R679).
-/
namespace Sys2Proof.Machine

/-! The choice of R275. -/

namespace Choice

section
variable {x y : Choice}

/-- The order of R275: aged requests by age alone; the others by step, class and age. -/
theorem before_iff : x.before y = true ↔ (x.aged = true ∧ (y.aged = false ∨ x.ord < y.ord)) ∨
    (x.aged = false ∧ y.aged = false ∧
      (y.step < x.step ∨ x.step = y.step ∧ (x.cls < y.cls ∨ x.cls = y.cls ∧ x.ord < y.ord))) := by
  unfold before
  cases x.aged <;> cases y.aged <;> simp
  by_cases hs : x.step = y.step <;> by_cases hc : x.cls = y.cls <;> simp [hs, hc]

theorem before_asymm (h : x.before y = true) : y.before x = false := by
  rw [Bool.eq_false_iff, Ne, before_iff]
  rw [before_iff] at h
  cases hx : x.aged <;> cases hy : y.aged <;> simp [hx, hy] at h ⊢ <;> omega

theorem not_before_self (x : Choice) : x.before x = false := by
  cases h : x.before x
  · rfl
  · exact (before_asymm h).symm.trans h |>.symm

/-- Of two requests in order, a third comes after the first or before the second. -/
theorem before_or_before (h : x.before y = true) (z : Choice) : x.before z = true ∨ z.before y = true := by
  rw [before_iff, before_iff]
  rw [before_iff] at h
  cases hx : x.aged <;> cases hy : y.aged <;> cases z.aged <;> simp [hx, hy] at h ⊢ <;> omega

end

/-- The earlier of what has been chosen so far and the next request. -/
def pick (acc : Option Choice) (x : Choice) : Option Choice :=
  acc.elim (some x) fun y => if x.before y then some x else some y

/-- What is picked is one of the requests, and none of them comes before it. -/
theorem foldl_pick (l : List Choice) {a x : Choice} (h : l.foldl pick (some a) = some x) :
    x ∈ a :: l ∧ ∀ y ∈ a :: l, y.before x = false := by
  induction l generalizing a with
  | nil =>
    obtain rfl : a = x := Option.some.inj h
    simp [not_before_self]
  | cons z l ih =>
    rw [List.foldl_cons] at h
    by_cases hz : z.before a = true
    · rw [show pick (some a) z = some z from if_pos hz] at h
      obtain ⟨hx, hbest⟩ := ih h
      refine ⟨List.mem_cons_of_mem _ hx, List.forall_mem_cons.mpr ⟨Bool.eq_false_iff.mpr fun hax => ?_, hbest⟩⟩
      obtain haz | hzx := before_or_before hax z
      · rw [before_asymm hz] at haz; cases haz
      · rw [hbest z List.mem_cons_self] at hzx; cases hzx
    · rw [show pick (some a) z = some a from if_neg hz] at h
      obtain ⟨hx, hbest⟩ := ih h
      obtain ⟨hfirst, hrest⟩ := List.forall_mem_cons.mp hbest
      refine ⟨?_, List.forall_mem_cons.mpr ⟨hfirst,
        List.forall_mem_cons.mpr ⟨Bool.eq_false_iff.mpr fun hzx => ?_, hrest⟩⟩⟩
      · exact List.mem_cons.mpr ((List.mem_cons.mp hx).imp_right (List.mem_cons_of_mem _))
      · obtain hza | hax := before_or_before hzx a
        · exact hz hza
        · rw [hfirst] at hax; cases hax

end Choice

theorem chosen_eq (s : State) (c : Nat) :
    s.chosen c = if (s.ctl c).cal then none else (s.choices (s.ctl c)).foldl Choice.pick none := by
  have hpick : Choice.pick = fun acc x => match acc with
      | none => some x
      | some y => if x.before y then some x else some y := by
    funext acc x
    cases acc <;> rfl
  rw [hpick]
  rfl

theorem chosen_calibrating {s : State} {c : Nat} (h : (s.ctl c).cal = true) : s.chosen c = none := by
  rw [chosen_eq, if_pos h]

/-- The chosen request is one of those that may be chosen, and none of them comes before it. -/
theorem chosen_first {s : State} {c : Nat} {x : Choice} (h : s.chosen c = some x) :
    x ∈ s.choices (s.ctl c) ∧ ∀ y ∈ s.choices (s.ctl c), y.before x = false := by
  rw [chosen_eq] at h
  split at h
  · cases h
  · cases hl : s.choices (s.ctl c) with
    | nil => rw [hl] at h; cases h
    | cons a l => rw [hl] at h; exact Choice.foldl_pick l h

/-- What R275 says of a request that none comes before. -/
theorem Choice.first_of_not_before {x y : Choice} (h : y.before x = false) : (x.aged = false → y.aged = false) ∧
    (x.aged = true → y.aged = true → x.ord ≤ y.ord) ∧
    (x.aged = false → y.step ≤ x.step ∧ (y.step = x.step → x.cls ≤ y.cls ∧ (y.cls = x.cls → x.ord ≤ y.ord))) := by
  rw [Bool.eq_false_iff, Ne, before_iff] at h
  cases hx : x.aged <;> cases hy : y.aged <;> simp [hx, hy] at h ⊢ <;> omega

/-! Reads and writes that a controller performs (R244, R246, R277). -/

section
variable {c : Fin 24} {i : Nat} {s : State} {x : Choice} (hl : s.live = true) (hx : s.chosen c.val = some x)
include hl hx

section
variable {r : MemRead} (hr : (s.ctl c.val).reads[i]? = some r)
include hr

theorem exec_memoryRead : exec (.memoryRead c i) s =
    .next (if x.write = true ∨ x.idx ≠ i then s else (s.performRead c.val i r).memEvent) := by
  show execMemoryRead c i s = _
  simp only [execMemoryRead, hr, hx, hl, Bool.not_true, Bool.false_or, Bool.or_eq_true, decide_eq_true_eq]

end

section
variable {w : MemWrite} (hw : (s.ctl c.val).writes[i]? = some w)
include hw

theorem exec_memoryWrite : exec (.memoryWrite c i) s = .next (if x.write = false ∨ x.idx ≠ i then s else
    ((s.setCtl c.val { s.ctl c.val with writes := (s.ctl c.val).writes.eraseIdx i }).applyWrite w).memEvent) := by
  show execMemoryWrite c i s = _
  simp only [execMemoryWrite, hw, hx, hl, Bool.not_true, Bool.false_or, Bool.or_eq_true, Bool.not_eq_true', decide_eq_true_eq]

end

end

section
variable (s : State) (c i : Nat) (r : MemRead)

/-- Memory as a controller reads it for a request that leaves its queue. -/
def State.readFor : ReadOut :=
  (s.setCtl c { s.ctl c with reads := (s.ctl c).reads.eraseIdx i }).dramRead r.pa r.len

/-- What such a read returns: memory under the earlier writes that are queued for its line (R246). -/
def State.readMerged : List Byte × List Bool :=
  let older := (s.ctl c).writes.filter fun w => decide (w.pa ≤ r.pa) && decide (r.pa < w.pa + 256) && decide (w.ord < r.ord)
  older.foldl (fun d w => overlay r.pa w d) ((s.readFor c i r).bytes, (s.readFor c i r).pois)

/-- The state after such a read, counted and measured (R274, R277). -/
def State.readDone : State := ((s.readFor c i r).s.countBytes r.pa false r.cls r.len).measured r.src r.cls c r.time

variable {s c i r}

theorem performRead_fill {ln : Nat} {f : Fill} (hw : r.who = .fill ln) (hf : tabGet? (s.readDone c i r).fills ln = some f) :
    s.performRead c i r = { s.readDone c i r with
      fills := tabSet (s.readDone c i r).fills ln
        { f with data := some (s.readMerged c i r).1, pois := pois4 (s.readMerged c i r).2 } } := by
  simp only [State.readDone, State.readFor] at hf
  simp only [State.performRead, hw, hf]
  rfl

theorem performRead_load {id : Nat} {q : Req} {dst : LoadDst} {b bad : Bool} (hw : r.who = .req id)
    (hq : (s.readDone c i r).reqs.find? (fun q => decide (q.id = id)) = some q) (hk : q.kind = .ld dst b bad) :
    s.performRead c i r = ((s.readDone c i r).deliver q dst (s.readMerged c i r).1 (bad :: (s.readMerged c i r).2)).finishReq id := by
  simp only [State.readDone, State.readFor] at hq
  simp only [State.performRead, hw, hq, hk]
  rfl

end

/-! Levels, steps and calibration windows (R272 to R276, R679). -/

section
variable (s : State) (c : Nat) (f : Controller → Controller)

/-- A changed controller keeps its news, or sends a change of what it reports as their head (R273). -/
theorem changeCtl_eq : ∃ news, s.changeCtl c f = s.setCtl c { f (s.ctl c) with news := news } ∧
    ((f (s.ctl c)).reports = (s.ctl c).reports → news = (f (s.ctl c)).news) ∧
    ((f (s.ctl c)).reports ≠ (s.ctl c).reports → news.head? = some (s.time, (f (s.ctl c)).reports)) := by
  by_cases h : (f (s.ctl c)).reports = (s.ctl c).reports
  · exact ⟨_, if_pos h, fun _ => rfl, fun hn => absurd h hn⟩
  · exact ⟨_, if_neg h, fun he => absurd he h, fun _ => rfl⟩

end

theorem exec_controllerLevelUpdate (c : Fin 24) (s : State) : exec (.controllerLevelUpdate c) s =
    .next (s.changeCtl c.val fun k => { k with level := levelOf k.depth }).memEvent := rfl

theorem exec_calibrationWindowClose (c : Fin 24) (s : State) : exec (.calibrationWindowClose c) s =
    .next (s.changeCtl c.val fun k => { k with cal := false }).memEvent := rfl

theorem exec_calibrationWindowOpen_refused {c : Fin 24} {s : State} (h : ∃ x ∈ s.ctls, x.2.cal = true ∧ ctlPeers c.val x.1 = true) :
    exec (.calibrationWindowOpen c) s = .next s := by
  refine congrArg Host.Outcome.next (if_pos ?_)
  simpa using h

theorem exec_calibrationWindowOpen {c : Fin 24} {s : State} (h : ∀ x ∈ s.ctls, x.2.cal = true → ctlPeers c.val x.1 = false) :
    exec (.calibrationWindowOpen c) s = .next (s.changeCtl c.val fun k => { k with cal := true }) := by
  refine congrArg Host.Outcome.next (if_neg ?_)
  simpa using h

/-- A class step as it falls (R274). -/
def ClassStep.falls (x : ClassStep) (now : Nat) : ClassStep := { x with step := x.step - 1, fell := now }

theorem exec_classStepDecay (r : Nat) (cls : Fin 8) (s : State) : exec (.classStepDecay r cls) s =
    let x := s.clsStep r cls.val
    .next (if stepFor x.lats (s.field (offTIER 0 + 0x40 + 8 * cls.val) 47 16) < x.step ∧ (x.fell = 0 ∨ 128 ≤ s.time - x.fell) then
      { s with steps := tabSet s.steps (r * 8 + cls.val) (x.falls s.time) } else s) := rfl

/-! Patrol scrub (R247, R275, R276, R636). -/

section
variable {f : Nat} {s : State} (hr : s.ready = true) (hb : s.burstHere (64 * f) = true)
include hr hb

theorem exec_patrolScrub_waits (hm : s.mayRead (mgmtOf (ownerOf (64 * f))) 6 (64 * f) 64 = false) :
    exec (.patrolScrub f) s = .next s := by
  refine congrArg Host.Outcome.next (if_pos ?_)
  rw [hr, hb, hm]
  rfl

variable (hm : s.mayRead (mgmtOf (ownerOf (64 * f))) 6 (64 * f) 64 = true)
include hm

theorem exec_patrolScrub : exec (.patrolScrub f) s =
    let src := mgmtOf (ownerOf (64 * f))
    let w := (s.readDram f).2.performed src 6 (64 * f) 64 false
    let queued := (s.ctl (ctlOf (64 * f))).writes.any fun x => x.acked && decide (x.pa ≤ 64 * f) && decide (64 * f < x.pa + 256) &&
      (List.range 64).any fun i => x.mask.getLsbD (64 * f - x.pa + i)
    .next (if (s.readDram f).1.pois = true ∨ queued = true ∨ s.eccOut s.mem (64 * f) 64 = .good then w
      else State.performed { w with mem := w.mem.write (64 * f) (s.readDram f).1.bytes } src 6 (64 * f) 64 true) := by
  show execPatrolScrub f s = _
  simp only [execPatrolScrub, hr, hb, hm, Bool.not_true, Bool.or_self, Bool.false_eq_true, if_false, Bool.or_eq_true,
    decide_eq_true_eq, or_assoc]

end

/-! The end of a chunk's fill (R249, R267, R269). -/

/-- Another bit of a register keeps its value where one is set or cleared. -/
theorem bit_setField_one_apart (s : State) (off : Nat) {i j : Nat} (v : Nat) (hi : i < 64) (h : j ≠ i) :
    (s.setField off i i v).bit off j = s.bit off j := bit_setField_apart s v hi (by omega)

/-- The marks of a chunk whose fill has ended: lent, or online (R267, R283). -/
def State.chunkMarked (s : State) (k lend : Nat) : State :=
  let o := offDDR + 0x800
  if lend = 1 then (s.clearBit o k).setBit o (32 + k) else (s.setBit o k).clearBit o (32 + k)

theorem chunkMarked_bits (s : State) {k : Nat} (hk : k < 32) (lend : Nat) :
    (s.chunkMarked k lend).bit (offDDR + 0x800) k = decide (lend ≠ 1) ∧
    (s.chunkMarked k lend).bit (offDDR + 0x800) (32 + k) = decide (lend = 1) := by
  have apart (u : State) (v : Nat) : (u.setField (offDDR + 0x800) (32 + k) (32 + k) v).bit (offDDR + 0x800) k =
      u.bit (offDDR + 0x800) k := bit_setField_one_apart u _ v (by omega) (by omega)
  by_cases h : lend = 1
  · rw [State.chunkMarked, if_pos h]
    refine ⟨(apart _ 1).trans ?_, ?_⟩
    · rw [bit_clearBit_same _ _ _ (by omega)]; simp [h]
    · rw [bit_setBit_same _ _ _ (by omega)]; simp [h]
  · rw [State.chunkMarked, if_neg h]
    refine ⟨(apart _ 0).trans ?_, ?_⟩
    · rw [bit_setBit_same _ _ _ (by omega)]; simp [h]
    · rw [bit_clearBit_same _ _ _ (by omega)]; simp [h]

theorem chunkMarked_kept (s : State) (k lend : Nat) :
    (s.chunkMarked k lend).mem = s.mem ∧ (s.chunkMarked k lend).fillQ = s.fillQ := by
  unfold State.chunkMarked
  dsimp only
  split <;> exact ⟨rfl, rfl⟩

/-- The status of a channel after a fill: the next fill, or all filled (R249, R282). -/
def State.channelAfter (s : State) (d : Nat) (more : Bool) : State :=
  ((if more then s.fillStarts d else s).setField (offCh d) 10 8 (if more then 2 else 3)).setField (offCh d) 7 0
    (if more then 0 else 100)

theorem channelAfter_fields (s : State) (d : Nat) (more : Bool) :
    (s.channelAfter d more).field (offCh d) 10 8 = (if more then 2 else 3) ∧
    (s.channelAfter d more).field (offCh d) 7 0 = (if more then 0 else 100) := by
  refine ⟨?_, ?_⟩
  · rw [State.channelAfter, field_setField_apart _ _ (by omega) (by omega), field_setField_same _ _ _ _ _ (by omega)]
    cases more <;> rfl
  · rw [State.channelAfter, field_setField_same _ _ _ _ _ (by omega)]
    cases more <;> rfl

theorem channelAfter_kept (s : State) {d : Nat} (hd : d < 16) (more : Bool) : (s.channelAfter d more).mem = s.mem ∧
    (s.channelAfter d more).fillQ = s.fillQ ∧ ∀ i, (s.channelAfter d more).bit (offDDR + 0x800) i = s.bit (offDDR + 0x800) i := by
  have hne : offDDR + 0x800 ≠ offCh d := by simp only [offCh]; omega
  have hbits (i : Nat) : (s.channelAfter d more).bit (offDDR + 0x800) i =
      (if more then s.fillStarts d else s).bit (offDDR + 0x800) i := by
    rw [State.channelAfter, bit_setField_other _ _ _ _ _ hne, bit_setField_other _ _ _ _ _ hne]
  cases more <;> exact ⟨rfl, rfl, hbits⟩

theorem exec_chunkFillComplete {k : Fin 32} {s : State} {lend : Nat} {rest : List (Nat × Nat × Option (Nat × Nat))}
    (hr : s.pins.refclk = true) (hq : s.fillQ = (k.val, lend, none) :: rest) : exec (.chunkFillComplete k) s =
      let lo := 0x010000000000 + k.val * 2 ^ 38
      let w : State := { s with mem := s.mem.erase lo (lo + 2 ^ 38), fillQ := rest }
      .next (((w.chunkMarked k.val lend).zeroLines lo (2 ^ 38)).channelAfter (k.val / 2)
        (rest.any fun y => decide (y.1 / 2 = k.val / 2))) := by
  show execChunkFillComplete k s = _
  have hfind : s.fillQ.find? (fun x => decide (x.1 / 2 = k.val / 2)) = some (k.val, lend, none) := by
    rw [hq]; exact List.find?_cons_of_pos (decide_eq_true rfl)
  have herase : s.fillQ.erase (k.val, lend, none) = rest := by rw [hq, List.erase_cons_head]
  simp only [execChunkFillComplete, hfind, herase, hr, ne_eq, not_true, Bool.not_true, Bool.false_eq_true, or_self, if_false]
  by_cases hlend : lend = 1
  · simp only [State.chunkMarked, hlend, if_true]; rfl
  · simp only [State.chunkMarked, hlend, if_false]; rfl

/-! The obligation. -/

/-- Settles O52: the choice by its order, a read and a write by what their controller performs, levels and calibration windows by the
change of one controller, and a chunk's fill by the marks and the channel status that it leaves. -/
theorem memoryControllerEvents : Obligations.MemoryControllerEvents := by
  unfold Obligations.MemoryControllerEvents
  refine ⟨fun c i s r x hl hr hx => ?read, fun c i s w x hl hw hx => ?write, fun c s => chosen_calibrating,
    fun s c x hx => ?choice, fun c s => ?level, fun r cls s => ?decay, fun f s hr hb => ?scrub,
    fun c s => ⟨exec_calibrationWindowOpen_refused, fun h => ?opens, ?closes⟩, fun k s lend rest hr hq => ?filled⟩
  case read =>
    rw [exec_memoryRead hl hx hr]
    refine ⟨fun h => by rw [if_pos h], fun hw hi => ?_⟩
    rw [if_neg (by simp [hw, hi])]
    refine ⟨fun ln f hfill hf => ?_, fun id q dst b bad hreq hq hk => ?_⟩
    · rw [performRead_fill hfill hf]; rfl
    · rw [performRead_load hreq hq hk]; rfl
  case write =>
    rw [exec_memoryWrite hl hx hw]
    exact ⟨fun h => by rw [if_pos h], fun hw hi => by rw [if_neg (by simp [hw, hi])]⟩
  case choice =>
    obtain ⟨hmem, hfirst⟩ := chosen_first hx
    exact ⟨hmem, fun y hy => Choice.first_of_not_before (hfirst y hy)⟩
  case level =>
    obtain ⟨news, ht, hsame, hchange⟩ := changeCtl_eq s c.val fun k => { k with level := levelOf k.depth }
    have hctl := ctl_setCtl_same s c.val { s.ctl c.val with level := levelOf (s.ctl c.val).depth, news := news }
    refine ⟨_, exec_controllerLevelUpdate c s, ?_⟩
    rw [ht, hctl]
    exact ⟨rfl, hsame, hchange, fun d hd => ctl_setCtl_other s _ hd, rfl, rfl, rfl, rfl, rfl⟩
  case decay =>
    intro x lower
    rw [exec_classStepDecay]
    refine ⟨fun hlow hfell => ⟨_, congrArg _ (if_pos ⟨hlow, hfell⟩), ?_⟩, fun h => congrArg _ (if_neg ?_)⟩
    · have hstep (u : List (Nat × ClassStep)) :
          State.clsStep { s with steps := tabSet u (r * 8 + cls.val) (x.falls s.time) } r cls.val = x.falls s.time :=
        tabGetD_tabSet_same ..
      rw [hstep]
      exact ⟨Nat.sub_add_cancel (Nat.one_le_of_lt hlow), rfl, rfl⟩
    · rintro ⟨hlow, hfell⟩
      obtain h | ⟨hne, hlt⟩ := h
      · exact h hlow
      · exact hfell.elim hne (Nat.not_le.mpr hlt)
  case scrub =>
    intro src w
    refine ⟨exec_patrolScrub_waits hr hb, fun hm => ?_⟩
    rw [exec_patrolScrub hr hb hm]
    refine ⟨fun hgood => congrArg _ (if_pos (.inr (.inr hgood))), fun hpois => congrArg _ (if_pos (.inl hpois)),
      fun hbad hclean hfree => congrArg _ (if_neg ?_)⟩
    rintro (hp | hq | hg)
    · rw [hclean] at hp; cases hp
    · simp only [List.any_eq_true, Bool.and_eq_true, decide_eq_true_eq, List.mem_range] at hq
      obtain ⟨y, hy, ⟨⟨hack, hlo⟩, hhi⟩, i, hi, hmask⟩ := hq
      rw [hfree y hy hack hlo hhi i hi] at hmask
      cases hmask
    · exact hbad hg
  case opens =>
    obtain ⟨news, ht, -⟩ := changeCtl_eq s c.val fun k => { k with cal := true }
    refine ⟨_, exec_calibrationWindowOpen h, ?_⟩
    rw [ht, ctl_setCtl_same]
    exact ⟨rfl, rfl, fun d hd => ctl_setCtl_other s _ hd⟩
  case closes =>
    obtain ⟨news, ht, -⟩ := changeCtl_eq s c.val fun k => { k with cal := false }
    refine ⟨_, exec_calibrationWindowClose c s, ?_⟩
    rw [ht, ctl_setCtl_same]
    exact ⟨rfl, rfl, fun d hd => ctl_setCtl_other s _ hd⟩
  case filled =>
    intro lo more
    refine ⟨_, exec_chunkFillComplete hr hq, ?_⟩
    let w : State := { s with mem := s.mem.erase lo (lo + 2 ^ 38), fillQ := rest }
    let u := (w.chunkMarked k.val lend).zeroLines lo (2 ^ 38)
    obtain ⟨hmem, hfillQ⟩ := chunkMarked_kept w k.val lend
    obtain ⟨honline, hlent⟩ := chunkMarked_bits w k.isLt lend
    obtain ⟨humem, hufillQ, hubits⟩ := channelAfter_kept u (by omega : k.val / 2 < 16) more
    obtain ⟨hstate, hdone⟩ := channelAfter_fields u (k.val / 2) more
    exact ⟨humem.trans hmem, hufillQ.trans hfillQ, (hubits _).trans honline, (hubits _).trans hlent, hstate, hdone⟩

end Sys2Proof.Machine
end

section
/-!
PROOFS. Writes of SRAM: the bytes that stay on either side of a write, and the registers that events and error records leave (R632,
R686, R688).
-/
namespace Sys2Proof.Machine

/-! Registers from the LANE block on: those of rings and error records lie below. -/

theorem ringOff_lt (r : RingId) : ringOff r + 0x10 < offLANE := by
  cases r with
  | ev i => simp only [ringOff, offHQ, offLANE]; omega
  | sub i => simp only [ringOff, offHQ, offLANE]; omega
  | comp i => simp only [ringOff, offHQ, offLANE]; omega
  | out i => simp only [ringOff, offHQ, offLANE]; omega

/-- The registers from the LANE block on read in t as in s. -/
structure State.KeepsRegs (s t : State) : Prop where
  reg_eq : ∀ off, offLANE ≤ off → t.reg off = s.reg off

namespace State.KeepsRegs

theorem refl (s : State) : s.KeepsRegs s := ⟨fun _ _ => rfl⟩

theorem after {s t u : State} (h : t.KeepsRegs u) (h' : s.KeepsRegs t) : s.KeepsRegs u :=
  ⟨fun off ho => (h.reg_eq off ho).trans (h'.reg_eq off ho)⟩

theorem ite {s t u : State} {c : Prop} [Decidable c] (h : s.KeepsRegs t) (h' : s.KeepsRegs u) :
    s.KeepsRegs (if c then t else u) := by
  split <;> assumption

section
variable {s t : State} (h : s.KeepsRegs t) {off : Nat} (ho : off < offLANE)
include h ho

theorem setReg (v : Word) : s.KeepsRegs (t.setReg off v) :=
  ⟨fun k hk => (reg_setReg_other t v (Nat.ne_of_gt (Nat.lt_of_lt_of_le ho hk))).trans (h.reg_eq k hk)⟩

theorem setField (hi lo v : Nat) : s.KeepsRegs (t.setField off hi lo v) := h.setReg ho _

end

theorem withRegs {s t u : State} (h : s.KeepsRegs t) (hr : u.regs = t.regs) : s.KeepsRegs u :=
  ⟨fun off ho => (congrArg (regGet · off) hr).trans (h.reg_eq off ho)⟩

theorem of_regs {s t : State} (h : t.regs = s.regs) : s.KeepsRegs t := (refl s).withRegs h

end State.KeepsRegs

theorem ringPush_keepsRegs (s : State) (r : RingId) (bytes : Bool → List Byte) : s.KeepsRegs (s.ringPush r bytes) := by
  obtain ⟨due, h⟩ := ringPush_eq s r bytes
  rw [h]
  exact (State.KeepsRegs.setField (.refl s) (ringOff_lt r) 31 16 ((s.ringDev r + 1) % s.ringSize r)).withRegs rfl

theorem drainEvents_keepsRegs (s : State) (e : Fin 2) (fuel : Nat) : s.KeepsRegs (s.drainEvents e fuel) := by
  induction fuel generalizing s with
  | zero => exact .refl s
  | succ fuel ih =>
    unfold State.drainEvents
    split
    · exact .refl s
    · split
      · exact (ih _).after ((ringPush_keepsRegs s _ _).withRegs rfl)
      · exact .refl s

theorem eventTo_keepsRegs (s : State) (e : Fin 2) (ev : Event) : s.KeepsRegs (s.eventTo e ev) :=
  .ite ((drainEvents_keepsRegs _ e 1).after (.of_regs rfl)) (.ite (.of_regs rfl) (.setField (.refl s) (ringOff_lt _) _ _ _))

theorem event_keepsRegs (s : State) (kind sub : Nat) (unit v v2 : Word) : s.KeepsRegs (s.event kind sub unit v v2) :=
  (eventTo_keepsRegs _ 1 _).after ((eventTo_keepsRegs _ 0 _).after (.of_regs rfl))

theorem countErr_keepsRegs (s : State) (bank idx : Nat) : s.KeepsRegs (s.countErr bank idx) :=
  .ite (.of_regs rfl) (.ite (.of_regs rfl) ((event_keepsRegs ..).after (.of_regs rfl)))

theorem errRec_keepsRegs (s : State) (kind action : Nat) (unit : Word) (addr : Nat) :
    s.KeepsRegs (s.errRec kind action unit addr) := by
  have hslot : s.field (offERR + 0x50) 5 0 < 64 := fieldOf_lt ..
  have hlow (i : Nat) (hi : i < 32 := by decide) : offERR + 0x1000 + 0x20 * s.field (offERR + 0x50) 5 0 + i < offLANE := by
    simp only [offERR, offLANE] at *; omega
  have herr : offERR < offLANE ∧ offERR + 0x50 < offLANE := by decide
  have hrec := ((((State.KeepsRegs.refl s).setReg (hlow 0) (BitVec.ofNat 64 (kind + action * 256))).setReg (hlow 8)
    s.now).setReg (hlow 16) unit).setReg (hlow 24) (BitVec.ofNat 64 addr)
  have hpois (u : State) (h : s.KeepsRegs u) : s.KeepsRegs (if action = 3 then u.setBit offERR 3 else u) :=
    .ite (h.setField herr.1 _ _ _) h
  exact (countErr_keepsRegs _ _ _).after ((hpois _ (.setField (.setReg hrec herr.2 _) herr.1 _ _ _)).withRegs rfl)

theorem flipDone_keepsRegs (s : State) (unit : Word) (addr : Nat) : s.KeepsRegs (s.flipDone unit addr) := by
  have hctl : offERR + 0x20 < offLANE := by decide
  exact (errRec_keepsRegs _ _ _ _ _).after (.setField (.setField (.refl s) hctl _ _ _) hctl _ _ _)

theorem flipMem_keepsRegs (s : State) (a n : Nat) : s.KeepsRegs (s.flipMem a n) := by
  unfold State.flipMem
  split
  · exact .refl s
  · exact (flipDone_keepsRegs _ _ _).after (.of_regs rfl)

theorem writeSram_keepsRegs (s : State) (a : Nat) (bs : List Byte) (po : Bool) : s.KeepsRegs (s.writeSram a bs po) :=
  .ite (.refl s) ((flipMem_keepsRegs ..).after (.of_regs rfl))

/-! Bytes on either side. -/

theorem flitsOf_le {a n f : Nat} (h : f ∈ flitsOf a n) : 64 * f + 64 ≤ (a + n + 63) / 64 * 64 := by
  unfold flitsOf at h
  split at h
  · exact nomatch h
  · obtain ⟨i, hi, rfl⟩ := List.mem_map.mp h
    rw [List.mem_range] at hi
    omega

/-- An armed flip alters the flits of the write alone. -/
theorem memByte_flipMem_out (s : State) {a n k : Nat} (h : k < a / 64 * 64 ∨ (a + n + 63) / 64 * 64 ≤ k) :
    memByte (s.flipMem a n).mem.bytes k = memByte s.mem.bytes k := by
  unfold State.flipMem
  split
  · rfl
  · rename_i f hf
    have hlo := flitsOf_ge (flipArmed_mem hf)
    have hhi := flitsOf_le (flipArmed_mem hf)
    dsimp only
    rw [(flipDone_reports ..).kept.1]
    dsimp only
    split
    · exact memByte_memWrite_out _ _ _ (by simp only [List.length_map, List.length_range]; omega)
    · split <;> rfl

theorem memByte_writeSram_out (s : State) {a k : Nat} {bs : List Byte} (h : k < a / 64 * 64 ∨ (a + bs.length + 63) / 64 * 64 ≤ k) :
    memByte (s.writeSram a bs false).mem.bytes k = memByte s.mem.bytes k := by
  unfold State.writeSram
  split
  · rfl
  · exact (memByte_flipMem_out _ h).trans (memByte_memWrite_out _ _ _ (by omega))

theorem leBytes_length (n v : Nat) : (leBytes n v).length = n := by
  induction n generalizing v with
  | zero => rfl
  | succ n ih => rw [leBytes, List.length_cons, ih]

end Sys2Proof.Machine
end

section
/-!
PROOFS. Post queues of the movers: the queue, its log and what both leave unchanged (R253, R262), and the backing records (R148).
-/
namespace Sys2Proof.Machine

section
variable (s : State) (m : Fin 16) (q : Fin 4) (l : List Desc)

/-- Mover m with one of its post queues replaced. -/
def State.moverWith : Mover := { s.mover m.val with q := (s.mover m.val).q.set q l }

theorem writeSram_reports (s : State) (a : Nat) (bs : List Byte) :
    State.Reports { s with mem := (s.writeSram a bs false).mem } (s.writeSram a bs false) := (writeSram_writesFrom s a bs).2

/-- A queue that is set changes its mover and the log in the system area. -/
theorem setPostQ_reports :
    State.Reports { s.setMover m.val (s.moverWith m q l) with mem := (s.setPostQ m q l).mem } (s.setPostQ m q l) := by
  unfold State.setPostQ
  dsimp only
  split
  · rfl
  · exact writeSram_reports ..

theorem mover_setPostQ : (s.setPostQ m q l).mover m.val = s.moverWith m q l := by
  rw [show s.setPostQ m q l = _ from setPostQ_reports s m q l]
  exact mover_setMover_same s m.val (s.moverWith m q l)

theorem mover_setPostQ_other {k : Nat} (h : k ≠ m.val) : (s.setPostQ m q l).mover k = s.mover k := by
  rw [show s.setPostQ m q l = _ from setPostQ_reports s m q l]
  exact mover_setMover_other s (s.moverWith m q l) h

theorem postQ_setPostQ_same : (s.setPostQ m q l).postQ m q = l := by
  rw [State.postQ, mover_setPostQ]
  exact Vector.getElem_set_self ..

theorem postQ_setPostQ_other {k : Fin 16} {j : Fin 4} (h : (k, j) ≠ (m, q)) : (s.setPostQ m q l).postQ k j = s.postQ k j := by
  by_cases hk : k = m
  · subst hk
    have hj : q.val ≠ j.val := fun he => h (by rw [Fin.ext he])
    rw [State.postQ, mover_setPostQ]
    exact Vector.getElem_set_ne q.isLt j.isLt hj
  · rw [State.postQ, mover_setPostQ_other _ _ _ _ (fun he => hk (Fin.ext he))]
    rfl

theorem setPostQ_kept : (s.setPostQ m q l).backs = s.backs ∧ (s.setPostQ m q l).cores = s.cores ∧
    (s.setPostQ m q l).quads = s.quads := by
  rw [show s.setPostQ m q l = _ from setPostQ_reports s m q l]
  exact ⟨rfl, rfl, rfl⟩

theorem setPostQ_keepsRegs : s.KeepsRegs (s.setPostQ m q l) :=
  .ite (.of_regs rfl) ((writeSram_keepsRegs ..).after (.of_regs rfl))

end

theorem descLogBytes_length_le (l : List Desc) : (descLogBytes l).length ≤ 64 * l.length := by
  have hdesc (d : Desc) : (descBytes d.w).length = 64 := by simp [descBytes, leBytes_length]
  have hone (l : List Desc) : (l.flatMap fun d => descBytes d.w).length = 64 * l.length := by
    induction l with
    | nil => rfl
    | cons d l ih => rw [List.flatMap_cons, List.length_append, ih, hdesc, List.length_cons]; omega
  rw [descLogBytes, hone]
  exact Nat.mul_le_mul_left _ (List.length_filter_le ..)

/-- Bytes outside the log of a queue stay (R262). -/
theorem memByte_setPostQ_out (s : State) {m : Fin 16} {q : Fin 4} {l : List Desc} {a : Nat}
    (h : a < logKey m q ∨ logKey m q + Nat.max 4096 (64 * l.length) ≤ a) :
    memByte (s.setPostQ m q l).mem.bytes a = memByte s.mem.bytes a := by
  unfold State.setPostQ
  dsimp only
  split
  · rfl
  · have hlen := descLogBytes_length_le l
    have hkey : logKey m q % 64 = 0 := by simp only [logKey, sysKey]; omega
    have hmax : Nat.max 4096 (64 * l.length) = max 4096 (64 * l.length) := rfl
    refine (memByte_writeSram_out _ ?_).trans (memByte_memErase_out _ ?_)
    · omega
    · omega

/-! Backing records. -/

section
variable (s : State) (n : Nat) (l : List BackRec)

theorem setBacks_reports : State.Reports { s with
    mem := (s.setBacks n l).mem
    backs := s.backs.filter (fun x => decide (x.1 ≠ n)) ++ l.map fun b => (n, b) } (s.setBacks n l) :=
  writeSram_reports ..

theorem backs_setBacks : (s.setBacks n l).backs = s.backs.filter (fun x => decide (x.1 ≠ n)) ++ l.map fun b => (n, b) := by
  rw [show s.setBacks n l = _ from setBacks_reports s n l]

theorem mover_setBacks (k : Nat) : (s.setBacks n l).mover k = s.mover k := by
  rw [show s.setBacks n l = _ from setBacks_reports s n l]
  rfl

theorem backsOf_setBacks_same : (s.setBacks n l).backsOf n = l := by
  have hold : (s.backs.filter fun x => decide (x.1 ≠ n)).filter (fun x => decide (x.1 = n)) = [] :=
    List.filter_eq_nil_iff.mpr fun x hx hn => of_decide_eq_true (List.mem_filter.mp hx).2 (of_decide_eq_true hn)
  have hnew : (l.map fun b => (n, b)).filter (fun x => decide (x.1 = n)) = l.map fun b => (n, b) :=
    List.filter_eq_self.mpr fun x hx => by
      obtain ⟨b, -, rfl⟩ := List.mem_map.mp hx
      exact decide_eq_true rfl
  rw [State.backsOf, backs_setBacks, List.filter_append, hold, hnew, List.nil_append, List.map_map]
  exact List.map_id l

theorem backsOf_setBacks_other {p : Nat} (h : p ≠ n) : (s.setBacks n l).backsOf p = s.backsOf p := by
  have hrest (x : Nat × BackRec) : (decide (x.1 = p) && decide (x.1 ≠ n)) = decide (x.1 = p) := by
    by_cases hx : x.1 = p
    · rw [decide_eq_true (hx ▸ h : x.1 ≠ n), Bool.and_true]
    · rw [decide_eq_false hx, Bool.false_and]
  have hnew : (l.map fun b => (n, b)).filter (fun x => decide (x.1 = p)) = [] :=
    List.filter_eq_nil_iff.mpr fun x hx hp => by
      obtain ⟨b, -, rfl⟩ := List.mem_map.mp hx
      exact h (of_decide_eq_true hp).symm
  rw [State.backsOf, backs_setBacks, List.filter_append, hnew, List.append_nil, List.filter_filter]
  simp only [hrest]
  rfl

end

end Sys2Proof.Machine
end

section
/-!
PROOFS. Descriptors: how each starts, copies, releases, fences and completes (R134, R142, R150, R236, R251, R255 to R264, R271, R516,
R527).
-/
namespace Sys2Proof.Machine

section
variable {s : State} {m : Fin 16} {q : Fin 4} {i : Nat} {d : Desc}

/-! Starts (R258, R260, R262). -/

theorem exec_descriptorStart (hl : s.live = true) (hi : (s.postQ m q).findIdx? (fun d => !d.started) = some i)
    (hd : (s.postQ m q)[i]? = some d) : exec (.descriptorStart m q) s =
      .next (if d.ord = true ∧ i ≠ 0 then s
        else if s.descStatus d = 0 then s.putDesc m q i { d with started := true }
        else (s.refusedAt d).putDesc m q i { d with started := true, copied := true, status := s.descStatus d }) := by
  show execDescriptorStart m q s = _
  simp only [execDescriptorStart, hi, hd, hl, Bool.not_true, Bool.false_or, Bool.and_eq_true, decide_eq_true_eq]

/-! COPY (R142, R150, R255 to R259). -/

/-- Whether a COPY waits for memory that is not there yet, or for restorations in its source (R134, R251, R263). -/
def State.copyWaits (s : State) (d : Desc) : Bool :=
  let waits (pa : Nat) : Bool := decide (s.moverAccess pa d.len = .waits)
  waits d.srcA || waits d.dstA || d.alt.any waits || (fieldAt d.srcA).any fun x => s.restoreWaits x.1 x.2 d.len

/-- The status of a COPY whose data has moved, and the state then. -/
def State.copyDone (s : State) (m : Nat) (d : Desc) : Nat × State :=
  match d.back, fieldAt d.dstA with
  | true, some (n, off) => s.backCopy m d n off
  | _, _ => s.plainCopy m d

theorem copyDone_plain (h : d.back = false ∨ fieldAt d.dstA = none) : s.copyDone m.val d =
    let o := s.moverRead m.val d.cls d.srcA d.len
    (if o.pois.any id then 1 else 0, o.s.memFlitsFor (moverOf m.val) d.cls d.dstA (flitsWith o.bytes o.pois)) := by
  unfold State.copyDone
  split
  · rename_i hb hf
    obtain h | h := h
    · rw [h] at hb; cases hb
    · rw [h] at hf; cases hf
  · rfl

section
variable {n off : Nat} {w : State} (hb : d.back = true) (hf : fieldAt d.dstA = some (n, off))
include hb hf

theorem copyDone_lost (h : s.backBeats (moverOf m.val) d.cls d.srcA d.alt (d.len / 512) = (none, w)) :
    s.copyDone m.val d = (4, w.fieldWrite n off (List.replicate d.len 0#8) false) := by
  simp only [State.copyDone, hb, hf, State.backCopy, h]

theorem copyDone_back {l : List Byte} (h : s.backBeats (moverOf m.val) d.cls d.srcA d.alt (d.len / 512) = (some l, w)) :
    s.copyDone m.val d =
      let u := w.fieldWrite n off l false
      let r : BackRec := { foff := off / 512, flen := d.len / 512, baddr := d.srcA, alt := d.alt }
      (0, u.setBacks n ((u.backsOf n).filter (fun x => decide (x.foff ≠ r.foff)) ++ [r])) := by
  simp only [State.copyDone, hb, hf, State.backCopy, h]

end

section
variable (hl : s.live = true) (hd : (s.postQ m q)[i]? = some d) (hs : d.started = true) (hc : d.copied = false)
include hl hd hs hc

section
variable (hk : d.kind = 1)
include hk

theorem exec_descriptorCopy : exec (.descriptorCopy m q i) s =
    .next (if s.copyWaits d = true then s
      else if s.descStatus d ≠ 0 then (s.refusedAt d).putDesc m q i { d with copied := true, status := s.descStatus d }
      else if s.copyGo m.val d = false then s
      else (s.copyDone m.val d).2.putDesc m q i { d with copied := true, status := (s.copyDone m.val d).1 }) := by
  show execDescriptorCopy m q i s = _
  simp only [execDescriptorCopy, State.copyWaits, hd, hl, hs, hc, hk, Bool.not_true, Bool.or_assoc, Bool.false_or, ne_eq,
    not_true, decide_false, Bool.not_eq_true']
  rfl

theorem exec_descriptorCopy_waits (hw : s.copyWaits d = true) : exec (.descriptorCopy m q i) s = .next s := by
  rw [exec_descriptorCopy hl hd hs hc hk, if_pos hw]

variable (hw : s.copyWaits d = false)
include hw

theorem exec_descriptorCopy_refused (hst : s.descStatus d ≠ 0) : exec (.descriptorCopy m q i) s =
    .next ((s.refusedAt d).putDesc m q i { d with copied := true, status := s.descStatus d }) := by
  rw [exec_descriptorCopy hl hd hs hc hk, if_neg (Bool.eq_false_iff.mp hw), if_pos hst]

variable (hst : s.descStatus d = 0)
include hst

theorem exec_descriptorCopy_held (hg : s.copyGo m.val d = false) : exec (.descriptorCopy m q i) s = .next s := by
  rw [exec_descriptorCopy hl hd hs hc hk, if_neg (Bool.eq_false_iff.mp hw), if_neg (not_not_intro hst), if_pos hg]

theorem exec_descriptorCopy_moves {st : Nat} {t : State} (hg : s.copyGo m.val d = true) (hx : s.copyDone m.val d = (st, t)) :
    exec (.descriptorCopy m q i) s = .next (t.putDesc m q i { d with copied := true, status := st }) := by
  rw [exec_descriptorCopy hl hd hs hc hk, if_neg (Bool.eq_false_iff.mp hw), if_neg (not_not_intro hst),
    if_neg (by rw [hg]; decide), hx]

end

/-! RELEASE and FENCE (R255, R264). -/

/-- Whether a record is exactly the range of a RELEASE. -/
def Desc.releases (d : Desc) (off : Nat) (x : BackRec) : Bool := decide (512 * x.foff = off) && decide (512 * x.flen = d.len)

theorem exec_descriptorRelease {n off : Nat} (hk : d.kind = 2) (hf : fieldAt d.dstA = some (n, off)) :
    exec (.descriptorRelease m q i) s = .next (if s.restoring n off d.len = true then s
      else if (s.backsOf n).any (d.releases off) = true then
        (s.setBacks n ((s.backsOf n).filter fun x => !d.releases off x)).putDesc m q i { d with copied := true }
      else s.putDesc m q i { d with copied := true, status := 5 }) := by
  show execDescriptorRelease m q i s = _
  simp only [execDescriptorRelease, hd, hl, hs, hc, hk, hf, Bool.not_true, Bool.false_or, ne_eq, not_true, decide_false]
  rfl

theorem exec_descriptorFence (hk : d.kind = 3) : exec (.descriptorFence m q i) s =
    .next (if i = 0 then s.putDesc m q i { d with copied := true } else s) := by
  show execDescriptorFence m q i s = _
  simp only [execDescriptorFence, hd, hl, hs, hc, hk, Bool.not_true, Bool.false_or, ne_eq, not_true, decide_false,
    decide_not, Bool.not_eq_true', decide_eq_false_iff_not, ite_not]

end

end

/-- A RELEASE drops the records that are its range, and no other (R264). -/
theorem release_effect (s : State) (m : Fin 16) (q : Fin 4) {i n off : Nat} {d : Desc} (hi : i < (s.postQ m q).length) :
    let t := (s.setBacks n ((s.backsOf n).filter fun x => !d.releases off x)).putDesc m q i { d with copied := true }
    t.backsOf n = (s.backsOf n).filter (fun x => !d.releases off x) ∧ (∀ p, p ≠ n → t.backsOf p = s.backsOf p) ∧
      (t.postQ m q)[i]? = some { d with copied := true } := by
  intro t
  have hbacks (p : Nat) : t.backsOf p = (s.setBacks n ((s.backsOf n).filter fun x => !d.releases off x)).backsOf p := by
    simp only [State.backsOf, t, State.putDesc, (setPostQ_kept _ m q _).1]
  refine ⟨(hbacks n).trans (backsOf_setBacks_same s n _), fun p hp => (hbacks p).trans (backsOf_setBacks_other s n _ hp), ?_⟩
  have hpost : (s.setBacks n ((s.backsOf n).filter fun x => !d.releases off x)).postQ m q = s.postQ m q := by
    rw [State.postQ, mover_setBacks]; rfl
  simp only [t, State.putDesc, postQ_setPostQ_same, hpost]
  exact List.getElem?_set_self hi

end Sys2Proof.Machine
end

section
/-!
PROOFS. Completion of a descriptor, and peer writes (R236, R257, R260, R516, R527, R568, R571, R572, R579, R580).
-/
namespace Sys2Proof.Machine

/-! Completion (R257, R260, R527). -/

theorem offPost_ge (m : Fin 16) (q : Fin 4) : offLANE ≤ offPost m q := by
  simp only [offLANE, offPost, offTIER]; omega

section
variable (s : State) (m : Fin 16) (q : Fin 4)

/-- DONE counts one more descriptor, and ERR names the last that ended with an error (R257, R260). -/
def State.descCounted (d : Desc) (st : Nat) : State :=
  let t := s.setField (offPost m q) 63 32 (s.field (offPost m q) 63 32 + 1)
  if st = 0 then t else (t.setBit (offPost m q) 0).setReg (offPost m q + 8) (BitVec.ofNat 64 (d.tag * 256 + st))

/-- An error counts for the host command that posted the descriptor (R527). -/
def State.hostFails (host : Option (Nat × Nat)) (st : Nat) : State :=
  match host with
  | some (sq, cid) =>
    let x := s.mover m.val
    let key := sq * 65536 + cid
    if st = 0 then s else s.setMover m.val { x with fails := tabSet x.fails key (tabGetD x.fails key 0 + 1) }
  | none => s

/-- Entry i of a post queue is free (R257). -/
def State.descFreed (i : Nat) : State := s.setPostQ m q ((s.postQ m q).eraseIdx i)

theorem descCounted_fields (d : Desc) (st : Nat) : let t := s.descCounted m q d st
    t.field (offPost m q) 63 32 = (s.field (offPost m q) 63 32 + 1) % 2 ^ 32 ∧
    (st = 0 → t.bit (offPost m q) 0 = s.bit (offPost m q) 0 ∧ t.reg (offPost m q + 8) = s.reg (offPost m q + 8)) ∧
    (st ≠ 0 → t.bit (offPost m q) 0 = true ∧ t.reg (offPost m q + 8) = BitVec.ofNat 64 (d.tag * 256 + st)) := by
  intro t
  have hne : offPost m q ≠ offPost m q + 8 := by omega
  by_cases h : st = 0
  · rw [show t = _ from if_pos h]
    exact ⟨field_setField_same _ _ _ _ _ (by decide), fun _ => ⟨bit_setField_apart _ _ (by decide) (by decide),
      reg_setField_other _ _ _ _ hne.symm⟩, fun hn => absurd h hn⟩
  · rw [show t = _ from if_neg h]
    refine ⟨?_, fun h0 => absurd h0 h, fun _ => ⟨?_, reg_setReg_same ..⟩⟩
    · rw [field_setReg_other _ _ _ _ hne, State.setBit, field_setField_apart _ _ (by decide) (by decide)]
      exact field_setField_same _ _ _ _ _ (by decide)
    · rw [bit_setReg_other _ _ _ hne]
      exact bit_setBit_same _ _ _ (by decide)

theorem descCounted_kept (d : Desc) (st : Nat) : (s.descCounted m q d st).movers = s.movers ∧
    (s.descCounted m q d st).cores = s.cores := by
  unfold State.descCounted
  dsimp only
  split <;> exact ⟨rfl, rfl⟩

theorem hostFails_mover (host : Option (Nat × Nat)) (st : Nat) : ∃ fails, (s.hostFails m host st).mover m.val =
      { s.mover m.val with fails := fails } ∧ ∀ sq cid, host = some (sq, cid) →
      tabGetD fails (sq * 65536 + cid) 0 = tabGetD (s.mover m.val).fails (sq * 65536 + cid) 0 + if st = 0 then 0 else 1 := by
  cases host with
  | none => exact ⟨_, rfl, fun _ _ h => nomatch h⟩
  | some x =>
    obtain ⟨sq, cid⟩ := x
    by_cases h : st = 0
    · refine ⟨(s.mover m.val).fails, congrArg (State.mover · m.val) (if_pos h), fun a b he => ?_⟩
      rw [if_pos h]; rfl
    · refine ⟨_, (congrArg (State.mover · m.val) (if_neg h)).trans (mover_setMover_same ..), fun a b he => ?_⟩
      obtain ⟨rfl, rfl⟩ : sq = a ∧ cid = b := by simpa using he
      rw [if_neg h, tabGetD_tabSet_same]

theorem hostFails_kept (host : Option (Nat × Nat)) (st : Nat) : (s.hostFails m host st).regs = s.regs ∧
    (s.hostFails m host st).cores = s.cores := by
  cases host with
  | none => exact ⟨rfl, rfl⟩
  | some x =>
    unfold State.hostFails
    dsimp only
    split <;> exact ⟨rfl, rfl⟩

/-- The end of a descriptor with its status: counted, its entry freed, an error counted for its host command. -/
def State.descEnded (i : Nat) (d : Desc) (st : Nat) : State :=
  ((s.descCounted m q d st).descFreed m q i).hostFails m d.host st

theorem descEnded_effect (i : Nat) (d : Desc) (st : Nat) : let u := s.descEnded m q i d st
    u.field (offPost m q) 63 32 = (s.field (offPost m q) 63 32 + 1) % 2 ^ 32 ∧
    (st = 0 → u.bit (offPost m q) 0 = s.bit (offPost m q) 0 ∧ u.reg (offPost m q + 8) = s.reg (offPost m q + 8)) ∧
    (st ≠ 0 → u.bit (offPost m q) 0 = true ∧ u.reg (offPost m q + 8) = BitVec.ofNat 64 (d.tag * 256 + st)) ∧
    u.postQ m q = (s.postQ m q).eraseIdx i ∧
    (∀ sq cid : Nat, d.host = some (sq, cid) → tabGetD (u.mover m.val).fails (sq * 65536 + cid) 0 =
      tabGetD (s.mover m.val).fails (sq * 65536 + cid) 0 + if st = 0 then 0 else 1) ∧ u.cores = s.cores := by
  intro u
  let a := s.descCounted m q d st
  let b := a.descFreed m q i
  obtain ⟨hmovers, hcores⟩ := descCounted_kept s m q d st
  obtain ⟨hdone, hok, herr⟩ := descCounted_fields s m q d st
  obtain ⟨hregs, hucores⟩ := hostFails_kept b m d.host st
  obtain ⟨fails, (hmover : u.mover m.val = { b.mover m.val with fails := fails }), hfails⟩ := hostFails_mover b m d.host st
  have hge := offPost_ge m q
  have hreg {off : Nat} (ho : offLANE ≤ off) : u.reg off = a.reg off :=
    (congrArg (regGet · off) hregs).trans ((setPostQ_keepsRegs a m q _).reg_eq off ho)
  have hreg0 := hreg hge
  have hreg8 := hreg (off := offPost m q + 8) (by omega)
  have hamover : a.mover m.val = s.mover m.val := congrArg (tabGetD · m.val Mover.zero) hmovers
  have hapost : a.postQ m q = s.postQ m q := congrArg (fun x : Mover => x.q[q]) hamover
  have hbmover : b.mover m.val = a.moverWith m q ((a.postQ m q).eraseIdx i) := mover_setPostQ ..
  refine ⟨?_, ?_, ?_, ?_, fun sq cid hhost => ?_, ?_⟩
  · rw [State.field, hreg0]; exact hdone
  · rw [State.bit, hreg0, hreg8]; exact hok
  · rw [State.bit, hreg0, hreg8]; exact herr
  · rw [State.postQ, hmover, ← hapost]
    exact postQ_setPostQ_same ..
  · rw [hmover, hfails sq cid hhost, hbmover, State.moverWith, hamover]
  · exact hucores.trans ((setPostQ_kept a m q _).2.1.trans hcores)

end

section
variable {s : State} {m : Fin 16} {q : Fin 4} {i : Nat} {d : Desc}

/-- Whether a descriptor that ends writes its update (R257). -/
def Desc.updates (d : Desc) : Bool := d.upd && decide (d.kind ≠ 4) && decide (d.status ≤ 1)

/-- Whether the address of an update is no longer the device's (R236). -/
def State.updGone (s : State) (d : Desc) : Bool := d.updates && decide (s.moverAccess d.uaddr 8 = .refused)

/-- The state after the update of a descriptor that ends, written or refused. -/
def State.updDone (s : State) (m : Fin 16) (d : Desc) : State :=
  if s.updGone d then s.refusedAt { d with status := 2 }
  else if d.updates then s.updWrite (moverOf m.val) d.cls d.uaddr d.w.w5 else s

section
variable (hl : s.live = true) (hd : (s.postQ m q)[i]? = some d) (hc : d.copied = true)
include hl hd hc

theorem exec_descriptorComplete_waits (hu : d.updates = true) (hw : s.updWaits (moverOf m.val) d.cls d.uaddr = true) :
    exec (.descriptorComplete m q i) s = .next s := by
  refine congrArg Host.Outcome.next ?_
  rw [hd]
  unfold Desc.updates at hu
  exact if_pos (by rw [hl, hc, hu, hw]; rfl)

theorem exec_descriptorComplete (hgo : d.updates = true → s.updWaits (moverOf m.val) d.cls d.uaddr = false) :
    exec (.descriptorComplete m q i) s =
      let u := (s.updDone m d).descEnded m q i d (if s.updGone d then 2 else d.status)
      let v := (u.drainWaiting m).tierEnded m.val d.host
      .next ((v.cores.map (·.1)).foldl (fun s n => (s.drainTier n 4).settle n) v) := by
  refine congrArg Host.Outcome.next ?_
  rw [hd]
  have hnow : ¬ (!s.live || !d.copied || (d.updates && s.updWaits (moverOf m.val) d.cls d.uaddr)) = true := by
    simpa [hl, hc] using hgo
  refine (if_neg hnow).trans ?_
  unfold State.updDone State.descEnded State.hostFails
  cases hg : s.updGone d with
  | true =>
    unfold State.updGone Desc.updates at hg
    simp only [hg, if_true]
    cases d.host <;> rfl
  | false =>
    unfold State.updGone Desc.updates at hg
    simp only [hg, Bool.false_eq_true, if_false]
    cases d.host <;> rfl

end

end

/-! Peer writes (R568 to R572, R579, R580). -/

section
variable {s : State} {m : Fin 16} {q : Fin 4} {i : Nat} {d : Desc} (hl : s.live = true) (hd : (s.postQ m q)[i]? = some d)
  (hc : d.copied = false) (hk : d.kind = 4)
include hl hd hc hk

theorem exec_wackTimeout (hf : d.frames ≠ 0) : exec (.wackTimeout m q i) s =
    .next ((if d.cont then s.clearBit (offUnit d.chku) 16 else s).putDesc m q i
      { d with copied := true, status := 7, phase := 3, frames := 0 }) := by
  show execWackTimeout m q i s = _
  simp only [execWackTimeout, hd, hl, hc, hk, hf, Bool.not_true, Bool.false_eq_true, ne_eq, not_true, decide_false, Bool.or_self,
    if_false]

end

/-- Whether a peer write waits for memory, for restorations in its source, or for its check unit (R568, R580). -/
def State.peerwWaits (s : State) (d : Desc) : Bool :=
  decide (s.moverAccess d.srcA d.len = .waits) || (fieldAt d.srcA).any (fun x => s.restoreWaits x.1 x.2 d.len) ||
    (d.cont && s.bit (offUnit d.chku) 16)

/-- The data of a peer write as it is read, its check unit taken first (R580). -/
def State.peerwRead (s : State) (m : Nat) (d : Desc) : ReadOut :=
  (if d.cont then s.setBit (offUnit d.chku) 16 else s).moverRead m d.cls d.srcA d.len

/-- The frames of that data on their way, under the next tag. -/
def State.peerwSent (o : ReadOut) (d : Desc) : Bool × State :=
  State.routeAll { o.s with nextTag := o.s.nextTag + 1 } (dataFrames d o.s.deviceId (o.s.nextTag + 1) o.bytes o.pois)

section
variable {s : State} {m : Fin 16} {q : Fin 4} {i : Nat} {d : Desc} (hl : s.live = true) (hd : (s.postQ m q)[i]? = some d)
  (hs : d.started = true) (hc : d.copied = false) (hk : d.kind = 4) (ht : d.ptag = 0)
include hl hd hs hc hk ht

theorem exec_peerw : exec (.peerw m q i) s =
    .next (if s.peerwWaits d = true then s
      else if s.moverAccess d.srcA d.len = .refused then s.putDesc m q i { d with copied := true, status := 2 }
      else if s.mayRead (moverOf m.val) d.cls d.srcA d.len = false then s
      else
        let o := s.peerwRead m.val d
        let r := State.peerwSent o d
        let d' : Desc := { d with ptag := o.s.nextTag + 1, frames := d.len / 256 }
        if r.1 = true then r.2.putDesc m q i d'
        else (if d.cont then r.2.clearBit (offUnit d.chku) 16 else r.2).putDesc m q i
          { d' with copied := true, status := 7, phase := 3 }) := by
  show execPeerw m q i s = _
  simp only [execPeerw, State.peerwWaits, hd, hl, hs, hc, hk, ht, Bool.not_true, Bool.false_or, ne_eq, not_true, decide_false,
    Bool.not_eq_true']
  rfl

theorem exec_peerw_waits (hw : s.peerwWaits d = true) : exec (.peerw m q i) s = .next s := by
  rw [exec_peerw hl hd hs hc hk ht, if_pos hw]

variable (hw : s.peerwWaits d = false)
include hw

theorem exec_peerw_refused (ha : s.moverAccess d.srcA d.len = .refused) :
    exec (.peerw m q i) s = .next (s.putDesc m q i { d with copied := true, status := 2 }) := by
  rw [exec_peerw hl hd hs hc hk ht, if_neg (Bool.eq_false_iff.mp hw), if_pos ha]

variable (ha : s.moverAccess d.srcA d.len = .ok)
include ha

theorem exec_peerw_held (hm : s.mayRead (moverOf m.val) d.cls d.srcA d.len = false) : exec (.peerw m q i) s = .next s := by
  rw [exec_peerw hl hd hs hc hk ht, if_neg (Bool.eq_false_iff.mp hw), if_neg (by rw [ha]; decide), if_pos hm]

theorem exec_peerw_sends (hm : s.mayRead (moverOf m.val) d.cls d.srcA d.len = true) : exec (.peerw m q i) s =
    let o := s.peerwRead m.val d
    let r := State.peerwSent o d
    let d' : Desc := { d with ptag := o.s.nextTag + 1, frames := d.len / 256 }
    .next (if r.1 = true then r.2.putDesc m q i d'
      else (if d.cont then r.2.clearBit (offUnit d.chku) 16 else r.2).putDesc m q i
        { d' with copied := true, status := 7, phase := 3 }) := by
  rw [exec_peerw hl hd hs hc hk ht, if_neg (Bool.eq_false_iff.mp hw), if_neg (by rw [ha]; decide), if_neg (by rw [hm]; decide)]

end

/-- Frame j of the data of a peer write: 256 bytes of it, LAST and UPD on the last where no check value follows (R568, R571). -/
def dataFrame (d : Desc) (src tag : Nat) (bytes : List Byte) (po : List Bool) (j : Nat) : Frame :=
  let last := decide (j + 1 = d.len / 256) && !d.chken
  { Frame.zero with
    ty := 1, dst := d.peer, src := src, pois := pois4 ((po.drop (4 * j)).take 4),
    flags := BitVec.ofNat 3 (flag last + 2 * flag (last && d.upd)), tag := tag, addr := d.dstA + 256 * j,
    payload := (bytes.drop (256 * j)).take 256, first := decide (j = 0) }

theorem dataFrames_getElem? (d : Desc) (src tag : Nat) (bytes : List Byte) (po : List Bool) {j : Nat} (hj : j < d.len / 256) :
    (dataFrames d src tag bytes po)[j]? = some (dataFrame d src tag bytes po j) := by
  simp only [dataFrames, List.getElem?_map, List.getElem?_range hj, Option.map_some]
  rfl

theorem dataFrames_length (d : Desc) (src tag : Nat) (bytes : List Byte) (po : List Bool) :
    (dataFrames d src tag bytes po).length = d.len / 256 := by simp [dataFrames]

theorem flags_getLsbD (a b : Bool) : (BitVec.ofNat 3 (flag a + 2 * flag b)).getLsbD 0 = a ∧
    (BitVec.ofNat 3 (flag a + 2 * flag b)).getLsbD 1 = b ∧ (BitVec.ofNat 3 (flag a + 2 * flag b)).getLsbD 2 = false := by
  revert a b; decide

end Sys2Proof.Machine
end

section
/-!
PROOFS. Frames that arrive, and quads that retrain, come up or go down (R560, R563 to R572, R586).
-/
namespace Sys2Proof.Machine

/-! Frames that arrive (R563 to R565, R569, R571). -/

section
variable {q : Fin 8} {bs : List Byte} {s : State}

theorem exec_frameReceive_ignored (h : s.live = false ∨ s.quadUp q.val = false ∨ bs.length ≠ 288) :
    exec (.frameReceive q bs) s = .next s := by
  refine congrArg Host.Outcome.next (if_pos ?_)
  rcases h with h | h | h <;> simp [h]

section
variable (hl : s.live = true) (hq : s.quadUp q.val = true) (hb : bs.length = 288)
include hl hq hb

/-- A frame whose check value does not match is answered with a NAK (R565). -/
theorem exec_frameReceive_badCrc (h : crcOf crcFrame (bs.take 280) ≠ leNat ((bs.drop 280).take 8)) :
    exec (.frameReceive q bs) s = .next (s.sendCtrl q.val true none) := by
  have hf : Frame.of bs = none := if_pos h
  show execFrameReceive q bs s = _
  simp only [execFrameReceive, hl, hq, hb, hf, ne_eq, not_true, decide_false, Bool.not_true, Bool.or_self, Bool.false_eq_true,
    if_false]

/-- Link acknowledgement and NAK of a frame take effect (R564, R565). -/
def State.hears (s : State) (q : Nat) (f : Frame) : State :=
  if f.nak then (s.acknowledge q f).resend q else s.acknowledge q f

variable {f : Frame} (hf : Frame.of bs = some f)
include hf

theorem exec_frameReceive_control (ht : f.ty = 0 ∨ f.ty = 3) :
    exec (.frameReceive q bs) s = .next ((s.hears q.val f).pumpQuad q.val 64) := by
  show execFrameReceive q bs s = _
  simp only [execFrameReceive, hl, hq, hb, hf, ht, ne_eq, not_true, decide_false, Bool.not_true, Bool.or_self, Bool.false_eq_true,
    if_false, if_true]
  rfl

section
variable (ht : f.ty = 1 ∨ f.ty = 2)
include ht

theorem exec_frameReceive_outOfOrder (hn : BitVec.ofNat 12 f.seq ≠ (s.quad q.val).rxSeq + 1#12) :
    exec (.frameReceive q bs) s = .next (s.sendCtrl q.val true none) := by
  have hc : ¬ (f.ty = 0 ∨ f.ty = 3) := by omega
  have hd : ¬ (f.ty ≠ 1 ∧ f.ty ≠ 2) := by omega
  show execFrameReceive q bs s = _
  simp only [execFrameReceive, hl, hq, hb, hf, hc, hd, hn, ne_eq, not_true, not_false_eq_true, decide_false, Bool.not_true,
    Bool.or_self, Bool.false_eq_true, if_false, if_true]

/-- The next frame in order has been taken off its quad. -/
def State.taking (s : State) (q : Nat) : State := s.setQuad q { s.quad q with rxSeq := (s.quad q).rxSeq + 1#12 }

variable (hn : BitVec.ofNat 12 f.seq = (s.quad q.val).rxSeq + 1#12)
include hn

theorem exec_frameReceive_waits (ha : (s.taking q.val).acceptFrame f = none) : exec (.frameReceive q bs) s = .next s := by
  have hc : ¬ (f.ty = 0 ∨ f.ty = 3) := by omega
  have hd : ¬ (f.ty ≠ 1 ∧ f.ty ≠ 2) := by omega
  unfold State.taking at ha
  show execFrameReceive q bs s = _
  simp only [execFrameReceive, hl, hq, hb, hf, hc, hd, hn, ha, ne_eq, not_true, decide_false, Bool.not_true, Bool.or_self,
    Bool.false_eq_true, if_false]

theorem exec_frameReceive_accepted {t : State} (ha : (s.taking q.val).acceptFrame f = some t) :
    exec (.frameReceive q bs) s = .next (((t.hears q.val f).sendCtrl q.val false (some f)).pumpQuad q.val 64) := by
  have hc : ¬ (f.ty = 0 ∨ f.ty = 3) := by omega
  have hd : ¬ (f.ty ≠ 1 ∧ f.ty ≠ 2) := by omega
  unfold State.taking at ha
  show execFrameReceive q bs s = _
  simp only [execFrameReceive, hl, hq, hb, hf, hc, hd, hn, ha, ne_eq, not_true, decide_false, Bool.not_true, Bool.or_self,
    Bool.false_eq_true, if_false]
  rfl

end

end

end

section
variable {w : State} {f : Frame}

theorem acceptFrame_forwards (h : f.dst ≠ w.deviceId) : w.acceptFrame f = some (w.route f).2 := if_pos h

variable (h : f.dst = w.deviceId)
include h

theorem acceptFrame_wack (ht : f.ty = 2) : w.acceptFrame f = some (w.frameWack f) := by
  rw [State.acceptFrame, if_neg (not_not_intro h), if_pos ht]

theorem acceptFrame_waits (ht : f.ty = 1) (hd : w.frameData f = none) : w.acceptFrame f = none := by
  rw [State.acceptFrame, if_neg (not_not_intro h), if_neg (by omega), hd]

theorem acceptFrame_data (ht : f.ty = 1) {st : Nat} {u : State} (hd : w.frameData f = some (st, u)) :
    w.acceptFrame f = some (u.route (wackFor f u.deviceId st)).2 := by
  rw [State.acceptFrame, if_neg (not_not_intro h), if_neg (by omega), hd]

end

/-! The data of a frame (R571, R778). -/

theorem trace_reports (s : State) (kind id dst src quad : Nat) : s.Reports (s.trace kind id dst src quad) :=
  .ite (.refl s) (.ite (.setBit (.refl s) _ _) rfl)

theorem stamp_reports (s : State) (f : Frame) (q first : Nat) : s.Reports (s.stamp f q first) :=
  .ite (.refl s) (.after (.ite (trace_reports ..) (.refl _)) (.ite (trace_reports ..) (.refl s)))

section
variable {s : State} {f : Frame} (hb : f.flags.getLsbD 2 = false) (hu : f.flags ≠ 2#3)
include hb hu

theorem frameData_refused {st : Nat} (hs : s.frameStatus f 256 = some st) (h0 : st ≠ 0) :
    s.frameData f = some (st, s.frameRefused f 256) := by
  simp only [State.frameData, hb, hu, hs, Bool.false_eq_true, if_false]

theorem frameData_writes (hs : s.frameStatus f 256 = some 0) : ∃ u : State, s.frameData f = some (0, u) ∧
    u.mem = (s.memFlitsFor peerOf 0 f.addr (flitsWith f.payload ((List.range 4).map fun i => f.pois.getLsbD i))).mem := by
  simp only [State.frameData, hb, hu, hs, Bool.false_eq_true, if_false]
  split
  · exact ⟨_, rfl, (stamp_reports ..).kept.1⟩
  · exact ⟨_, rfl, (stamp_reports ..).kept.1⟩

end

/-! Quads (R560, R565 to R567, R586). -/

section
variable {q : Fin 8} {s : State}

theorem exec_lackTimeout (hl : s.live = true) (hq : s.quadUp q.val = true) (hr : (s.quad q.val).replay ≠ []) :
    exec (.lackTimeout q) s = .next (s.retrain q.val) := by
  refine congrArg Host.Outcome.next (if_pos ?_)
  simp [hl, hq, hr]

theorem retrain_effect (s : State) (q : Nat) : (s.retrain q).field (offQuad q) 1 0 = 1 ∧
    (s.retrain q).field (offQuad q) 23 16 = Nat.min 255 (s.field (offQuad q) 23 16 + 1) ∧ (s.retrain q).quads = s.quads ∧
    (s.retrain q).mem = s.mem := by
  have hn : s.field (offQuad q) 23 16 < 256 := fieldOf_lt ..
  refine ⟨?_, ?_, rfl, rfl⟩
  · rw [State.retrain, field_setField_apart _ _ (by decide) (by decide)]
    exact field_setField_same _ _ _ _ _ (by decide)
  · rw [State.retrain, field_setField_same _ _ _ _ _ (by decide)]
    show _ = min 255 _
    split <;> omega

variable (hr : s.ready = true) (ht : s.field (offQuad q.val) 1 0 = 1)
include hr ht

theorem exec_retrainComplete_failed (rate width : BitVec 2) :
    exec (.retrainComplete q false rate width) s = .next (s.linkDown q.val) := by
  show execRetrainComplete q false rate width s = _
  simp only [execRetrainComplete, hr, ht, ne_eq, not_true, decide_false, Bool.not_true, Bool.or_self, Bool.false_eq_true, if_false,
    Bool.not_false, if_true]

end

/-- A field whose two halves have been cleared is zero. -/
theorem fieldOf_halves_cleared (w : Word) : fieldOf (putField (putField w 7 6 0) 5 4 0) 7 4 = 0 := by
  apply Nat.eq_of_testBit_eq
  intro i
  rw [fieldOf_testBit, putField_getLsbD _ _ _ _ _ (by decide), putField_getLsbD _ _ _ _ _ (by decide), Nat.zero_testBit,
    Nat.zero_testBit, Nat.zero_testBit]
  by_cases hi : i < 4
  · by_cases hlow : i < 2
    · rw [if_pos (by omega), Bool.and_false]
    · rw [if_neg (by omega), if_pos (by omega), Bool.and_false]
  · rw [decide_eq_false (by omega), Bool.false_and]

/-- The status of a quad that has failed to retrain (R567, R586). -/
def State.quadFailed (s : State) (q : Nat) : State :=
  (((s.setBit (offQuad q) 8).setField (offQuad q) 1 0 3).setField (offQuad q) 7 6 0).setField (offQuad q) 5 4 0

/-- A quad that has gone down, its status as failed and its buffers empty (R567). -/
def State.quadDown (s : State) (q : Nat) : State := (s.quadFailed q).setQuad q Quad.zero

theorem quadDown_effect (s : State) (q : Nat) : let u := s.quadDown q
    u.quadUp q = false ∧ u.field (offQuad q) 1 0 = 3 ∧ u.bit (offQuad q) 8 = true ∧ u.field (offQuad q) 7 4 = 0 ∧
      u.quad q = Quad.zero ∧ u.mem = s.mem := by
  intro u
  have hreg : u.reg (offQuad q) = (s.quadFailed q).reg (offQuad q) := rfl
  have hstate : u.field (offQuad q) 1 0 = 3 := by
    rw [State.field, hreg, ← State.field, State.quadFailed, field_setField_apart _ _ (by decide) (by decide),
      field_setField_apart _ _ (by decide) (by decide)]
    exact field_setField_same _ _ _ _ _ (by decide)
  refine ⟨by rw [State.quadUp, hstate]; rfl, hstate, ?_, ?_, quad_setQuad_same .., rfl⟩
  · rw [State.bit, hreg, ← State.bit, State.quadFailed, bit_setField_apart _ _ (by decide) (by decide),
      bit_setField_apart _ _ (by decide) (by decide), bit_setField_apart _ _ (by decide) (by decide)]
    exact bit_setBit_same _ _ _ (by decide)
  · rw [State.field, hreg, State.quadFailed, reg_setField_same, reg_setField_same]
    exact fieldOf_halves_cleared _

theorem linkDown_eq (s : State) (q : Nat) : s.linkDown q =
    let x := s.quad q
    let v := (x.replay.map (·.1) ++ x.queue).foldl (fun s f => (s.route { f with first := false }).2) (s.quadDown q)
    v.event 9 0x40 0#64 (BitVec.ofNat 64 q) (BitVec.ofNat 64 (v.field (offQuad q) 23 16)) := rfl

/-- A quad that has come up at a rate and a width (R560). -/
def State.quadTrained (s : State) (q : Nat) (rate width : BitVec 2) : State :=
  ((s.setField (offQuad q) 1 0 2).setField (offQuad q) 7 6 rate.toNat).setField (offQuad q) 5 4 width.toNat

/-- A quad that is up again sends its replay buffer (R566). -/
def State.quadBack (s : State) (q : Nat) (rate width : BitVec 2) : State :=
  ((s.quad q).replay.foldl (fun s r => s.emit q r.1.bytes) (s.quadTrained q rate width)).setQuad q
    { s.quad q with replay := (s.quad q).replay.map fun r => (r.1, 0) }

theorem foldl_emit (s : State) (q : Nat) (l : List (Frame × Nat)) : l.foldl (fun s r => s.emit q r.1.bytes) s =
    { s with outbox := { s.outbox with frames := s.outbox.frames ++ l.map fun r => (q, r.1.bytes) } } := by
  induction l generalizing s with
  | nil => simp
  | cons r l ih => rw [List.foldl_cons, ih]; simp [State.emit]

theorem quadBack_eq (s : State) (q : Nat) (rate width : BitVec 2) : s.quadBack q rate width =
    State.setQuad { s.quadTrained q rate width with outbox := { s.outbox with
      frames := s.outbox.frames ++ (s.quad q).replay.map fun r => (q, r.1.bytes) } } q
      { s.quad q with replay := (s.quad q).replay.map fun r => (r.1, 0) } := by
  rw [State.quadBack, foldl_emit]
  rfl

theorem quadBack_effect (s : State) (q : Nat) (rate width : BitVec 2) : let u := s.quadBack q rate width
    u.quadUp q = true ∧ u.field (offQuad q) 7 6 = rate.toNat ∧ u.field (offQuad q) 5 4 = width.toNat ∧
      u.outbox.frames = s.outbox.frames ++ (s.quad q).replay.map (fun r => (q, r.1.bytes)) ∧
      u.quad q = { s.quad q with replay := (s.quad q).replay.map fun r => (r.1, 0) } ∧ u.mem = s.mem := by
  intro u
  have hregs (off : Nat) : u.reg off = (s.quadTrained q rate width).reg off := by
    rw [show u = _ from quadBack_eq s q rate width]; rfl
  refine ⟨?_, ?_, ?_, ?_, ?_, ?_⟩
  · rw [State.quadUp, State.field, hregs, ← State.field, State.quadTrained, field_setField_apart _ _ (by decide) (by decide),
      field_setField_apart _ _ (by decide) (by decide), field_setField_same _ _ _ _ _ (by decide)]
    rfl
  · rw [State.field, hregs, ← State.field, State.quadTrained, field_setField_apart _ _ (by decide) (by decide),
      field_setField_same _ _ _ _ _ (by decide)]
    exact Nat.mod_eq_of_lt rate.isLt
  · rw [State.field, hregs, ← State.field, State.quadTrained, field_setField_same _ _ _ _ _ (by decide)]
    exact Nat.mod_eq_of_lt width.isLt
  · rw [show u = _ from quadBack_eq s q rate width]; rfl
  · rw [show u = _ from quadBack_eq s q rate width]; exact quad_setQuad_same ..
  · rw [show u = _ from quadBack_eq s q rate width]; rfl

theorem exec_retrainComplete_up {q : Fin 8} {rate width : BitVec 2} {s : State} (hr : s.ready = true)
    (ht : s.field (offQuad q.val) 1 0 = 1) (hrate : rate = 1#2 ∨ rate = 2#2) (hwidth : width = 1#2 ∨ width = 2#2) :
    exec (.retrainComplete q true rate width) s = .next ((s.quadBack q.val rate width).pumpQuad q.val 64) := by
  have hok : ¬ (rate = 0#2 ∨ rate = 3#2 ∨ width = 0#2 ∨ width = 3#2) := by
    rcases hrate with rfl | rfl <;> rcases hwidth with rfl | rfl <;> decide
  show execRetrainComplete q true rate width s = _
  simp only [execRetrainComplete, hr, ht, hok, ne_eq, not_true, decide_false, Bool.not_true, Bool.or_self, Bool.false_eq_true,
    if_false]
  rfl

end Sys2Proof.Machine
end

section
/-!
PROOFS. The movers and the link: the obligation of descriptors, peer frames and quads (R253 to R264, R563 to R572).
-/
namespace Sys2Proof.Machine

/-- Settles O53: each descriptor by the equation of its event and what its queue, its log and the backing records are after it; each
frame by whether it is accepted, and each quad by its status and buffers. An armed flip in a log touches neither the registers of
the post queues nor bytes outside the log. -/
theorem moverDescriptorsAndPeerFrames : Obligations.MoverDescriptorsAndPeerFrames := by
  unfold Obligations.MoverDescriptorsAndPeerFrames
  refine ⟨fun m q i d s hi => ?put, fun m q s i d hl hi hd => ?start, fun m q s i d hl hd hs hc hk => ?copy,
    fun m q s i n off d hl hd hs hc hk hf => ?release, fun m q s i d hl hd hs hc hk => ?fence,
    fun m q s i d hl hd hs hc hk => ?peer, fun d src tag bytes po j hj => ?data, fun m q i s d hl hd hc => ?complete,
    fun q bs s hl hq hb => ⟨exec_frameReceive_badCrc hl hq hb, fun f hf => ?frame⟩,
    fun s f hb hu => ⟨fun st => frameData_refused hb hu, frameData_writes hb hu⟩, fun q bs s => exec_frameReceive_ignored,
    fun q s hl hq hr => ⟨_, exec_lackTimeout hl hq hr, retrain_effect s q.val⟩, fun q rate width s hr ht => ?retrain⟩
  case put =>
    have hlen : ((s.postQ m q).set i d).length = (s.postQ m q).length := List.length_set
    exact ⟨postQ_setPostQ_same .., fun m' q' h => postQ_setPostQ_other _ _ _ _ h, fun a ha => memByte_setPostQ_out s (hlen ▸ ha),
      setPostQ_kept ..⟩
  case start =>
    rw [exec_descriptorStart hl hi hd]
    refine ⟨fun ho h0 => by rw [if_pos ⟨ho, h0⟩], fun h => ?_⟩
    have hgo : ¬ (d.ord = true ∧ i ≠ 0) := fun ⟨ho, h0⟩ => h.elim (fun hn => by rw [hn] at ho; cases ho) h0
    rw [if_neg hgo]
    exact ⟨fun hst => by rw [if_pos hst], fun hst => by rw [if_neg hst]⟩
  case copy =>
    intro waits mayNot
    refine ⟨exec_descriptorCopy_waits hl hd hs hc hk, exec_descriptorCopy_refused hl hd hs hc hk,
      exec_descriptorCopy_held hl hd hs hc hk,
      fun hw hst hg hplain => exec_descriptorCopy_moves hl hd hs hc hk hw hst hg (copyDone_plain hplain),
      fun n off hw hst hg hback hf w bs hbeats => ⟨?_, ?_⟩⟩
    · rintro rfl
      exact exec_descriptorCopy_moves hl hd hs hc hk hw hst hg (copyDone_lost hback hf hbeats)
    · rintro l rfl
      exact exec_descriptorCopy_moves hl hd hs hc hk hw hst hg (copyDone_back hback hf hbeats)
  case release =>
    intro hit
    rw [exec_descriptorRelease hl hd hs hc hk hf]
    refine ⟨fun hr => by rw [if_pos hr], fun hr hx => ?_, fun hr hx => ?_⟩
    · have hany : (s.backsOf n).any (d.releases off) = true := List.any_eq_true.mpr hx
      rw [if_neg (Bool.eq_false_iff.mp hr), if_pos hany]
      exact ⟨_, rfl, release_effect s m q (List.getElem?_eq_some_iff.mp hd).1⟩
    · have hany : ¬ (s.backsOf n).any (d.releases off) = true :=
        Bool.eq_false_iff.mp (List.any_eq_false.mpr fun x h => Bool.eq_false_iff.mp (hx x h))
      rw [if_neg (Bool.eq_false_iff.mp hr), if_neg hany]
  case fence =>
    rw [exec_descriptorFence hl hd hs hc hk]
    exact ⟨fun h => by rw [if_pos h], fun h => by rw [if_neg h]⟩
  case peer =>
    intro u idle mayNot
    refine ⟨exec_wackTimeout hl hd hc hk, exec_peerw_waits hl hd hs hc hk, exec_peerw_refused hl hd hs hc hk,
      fun ht hw ha => ⟨exec_peerw_held hl hd hs hc hk ht hw ha, fun hm => ?_⟩⟩
    have hsends := exec_peerw_sends hl hd hs hc hk ht hw ha hm
    exact ⟨fun hr => hsends.trans (congrArg _ (if_pos hr)),
      fun hr => hsends.trans (congrArg _ (if_neg (Bool.eq_false_iff.mp hr)))⟩
  case data =>
    obtain ⟨hlast, hupd, hcheck⟩ := flags_getLsbD (decide (j + 1 = d.len / 256) && !d.chken)
      (decide (j + 1 = d.len / 256) && !d.chken && d.upd)
    exact ⟨_, dataFrames_getElem? d src tag bytes po hj, dataFrames_length .., rfl, rfl, rfl, rfl, rfl, rfl, hlast, hupd, hcheck⟩
  case complete =>
    intro upd gone st w
    exact ⟨exec_descriptorComplete_waits hl hd hc,
      fun hgo => ⟨_, exec_descriptorComplete hl hd hc hgo, descEnded_effect w m q i d st⟩⟩
  case frame =>
    intro heard
    refine ⟨exec_frameReceive_control hl hq hb hf, exec_frameReceive_outOfOrder hl hq hb hf, fun ht hn => ?_⟩
    intro w
    have haccepted {t : State} (ha : w.acceptFrame f = some t) := exec_frameReceive_accepted hl hq hb hf ht hn ha
    exact ⟨fun hdst => haccepted (acceptFrame_forwards hdst), fun hdst hty => haccepted (acceptFrame_wack hdst hty),
      fun hdst hty hnone => exec_frameReceive_waits hl hq hb hf ht hn (acceptFrame_waits hdst hty hnone),
      fun st u hdst hty hsome => haccepted (acceptFrame_data hdst hty hsome)⟩
  case retrain =>
    intro x
    exact ⟨⟨_, exec_retrainComplete_failed hr ht rate width, quadDown_effect s q.val⟩,
      fun hrate hwidth => ⟨_, exec_retrainComplete_up hr ht hrate hwidth, quadBack_effect s q.val rate width⟩⟩

end Sys2Proof.Machine
end

section
/-!
PROOFS. HST and RCX of station code (R289, R290, R411, R416, R417, R419, R429).
-/
namespace Sys2Proof.Machine

section
variable (f : Fields)

/-- The address of HST, with its offset of 25 bits. -/
theorem addrOf_low25 (x : Context) :
    addrOf x f (immBits f 24 0) = (x.getA f.srca.toNat + (f.imm.setWidth 25).setWidth 64).toNat := by
  have hoff : BitVec.ofInt 64 (immBits f 24 0) = (f.imm.setWidth 25).setWidth 64 := by
    apply BitVec.eq_of_toNat_eq
    rw [immBits_eq]
    simp
    omega
  rw [addrOf, hoff]

theorem immBits_hstQuarter : immBits f 28 27 = f.imm.toNat / 2 ^ 27 % 4 := immBits_eq f 28 27
theorem immBits_rcxEngines : immBits f 32 31 = f.imm.toNat / 2 ^ 31 % 4 := immBits_eq f 32 31
theorem immBits_rcxFirstOut : immBits f 14 11 = f.imm.toNat / 2 ^ 11 % 16 := immBits_eq f 14 11
theorem immBits_rcxOuts : immBits f 10 8 = f.imm.toNat / 2 ^ 8 % 8 := immBits_eq f 10 8
theorem immBits_rcxTiles : immBits f 7 1 = f.imm.toNat / 2 % 128 := immBits_eq f 7 1

end

/-! HST (R289, R416, R417). -/

section
variable {u : Issue} {f : Fields} {s : State}

/-- An HST that need not wait is checked for ALIGN and HOST; its poison stays in the device, and clean data leaves by a port. -/
theorem exec_hst (h : s.issues (.hst u f))
    (hm : (s.taintIf u ((s.at u).poisA f.srca.toNat)).memStall u.core.val u.ctx = false) :
    exec (.hst u f) s =
      let n := u.core.val
      let a := ((s.at u).getA f.srca.toNat + (f.imm.setWidth 25).setWidth 64).toNat
      let t := s.taintIf u ((s.at u).poisA f.srca.toNat)
      let whole := f.imm.getLsbD 29
      let q := f.imm.toNat / 2 ^ 27 % 4
      let v := (s.at u).getV f.srcb.toNat
      let len := if whole then 256 else 64
      .next (Eff.ends s u (if a % len ≠ 0 then .fault t fALIGN
        else if !t.hstOk n a len then .fault t fHOST
        else if (t.at u).taint || (if whole then decide (v.pois ≠ 0#4) else v.pois.getLsbD q) then .next (t.egressPoison n u.ctx)
        else if !(t.portUp .a || t.portUp .b) then .stall
        else .next { t with host := memWrite t.host a (if whole then v.bytes else (v.bytes.drop (64 * q)).take 64) })) := by
  refine congrArg Host.Outcome.next (issue_unstalled h hm ?_)
  simp only [addrOf_low25, immBits_hstQuarter, immBit, getV_taintIf]
  rfl

end

/-- Settles O32: an HST by its checks in their order. -/
theorem hostStore : Obligations.HostStore := by
  unfold Obligations.HostStore
  intro u f s h x n a s' whole q v len po hm
  have hi := exec_hst h hm
  have hports : ¬ (!(s'.portUp .a || s'.portUp .b)) = true ↔ s'.portUp .a = true ∨ s'.portUp .b = true := by
    simp only [Bool.not_eq_true', Bool.not_eq_false, Bool.or_eq_true]
  have haligned {e : Eff} (hal : a % len = 0) (he : _ = e) := exec_ends hi ((if_neg (not_not_intro hal)).trans he)
  have hdeclared {e : Eff} (hal : a % len = 0) (hok : s'.hstOk n a len = true) (he : _ = e) :=
    haligned hal ((if_neg (by rw [hok]; decide)).trans he)
  have hclean {e : Eff} (hal : a % len = 0) (hok : s'.hstOk n a len = true) (hpo : po = false) (he : _ = e) :=
    hdeclared hal hok ((if_neg (Bool.eq_false_iff.mp hpo)).trans he)
  refine ⟨fun hal => exec_ends hi (if_pos hal), fun hal hno => haligned hal (if_pos (congrArg (!·) hno)),
    fun hal hok hpo => hdeclared hal hok (if_pos hpo), fun hal hok hpo hup => hclean hal hok hpo (if_neg (hports.mpr hup)),
    fun hal hok hpo ha hb => hclean (e := .stall) hal hok hpo (if_pos (by rw [ha, hb]; rfl))⟩

/-! RCX (R290, R411, R419, R429). -/

/-- The input handles that an RCX names. -/
def rcxIns (f : Fields) : List Nat := (List.range 16).filter fun i => f.imm.getLsbD (15 + i)

/-- The first output handle of an RCX. -/
def rcxFirstOut (f : Fields) : Nat := f.imm.toNat / 2 ^ 11 % 16

/-- How many output handles an RCX has. -/
def rcxOutCount (f : Fields) : Nat := f.imm.toNat / 2 ^ 8 % 8 + 1

/-- The output handles that an RCX names. -/
def rcxOuts (f : Fields) : List Nat := (List.range (rcxOutCount f)).map (rcxFirstOut f + ·)

/-- The engines that an RCX takes results of. -/
def rcxEngines (f : Fields) : BitVec 2 := BitVec.ofNat 2 (f.imm.toNat / 2 ^ 31 % 4)

/-- The reduce that an RCX arms. -/
def State.rcxArmed (s : State) (u : Issue) (f : Fields) : Rcx :=
  let v := (s.at u).getV f.srcb.toNat
  { c := u.ctx, root := f.imm.getLsbD 33, engs := rcxEngines f,
    ins := (rcxIns f).filterMap fun i => (s.handle u i).map fun e => (i, e.1.idx),
    outs := (rcxOuts f).filterMap fun i => (s.handle u i).map fun e => e.1.idx,
    tiles := f.imm.toNat / 2 % 128 + 1, scale := if (s.at u).taint then { v with pois := 15#4 } else v,
    got := [], sums := [], sent := 0 }

section
variable {u : Issue} {f : Fields} {s : State}

/-- An RCX is checked for ILL, REG and HANDLE, waits while four reduces are armed, and then arms one. -/
theorem exec_rcx (h : s.issues (.rcx u f)) : exec (.rcx u f) s =
    let k := s.core u.core.val
    .next (Eff.ends s u (
      if ((rcxIns f).isEmpty && decide (rcxEngines f = 0#2)) || (!f.imm.getLsbD 33 && decide (rcxOutCount f ≠ 1)) then
        .fault s fILL
      else if rcxFirstOut f + rcxOutCount f > 16 then .fault s fREG
      else if ((rcxIns f).any fun i => !(s.handle u i).any fun e => !e.1.sending) ||
          ((rcxOuts f).any fun i => !(s.handle u i).any fun e => e.1.sending) then .fault s fHANDLE
      else if k.rcx.length ≥ 4 then .stall
      else .next (s.setCore u.core.val { k with rcx := k.rcx ++ [s.rcxArmed u f] }))) := by
  refine (congrArg Host.Outcome.next (issue_ends h _)).trans ?_
  simp only [immBits_rcxEngines, immBits_rcxFirstOut, immBits_rcxOuts, immBits_rcxTiles, List.any_map, List.filterMap_map,
    rcxIns, rcxOuts, rcxOutCount, rcxFirstOut, rcxEngines, State.rcxArmed]
  rfl

theorem handle_receives_iff {i : Nat} : ((s.handle u i).any fun e => !e.1.sending) = true ↔
    ∃ e last, s.handle u i = some (e, last) ∧ e.sending = false := by
  simp [Option.any_eq_true]

theorem handle_sends_iff {i : Nat} : ((s.handle u i).any fun e => e.1.sending) = true ↔
    ∃ e last, s.handle u i = some (e, last) ∧ e.sending = true := by
  simp [Option.any_eq_true]

end

/-- Settles O34: an RCX by its checks in their order. -/
theorem columnReduceIsArmed : Obligations.ColumnReduceIsArmed := by
  unfold Obligations.ColumnReduceIsArmed
  intro u f s h x n k root engs hs out0 nout outs fault sends receives
  have hi := exec_rcx h
  have hill : ((hs.isEmpty && decide (engs = 0#2)) || (!root && decide (nout ≠ 1))) = true ↔
      (hs = [] ∧ engs = 0#2 ∨ root = false ∧ nout ≠ 1) := by simp
  have hbound : (hs.any (fun i => !(s.handle u i).any fun e => !e.1.sending) ||
      outs.any fun i => !(s.handle u i).any fun e => e.1.sending) = true ↔
      ¬ ((∀ i ∈ hs, receives i) ∧ ∀ i ∈ outs, sends i) := by
    simp only [receives, sends, ← handle_receives_iff, ← handle_sends_iff, ← List.not_all_eq_any_not, ← Bool.not_and,
      ← List.all_eq_true, ← Bool.and_eq_true, Bool.not_eq_true', Bool.not_eq_true]
  have hlegal {e : Eff} (hl : ¬ (hs = [] ∧ engs = 0#2 ∨ root = false ∧ nout ≠ 1)) (he : _ = e) :=
    exec_ends hi ((if_neg (mt hill.mp hl)).trans he)
  have hnamed {e : Eff} (hl : ¬ (hs = [] ∧ engs = 0#2 ∨ root = false ∧ nout ≠ 1)) (ho : out0 + nout ≤ 16) (he : _ = e) :=
    hlegal hl ((if_neg (Nat.not_lt.mpr ho)).trans he)
  exact ⟨fun hl => exec_ends hi (if_pos (hill.mpr hl)), fun hl => ⟨fun ho => hlegal hl (if_pos ho),
    fun ho hb => hnamed hl ho (if_pos (hbound.mpr hb)),
    fun ho hr hs hk => hnamed hl ho ((if_neg fun hb => hbound.mp hb ⟨hr, hs⟩).trans (if_neg (Nat.not_le.mpr hk)))⟩⟩

end Sys2Proof.Machine
end

section
/-!
PROOFS. Issue of group code: subgroups that do not issue, and encodings that fault (R309, R453, R459, R461, R463, R469, R472, R473,
R483).
-/
namespace Sys2Proof.Machine

/-- Every group instruction issues with the operands that groupUseOf gives it; GATOM tests its operation by a Bool. -/
theorem exec_groupInstr {i : Instr} {g : GIssue} {f : Fields} {w : GUse} {pairs : List Nat}
    (h : groupUseOf i = some (g, f, w, pairs)) :
    ∃ body, ∀ s, exec i s = .next (s.gIssue g f w pairs body) := by
  cases i
  case gatom =>
    cases h
    apply Exists.intro
    intro s
    show execGatom g f s = _
    simp only [execGatom, decide_eq_true_eq]
    rfl
  all_goals cases h <;> exact ⟨_, fun _ => rfl⟩

/-- Back-fill of a group waits while decode work of its core is ready (R309). -/
def State.groupWaits (s : State) (g : GIssue) : Bool :=
  s.asBackfill g.core.val (s.grp g.core.val g.gctx).owner && s.decodeReady g.core.val

section
variable {s : State} {g : GIssue} {b : Subgroup}

theorem subReady_iff : s.subReady g.core.val g.gctx b = true ↔ (s.grp g.core.val g.gctx).busy = true ∧
    (s.grp g.core.val g.gctx).killed = false ∧ b.atRcv = false ∧
    ∀ id, b.fence = some id → s.storesBefore g.core.val g.gctx.val id = false := by
  have hfence : b.fence.any (s.storesBefore g.core.val g.gctx.val) = false ↔
      ∀ id, b.fence = some id → s.storesBefore g.core.val g.gctx.val id = false := by
    cases b.fence <;> simp
  simp only [State.subReady, Bool.and_eq_true, Bool.not_eq_true', hfence, and_assoc]

theorem subgroupReady_iff : s.subgroupReady g b ↔ (s.grp g.core.val g.gctx).sub? g.lane = some b ∧
    s.coreLive g.core.val = true ∧ s.subReady g.core.val g.gctx b = true ∧ s.groupWaits g = false := by
  simp only [State.subgroupReady, subReady_iff, State.groupWaits, ← Bool.and_eq_true, Bool.not_eq_true, and_assoc]

end

section
variable {s : State} {g : GIssue} {f : Fields} {w : GUse} {pairs : List Nat} {first : Bool}
  {body : GIssue → State → GroupCtx → Subgroup → GEff}

/-! One subgroup. -/

/-- A lane without a subgroup that may issue does nothing. -/
theorem gStep_not_ready (h : ∀ b, (s.grp g.core.val g.gctx).sub? g.lane = some b →
    (s.coreLive g.core.val && s.subReady g.core.val g.gctx b) = false) : s.gStep g f w pairs first body = none := by
  cases hb : (s.grp g.core.val g.gctx).sub? g.lane with
  | none => simp only [State.gStep, hb]
  | some b =>
    have hno := h b hb
    rw [← Bool.not_eq_true', Bool.not_and] at hno
    simp only [State.gStep, hb, hno, if_true]

/-- A subgroup that lacks a register does nothing. -/
theorem gStep_awaits (hf : w.fault f = none)
    (hp : ∃ r ∈ w.regs f pairs, ∃ l, l < 32 ∧ l * 64 + r ∈ (s.grp g.core.val g.gctx).pend) :
    s.gStep g f w pairs first body = none := by
  have hany : ((w.regs f pairs).any fun r => (List.range 32).any fun l =>
      (s.grp g.core.val g.gctx).pend.contains (l * 64 + r)) = true := by
    obtain ⟨r, hr, l, hl, hm⟩ := hp
    exact List.any_eq_true.mpr ⟨r, hr, List.any_eq_true.mpr ⟨l, List.mem_range.mpr hl, List.contains_iff_mem.mpr hm⟩⟩
  simp only [State.gStep, hf, hany, if_true, ite_self]
  cases (s.grp g.core.val g.gctx).sub? g.lane <;> rfl

/-- An encoding that faults kills the context of a subgroup that may issue, whatever the instruction would do (R453, R483). -/
theorem gStep_fault {c : Nat} (hc : w.fault f = some c) : s.gStep g f w pairs first body =
    ((s.grp g.core.val g.gctx).sub? g.lane).bind fun b =>
      if !s.coreLive g.core.val || !s.subReady g.core.val g.gctx b then none
      else some (s.killGroup g.core.val g.gctx c b.pc.toNat) := by
  simp only [State.gStep, hc]
  cases (s.grp g.core.val g.gctx).sub? g.lane <;> rfl

/-! Its bundle. -/

theorem gIssue_waits (h : s.groupWaits g = true) : s.gIssue g f w pairs body = s := if_pos h

theorem gIssue_of_no_step (h : s.gStep g f w pairs true body = none) : s.gIssue g f w pairs body = s := by
  simp only [State.gIssue, h, ite_self]

end

section
variable {l : List Rank} {r : Rank}

theorem exists_rank_of_mem_pickRanks {n : Nat} {m : BitVec 32} {h : GIssue} (hh : h ∈ pickRanks n m l) : ∃ r ∈ l, r.g = h := by
  induction l generalizing n m with
  | nil => cases n <;> cases hh
  | cons y t ih =>
    have htail {n : Nat} {m : BitVec 32} (hh : h ∈ pickRanks n m t) : ∃ r ∈ y :: t, r.g = h :=
      (ih hh).imp fun _ hr => hr.imp_left (List.mem_cons_of_mem y)
    cases n with
    | zero => cases hh
    | succ n =>
      rw [pickRanks] at hh
      split at hh
      · obtain rfl | hh := List.mem_cons.mp hh
        · exact ⟨y, List.mem_cons_self, rfl⟩
        · exact htail hh
      · exact htail hh

theorem mem_rankInsert {x : Rank} (hx : x ∈ rankInsert l r) : x = r ∨ x ∈ l := by
  induction l with
  | nil => exact .inl (List.mem_singleton.mp hx)
  | cons y t ih =>
    rw [rankInsert] at hx
    split at hx
    · exact List.mem_cons.mp hx
    · obtain rfl | hx := List.mem_cons.mp hx
      · exact .inr List.mem_cons_self
      · exact (ih hx).imp_right (List.mem_cons_of_mem y)

theorem mem_foldl_rankInsert {l acc : List Rank} {x : Rank} (hx : x ∈ l.foldl rankInsert acc) : x ∈ acc ∨ x ∈ l := by
  induction l generalizing acc with
  | nil => exact .inl hx
  | cons y t ih =>
    obtain hx | hx := ih hx
    · obtain rfl | hx := mem_rankInsert hx
      · exact .inr List.mem_cons_self
      · exact .inl hx
    · exact .inr (List.mem_cons_of_mem y hx)

end

section
variable {s : State} {g : GIssue} {f : Fields} {w : GUse} {pairs : List Nat}
  {body : GIssue → State → GroupCtx → Subgroup → GEff}

/-- The partners of a bundle are of the leader's core. -/
theorem core_of_partner {h : GIssue} (hh : h ∈ s.partners g f w pairs) : h.core = g.core := by
  simp only [State.partners] at hh
  split at hh
  · cases hh
  · split at hh
    · cases hh
    · obtain ⟨r, hr, rfl⟩ := exists_rank_of_mem_pickRanks hh
      obtain hr | hr := mem_foldl_rankInsert hr
      · cases hr
      · obtain ⟨y, -, hy⟩ := List.mem_flatMap.mp (List.mem_filter.mp hr).1
        split at hy
        · cases hy
        · obtain ⟨c, -, rfl⟩ := List.mem_map.mp hy
          rfl

/-- A bundle of an encoding that faults: each of its contexts that may issue is killed (R472, R473, R483). -/
theorem gIssue_fault {i : Instr} {c : Nat} {b : Subgroup} (hi : groupUseOf i = some (g, f, w, pairs)) (hb : s.subgroupReady g b)
    (hc : w.fault f = some c) : s.gIssue g f w pairs body = s.runBundle i fun _ _ _ _ => .inr c := by
  obtain ⟨hsub, hlive, hready, hgo⟩ := subgroupReady_iff.mp hb
  have hlead : s.gStep g f w pairs true body = some (s.killGroup g.core.val g.gctx c b.pc.toNat) := by
    simp only [gStep_fault hc, hsub, hlive, hready, Option.bind_some, Bool.not_true, Bool.or_self, Bool.false_eq_true, if_false]
  rw [State.groupWaits] at hgo
  simp only [State.gIssue, hgo, Bool.false_eq_true, if_false, hlead, State.runBundle, hi, hsub, Bool.not_true, Bool.false_and]
  refine List.foldl_rel (r := Eq) rfl fun h hh t _ ht => ?_
  subst ht
  rw [gStep_fault hc, core_of_partner hh]
  cases hsub' : (t.grp g.core.val h.gctx).sub? h.lane with
  | none => rfl
  | some d =>
    simp only [Option.bind_some, hc, Option.isNone_some, Bool.false_and, Bool.or_false, Bool.not_false, Bool.true_and]
    split <;> rfl

/-- An encoding that faults kills the context of a subgroup that leads no bundle. -/
theorem runBundle_fault_alone {i : Instr} {c : Nat} {b : Subgroup} (hi : groupUseOf i = some (g, f, w, pairs))
    (hb : s.subgroupReady g b) (hp : s.partners g f w pairs = []) :
    s.runBundle i (fun _ _ _ _ => .inr c) = s.killGroup g.core.val g.gctx c b.pc.toNat := by
  obtain ⟨hsub, -⟩ := hb
  simp only [State.runBundle, hi, hsub, hp, List.foldl_nil, Bool.not_true, Bool.false_and, Bool.false_eq_true, if_false]

end

/-- Settles O37: every group instruction is an issue of its operands; one whose subgroups may not issue or lack a register has no
step, and an encoding that faults kills whatever the instruction would do. -/
theorem groupCodeHeldOrFaulted : Obligations.GroupCodeHeldOrFaulted := by
  unfold Obligations.GroupCodeHeldOrFaulted
  intro i g f w pairs s hi
  obtain ⟨body, hexec⟩ := exec_groupInstr hi
  rw [hexec]
  refine ⟨fun hno => congrArg _ ?held, fun b hb => ⟨fun c hc => congrArg _ (gIssue_fault hi hb hc),
    fun c hc hp => congrArg _ ((gIssue_fault hi hb hc).trans (runBundle_fault_alone hi hb hp)),
    fun hf hp => congrArg _ (gIssue_of_no_step (gStep_awaits hf hp))⟩⟩
  case held =>
    cases hgo : s.groupWaits g
    · refine gIssue_of_no_step (gStep_not_ready fun b hsub => Bool.eq_false_iff.mpr fun hr => hno b ?_)
      obtain ⟨hlive, hready⟩ := (Bool.and_eq_true _ _).mp hr
      exact subgroupReady_iff.mpr ⟨hsub, hlive, hready, hgo⟩
    · exact gIssue_waits hgo

end Sys2Proof.Machine
end

section
/-!
PROOFS. The wave scheduler: starts, boundaries, back-fill in gaps, regeneration waves and measured periods (R297 to R318, R394, R649 to
R653).
-/
namespace Sys2Proof.Machine

/-! Starts (R297 to R306). -/

theorem exec_waveStart_held {s : State} (b : Bool) (hs : s.mayStart = false) : exec (.waveStart b) s = .next s :=
  congrArg Host.Outcome.next (if_pos (by rw [hs]; rfl))

/-- The lanes of a prefill wave: its positions in ascending lanes (R301). -/
def prefillLanes (p : List (Nat × Nat)) : List (Nat × Nat × Nat) := p.zipIdx.map fun x => (x.2, x.1.1, x.1.2)

theorem map_prefillLanes (p : List (Nat × Nat)) : (prefillLanes p).map (·.2) = p := by
  rw [prefillLanes, List.map_map]
  exact List.zipIdx_map_fst 0 p

theorem isEmpty_prefillLanes (p : List (Nat × Nat)) : (prefillLanes p).isEmpty = p.isEmpty := by
  cases p <;> rfl

/-- A prefill wave that starts now is one inserted between decode waves (R306). -/
def State.insertsPrefill (u : State) : Bool := u.anyDecode && decide (u.inserted < u.pfrun)

/-- A prefill wave of these lanes starts. -/
def State.prefillStarted (u : State) (lanes : List (Nat × Nat × Nat)) : State :=
  let v := u.takePositions (lanes.map (·.2))
  State.launchWave { v with inserted := if u.insertsPrefill then v.inserted + 1 else v.inserted }
    (u.newWave true u.insertsPrefill none lanes)

theorem prefillStarted_prefillLanes (u : State) (p : List (Nat × Nat)) : u.prefillStarted (prefillLanes p) =
    let v := u.takePositions p
    State.launchWave { v with inserted := if u.insertsPrefill then v.inserted + 1 else v.inserted }
      (u.newWave true u.insertsPrefill none (prefillLanes p)) := by
  rw [State.prefillStarted, map_prefillLanes]

/-- No prefill wave of the positions p starts: there is none, waves are to resume, or decode leaves it neither an insertion nor
back-fill (R306, R308). -/
def State.prefillWaits (u : State) (p : List (Nat × Nat)) : Bool :=
  p.isEmpty || !u.resume.isEmpty || (u.anyDecode && !u.insertsPrefill && !u.bfen)

theorem prefillWaits_iff {u : State} {p : List (Nat × Nat)} : u.prefillWaits p = true ↔
    p = [] ∨ u.resume ≠ [] ∨ (u.anyDecode = true ∧ u.insertsPrefill = false ∧ u.bfen = false) := by
  simp [State.prefillWaits, or_assoc, and_assoc]

/-- The egress ring of a lane that decodes has no room. -/
def State.decodeStalled (u : State) : Bool :=
  u.decodeLanes.any fun x => match tabGet? u.seqs x.2.1 with
    | some q => u.egressStalled q.ring
    | none => false

/-- No decode wave starts: no lane decodes, one cannot send, waves are to resume, or a decode wave is in flight (R299). -/
def State.decodeWaits (u : State) : Bool :=
  u.decodeLanes.isEmpty || u.decodeStalled || !u.resume.isEmpty || u.waves.any fun w => !w.prefill

theorem decodeWaits_iff {u : State} : u.decodeWaits = true ↔
    u.decodeLanes = [] ∨ u.decodeStalled = true ∨ u.resume ≠ [] ∨ ∃ w ∈ u.waves, w.prefill = false := by
  simp [State.decodeWaits, or_assoc]

section
variable {s : State} (hs : s.mayStart = true)
include hs

theorem exec_waveStart_prefill : exec (.waveStart true) s =
    let u := s.recallLanes (s.promptPositions.take 8)
    let p := u.promptPositions.take 8
    .next (if u.prefillWaits p then u else u.prefillStarted (prefillLanes p)) := by
  simp only [State.prefillWaits, ← isEmpty_prefillLanes]
  exact congrArg Host.Outcome.next ((if_neg (by rw [hs]; decide)).trans (if_pos rfl))

theorem exec_waveStart_decode : exec (.waveStart false) s =
    let u := s.recallLanes (s.decodeLanes.map (·.2))
    .next (if u.decodeWaits then u
      else State.launchWave { u with inserted := 0 } (u.newWave false false none u.decodeLanes)) :=
  congrArg Host.Outcome.next ((if_neg (by rw [hs]; decide)).trans (if_neg Bool.false_ne_true))

end

/-! Boundaries (R300, R302, R304, R649). -/

section
variable {s : State} {l : List (Fin 8 × BitVec 32)} (hl : s.live = true)
include hl

theorem exec_waveBoundary_idle (hw : s.waves = []) : exec (.waveBoundary []) s = .next s.boundary := by
  show execWaveBoundary [] s = _
  simp only [execWaveBoundary, hl, hw, List.isEmpty_nil, Bool.not_true, Bool.false_eq_true, if_false, if_true]

section
variable (hw : s.waves ≠ [])
include hw

theorem exec_waveBoundary_waits (he : s.endingWave l = none) : exec (.waveBoundary l) s = .next s := by
  show execWaveBoundary l s = _
  simp only [execWaveBoundary, hl, List.isEmpty_iff, hw, he, Bool.not_true, Bool.false_eq_true, if_false]

theorem exec_waveBoundary_ends {w : Wave} (he : s.endingWave l = some w) : exec (.waveBoundary l) s =
    .next (s.retire w l).boundary.tryResume := by
  show execWaveBoundary l s = _
  simp only [execWaveBoundary, hl, List.isEmpty_iff, hw, he, Bool.not_true, Bool.false_eq_true, if_false]

end

end

/-! Back-fill and gaps (R306, R308, R394). -/

/-- Work of a row time fits the open gap of a core, and back-fill is enabled. -/
def State.fitsGap (s : State) (n time : Nat) : Bool := s.bfen && (s.core n).gap.any fun len => decide (time ≤ len)

theorem fitsGap_iff {s : State} {n time : Nat} :
    s.fitsGap n time = true ↔ s.bfen = true ∧ ∃ len, (s.core n).gap = some len ∧ time ≤ len := by
  simp only [State.fitsGap, Bool.and_eq_true, Option.any_eq_true, decide_eq_true_eq]

theorem exec_backfillIssue {s : State} {n : Fin 624} {e : Fin 2} {r t a cnt : Nat}
    (hw : headWork ((s.core n.val).eng e.val).backQ = some (r, t, a, cnt)) : exec (.backfillIssue n e) s =
      let g := (s.core n.val).eng e.val
      .next (if s.coreLive n.val = true ∧ (s.fitsGap n.val (rowTime (cfgFrom g.cfg g.queue).wfmt r t a) = true ∨
          s.anyDecode = false) ∧ g.queue.length + cnt ≤ 8 then
        (s.setCore n.val ((s.core n.val).setEng e.val
          { g with queue := g.queue ++ g.backQ.take cnt, backQ := g.backQ.drop cnt })).engAfter n.val e.val
      else s) := by
  show execBackfillIssue n e s = _
  simp only [execBackfillIssue, hw, State.fitsGap, Bool.and_eq_true, Bool.or_eq_true, Bool.not_eq_true', decide_eq_true_eq,
    and_assoc]

theorem exec_gapEnd {s : State} {n : Fin 624} : exec (.gapEnd n) s =
    .next (if (s.core n.val).gap.isSome then s.endGap n.val else s) := rfl

/-! Regeneration waves (R651, R653). -/

/-- How many positions the next regeneration wave of a page takes. -/
def State.regenCount (s : State) (id i p : Nat) : Nat :=
  Nat.min 8 (Nat.min 64 (s.seqLen i - 64 * p) - tabGetD s.regenPos id 0)

/-- The lanes of the next regeneration wave of a page. -/
def State.regenLanes (s : State) (id i p : Nat) : List (Nat × Nat × Nat) :=
  (List.range (s.regenCount id i p)).map fun k => (k, i, 64 * p + tabGetD s.regenPos id 0 + k)

theorem length_regenLanes (s : State) (id i p : Nat) : (s.regenLanes id i p).length = s.regenCount id i p := by
  rw [State.regenLanes, List.length_map, List.length_range]

theorem isEmpty_regenLanes (s : State) (id i p : Nat) : (s.regenLanes id i p).isEmpty = true ↔ s.regenCount id i p = 0 := by
  rw [List.isEmpty_iff, ← List.length_eq_zero_iff, length_regenLanes]

section
variable {s : State} {page : BitVec 24} (hs : s.mayStart = true) (hp : page.toNat ∈ s.regen)
include hs hp

theorem regen_due : ¬ (!s.mayStart || !s.regen.contains page.toNat) = true := by
  rw [hs, List.contains_iff_mem.mpr hp]
  decide

theorem exec_pageRegeneration_unmapped (hn : s.pageSeq page.toNat = none) : exec (.pageRegeneration page) s =
    .next (State.tryResume { s with regen := s.regen.filter (· ≠ page.toNat) }) := by
  refine congrArg Host.Outcome.next ((if_neg (regen_due hs hp)).trans ?_)
  rw [hn]

theorem exec_pageRegeneration {i a b p : Nat} (hn : s.pageSeq page.toNat = some (i, a, b, p)) :
    exec (.pageRegeneration page) s =
      let lanes := s.regenLanes page.toNat i p
      let k := s.regenCount page.toNat i p
      let u := s.recallLanes (lanes.map (·.2))
      .next (if k = 0 ∨ (tabGet? u.seqs i).any (·.ending.isSome) = true then u
        else State.launchWave
          { u with regenPos := tabSet u.regenPos page.toNat (tabGetD s.regenPos page.toNat 0 + k) }
          (u.newWave true true (some page.toNat) lanes)) := by
  simp only [← isEmpty_regenLanes, ← Bool.or_eq_true]
  rw [← length_regenLanes]
  refine congrArg Host.Outcome.next ((if_neg (regen_due hs hp)).trans ?_)
  rw [hn]
  rfl

end

/-! Measured periods (R316 to R318). -/

/-- A measured period replaces the one before, and its measurement is over. -/
def State.periodMeasured (s : State) (m : Word × Nat × Bool) (period : BitVec 32) : State :=
  State.setField { s with measure := s.measure.erase m } offWPER 31 0 period.toNat

theorem exec_degradedMeasurement_none {s : State} (period : BitVec 32) (h : ∀ m ∈ s.measure, m.2.1 ≠ 0) :
    exec (.degradedMeasurement period) s = .next s := by
  have hn : s.measure.find? (fun m => decide (m.2.1 = 0)) = none := List.find?_eq_none.mpr fun m hm => by simpa using h m hm
  show execDegradedMeasurement period s = _
  simp only [execDegradedMeasurement, hn]

theorem exec_degradedMeasurement {s : State} (period : BitVec 32) {m : Word × Nat × Bool}
    (h : s.measure.find? (fun m => decide (m.2.1 = 0)) = some m) : exec (.degradedMeasurement period) s =
      let budget := s.field offWPER 63 32
      let w := (s.periodMeasured m period).event 2 0 m.1 (BitVec.ofNat 64 period.toNat) (BitVec.ofNat 64 budget)
      .next (if m.2.2 = true ∧ 100 * period.toNat ≤ 102 * budget then s.periodMeasured m period
        else if budget < period.toNat then w.setBit offWSTAT 49 else w) := by
  show execDegradedMeasurement period s = _
  simp only [execDegradedMeasurement, h, Bool.and_eq_true, decide_eq_true_eq]
  rfl

end Sys2Proof.Machine
end

section
/-!
PROOFS. Checkpoints of a wave and the replay of its layers (R393, R641, R643, R647 to R650, R655).
-/
namespace Sys2Proof.Machine

/-! Commit (R393, R641, R643). -/

/-- The checkpoint of layer l that a wave commits. -/
def State.checkpointOf (s : State) (w : Wave) (l : Nat) : Checkpoint :=
  { layer := l, ctxs := w.savesFor l, flits := s.boundaryFlits w l }

/-- The checkpoint of layer l is committed; the wave keeps its latest two. -/
def State.committed (s : State) (w : Wave) (l : Nat) : State :=
  let c := s.checkpointOf w l
  { s.mapWave w.num.toNat fun w => { w with ckpts := (w.ckpts ++ [c]).drop (w.ckpts.length - 1) } with
    lastCommit := s.churns, lastCkpt := s.time }

/-- Layer l of a wave replays because of poison, which counts against the core it arose in and against the layer. -/
def State.replayCounted (s : State) (w : Wave) (l : Nat) : State :=
  (s.blamed (s.blame w l)).mapWave w.num.toNat fun w =>
    { w with replays := tabSet w.replays l (tabGetD w.replays l 0 + 1) }

/-- A layer has replayed because of poison, and the replay is reported (R648). -/
def State.poisonReplayed (s : State) (w : Wave) (l : Nat) (ck : Checkpoint) (stall : BitVec 48) : State :=
  ((s.replayCounted w l).replayLayer w ck).replayed (s.blame w l) (stall.setWidth 64) w

section
variable {num : BitVec 48} {l : Fin 256} {s : State} {w : Wave} (hl : s.live = true) (hw : s.waveOf num.toNat = some w)
  (hp : w.paused = false)
include hl hw hp

section
variable (hc : ∀ c ∈ w.ckpts, c.layer < l.val)
include hc

theorem exec_checkpointCommit : exec (.checkpointCommit num l) s =
    .next (if s.committable w l.val then
      (if l = 0 then s.committed w l.val else (s.committed w l.val).releaseWbar w (l.val - 1)) else s) := by
  have hnew : w.ckpts.any (fun c => decide (l.val ≤ c.layer)) = false :=
    List.any_eq_false.mpr fun c hm => by simpa using hc c hm
  show execCheckpointCommit num l s = _
  simp only [execCheckpointCommit, hw, hl, hp, hnew, Bool.not_true, Bool.or_self, Bool.false_or, Fin.ext_iff, Fin.val_zero]
  cases s.committable w l.val <;> rfl

end

/-! Replay (R647 to R650, R655). -/

section
variable {ck : Checkpoint} (hck : w.ckpts.find? (fun c => decide (c.layer = l.val)) = some ck) (stall : BitVec 48)
include hck

theorem exec_layerReplay_unblamed (hr : s.poisonReplay w l.val = true) (hb : s.blame w l.val = none) :
    exec (.layerReplay num ⟨l, stall⟩) s = .next (s.poisonReplayed w l.val ck stall) := by
  show execLayerReplay num ⟨l, stall⟩ s = _
  simp only [execLayerReplay, hw, hck, hl, hp, hr, Bool.not_true, Bool.or_self, Bool.false_eq_true, if_false, if_true, hb,
    State.poisonReplayed, State.replayCounted]

/-- A core whose poison made its third replay of the churn fails (R655). -/
theorem exec_layerReplay_blamed (hr : s.poisonReplay w l.val = true) {c : Nat} (hb : s.blame w l.val = some c) :
    exec (.layerReplay num ⟨l, stall⟩) s =
      let v := s.poisonReplayed w l.val ck stall
      .next (if (v.core c).replays = 3 then v.coreFails c false else v) := by
  show execLayerReplay num ⟨l, stall⟩ s = _
  simp only [execLayerReplay, hw, hck, hl, hp, hr, Bool.not_true, Bool.or_self, Bool.false_eq_true, if_false, if_true, hb,
    State.poisonReplayed, State.replayCounted]

theorem exec_layerReplay_fault (hr : s.poisonReplay w l.val = false) (hf : s.faultReplay w l.val = true) :
    exec (.layerReplay num ⟨l, stall⟩) s =
      .next ((s.replayLayer w ck).replayed (s.faultCore w) (stall.setWidth 64) w) := by
  show execLayerReplay num ⟨l, stall⟩ s = _
  simp only [execLayerReplay, hw, hck, hl, hp, hr, hf, Bool.not_true, Bool.or_self, Bool.false_eq_true, if_false, if_true]

theorem exec_layerReplay_none (hr : s.poisonReplay w l.val = false) (hf : s.faultReplay w l.val = false) :
    exec (.layerReplay num ⟨l, stall⟩) s = .next s := by
  show execLayerReplay num ⟨l, stall⟩ s = _
  simp only [execLayerReplay, hw, hck, hl, hp, hr, hf, Bool.not_true, Bool.or_self, Bool.false_eq_true, if_false]

end

end

end Sys2Proof.Machine
end

section
/-!
PROOFS. The attention pipelines: appends, staged pages, partial results, reserves and demotion (R332, R335, R339, R344, R349, R352,
R363 to R371).
-/
namespace Sys2Proof.Machine

/-! Memory that may not be used (R349). -/

section
variable {s : State} (hg : s.pagesGo = false)
include hg

theorem exec_kvAppend_held (q : Fin 96) (lane : Fin 8) (key val : List (BitVec 16)) :
    exec (.kvAppend q lane key val) s = .next s := by
  show execKvAppend q lane key val s = _
  simp only [execKvAppend, hg, Bool.not_false, Bool.or_true, Bool.true_or, if_true]
  split
  · rfl
  · split <;> rfl

theorem exec_stagedPageAttend_held (q : Fin 96) (x : StagedPage) : exec (.stagedPageAttend q x) s = .next s := by
  show execStagedPageAttend q x s = _
  simp only [execStagedPageAttend, hg, Bool.not_false, Bool.or_true, Bool.true_or, if_true]
  split
  · rfl
  · split <;> rfl

theorem exec_pageDemotion_held (g : Fin 48) : exec (.pageDemotion g) s = .next s := by
  refine congrArg Host.Outcome.next (if_pos ?_)
  rw [hg]
  simp

theorem exec_demotionComplete_held (page : BitVec 24) : exec (.demotionComplete page) s = .next s := by
  refine congrArg Host.Outcome.next (if_pos ?_)
  rw [hg]
  simp

end

/-! Appends (R344, R355, R367). -/

/-- An append of a lane is over, and its pipeline goes on. -/
def State.appended (t : State) (q : Nat) (lane : Nat) : State :=
  (t.setPipe q { t.pipe q with appends := (t.pipe q).appends &&& ~~~ BitVec.twoPow 8 lane }).pipeRun q

theorem exec_kvAppend {q : Fin 96} {lane : Fin 8} {key val : List (BitVec 16)} {s : State} {op : AttOp} {ops : List AttOp}
    {x : Share} (hl : s.live = true) (hg : s.pagesGo = true) (hq : (s.pipe q.val).queue = op :: ops) (hph : op.phase = 0)
    (hb : op.begun = true)
    (hx : (s.shares q.val (s.pipe q.val).cfg op).find? (fun x => decide (x.lane = lane.val) &&
      decide (x.pos / 64 % listM (s.servingList (s.pipe q.val).cfg x.seqn) = x.member)) = some x)
    (ha : (s.pipe q.val).appends.getLsbD lane.val = true)
    (he : ∀ y ∈ s.shares q.val (s.pipe q.val).cfg op, y.seqn = x.seqn → y.lane < x.lane →
      (s.pipe q.val).appends.getLsbD y.lane = false)
    (hk : key.length = cfgD (s.pipe q.val).cfg) (hv : val.length = cfgD (s.pipe q.val).cfg) :
    exec (.kvAppend q lane key val) s =
      .next ((s.appendToken q.val (s.pipe q.val).cfg x key val ((s.waveOf op.wave).bind (·.regen))).elim s
        fun t => t.appended q.val lane.val) := by
  have hfirst : (s.shares q.val (s.pipe q.val).cfg op).any (fun y => decide (y.seqn = x.seqn) && decide (y.lane < x.lane) &&
      (s.pipe q.val).appends.getLsbD y.lane) = false :=
    List.any_eq_false.mpr fun y hy => by simpa using he y hy
  show execKvAppend q lane key val s = _
  simp only [execKvAppend, hq, hx, hl, hph, hb, hg, ha, hfirst, hk, hv, ne_eq, not_true, decide_false, Bool.not_true,
    Bool.or_self, Bool.false_eq_true, if_false]
  cases s.appendToken q.val (s.pipe q.val).cfg x key val ((s.waveOf op.wave).bind (·.regen)) <;> rfl

/-! Staged pages (R363, R371). -/

/-- The staged pages of a pipeline, each with its unit, page number and page ID. -/
def Pipe.stagedPages (p : Pipe) : List (Nat × Nat × Nat) := p.units.zipIdx.flatMap fun x => x.1.staged.map fun y => (x.2, y)

/-- A unit attends a staged page, as poisoned when its fetch failed. -/
def State.attendStaged (s : State) (q : Nat) (u : AttUnit) (page id : Nat) (status : BitVec 8) : AttUnit × State :=
  let r := s.readRec id
  r.2.attendPage q (s.pipe q).cfg { u with staged := u.staged.filter (· ≠ (page, id)) } page id
    { r.1 with pois := r.1.pois || decide (status ≠ 0#8) }

theorem attendPage_pois {s : State} {qn : Nat} {cfg : List Word} {u : AttUnit} {p id : Nat} {r : PageRec} (h : r.pois = true) :
    (s.attendPage qn cfg u p id r).1.pois = true := by
  simp only [State.attendPage, h, Bool.or_true]

theorem exec_stagedPageAttend {q : Fin 96} {i k page id : Nat} {status : BitVec 8} {s : State} {u : AttUnit} {op : AttOp}
    {ops : List AttOp} (hl : s.live = true) (hg : s.pagesGo = true) (hq : (s.pipe q.val).queue = op :: ops)
    (hph : op.phase = 2) (hb : op.begun = true) (hi : (s.pipe q.val).stagedPages[i]? = some (k, page, id))
    (hu : (s.pipe q.val).units[k]? = some u) : exec (.stagedPageAttend q ⟨i, status⟩) s =
      let a := s.attendStaged q.val u page id status
      let w := a.2.count (0x400 + a.2.servedBy q.val) 4 1
      .next ((w.setPipe q.val { w.pipe q.val with units := (w.pipe q.val).units.set k a.1 }).pipeRun q.val) := by
  rw [Pipe.stagedPages] at hi
  show execStagedPageAttend q ⟨i, status⟩ s = _
  simp only [execStagedPageAttend, hi, hu, hl, hg, hq, List.head?_cons, Option.any_some, hph, hb, decide_true, Bool.and_self,
    Bool.not_true, Bool.or_self, Bool.false_eq_true, if_false]
  rfl

/-! Partial results (R339, R340). -/

/-- A partial result that has arrived for an operation of a pipeline. -/
def Pipe.partialFor (p : Pipe) (op : AttOp) (y : AttPartial) : Bool :=
  decide (y.wave = op.wave) && decide (y.layer = cfgLayer p.cfg) && decide (y.grp = cfgGrp p.cfg)

/-- The root's unit with a partial result merged into it. -/
def AttUnit.merge (u : AttUnit) (x : AttPartial) : AttUnit :=
  { u with heads := u.heads.zipWith HeadState.merge x.heads, pois := u.pois || x.pois, merged := u.merged + 1 }

theorem exec_partialMerge {q : Fin 96} {k : Nat} {s : State} {u : AttUnit} {x : AttPartial} {op : AttOp} {ops : List AttOp}
    (hl : s.live = true) (hq : (s.pipe q.val).queue = op :: ops) (hph : op.phase = 2) (hb : op.begun = true)
    (hx : (s.pipe q.val).inbox.find? ((s.pipe q.val).partialFor op) = some x)
    (hk : (s.pipe q.val).units.findIdx? (fun u => decide (u.lane = x.lane) && decide (u.member = 0)) = some k)
    (hu : (s.pipe q.val).units[k]? = some u) : exec (.partialMerge q) s =
      let p := s.pipe q.val
      .next ((s.setPipe q.val { p with units := p.units.set k (u.merge x), inbox := p.inbox.erase x }).pipeRun q.val) := by
  unfold Pipe.partialFor at hx
  show execPartialMerge q s = _
  simp only [execPartialMerge, hq, hx, hk, hu, hl, hph, hb, ne_eq, not_true, decide_false, Bool.not_true, Bool.or_self,
    Bool.false_eq_true, if_false]
  rfl

/-! Reserves (R352). -/

theorem exec_reserveTopUp {q : Fin 96} {s : State} (hl : s.live = true) (hi : s.hasImage = true) : exec (.reserveTopUp q) s =
    .next (if s.reserveOf q.val = q.val ∧ (s.pipe q.val).reserve.length < 8 then s.refill q.val 16 else s) := by
  show execReserveTopUp q s = _
  simp only [execReserveTopUp, hl, hi, Bool.true_and, Bool.and_eq_true, decide_eq_true_eq]

/-! Demotion (R365 to R367). -/

section
variable {s : State} {g : Fin 48} (hl : s.live = true) (hi : s.hasImage = true) (hg : s.pagesGo = true)
include hl hi hg

/-- A cluster with slots to spare keeps its pages. -/
theorem exec_pageDemotion_none (hf : s.field offATT 47 32 ≤ (s.freeSlots g.val).length) (hw : s.appendWaits g.val = false) :
    exec (.pageDemotion g) s = .next s := by
  refine congrArg Host.Outcome.next (if_pos ?_)
  rw [hl, hi, hg, hw, decide_eq_false (Nat.not_lt.mpr hf)]
  rfl

section
variable (hd : (s.freeSlots g.val).length < s.field offATT 47 32 ∨ s.appendWaits g.val = true)
include hd

theorem demotion_due : ¬ (!s.live || !s.hasImage || !s.pagesGo ||
    !(decide ((s.freeSlots g.val).length < s.field offATT 47 32) || s.appendWaits g.val)) = true := by
  have hdue : (decide ((s.freeSlots g.val).length < s.field offATT 47 32) || s.appendWaits g.val) = true := by
    rwa [Bool.or_eq_true, decide_eq_true_eq]
  rw [hl, hi, hg, hdue]
  exact Bool.false_ne_true

/-- The page that leaves first starts on its way to HBM. -/
theorem exec_pageDemotion_starts {p id k : Nat} {r : PageRec} (hp : (s.demotionPick g.val).1 = some (p, id, r))
    (hk : (s.demotionPick g.val).2.freeHbm r.slotsOf.length = some k) : exec (.pageDemotion g) s =
      let w := (s.demotionPick g.val).2
      let x := w.writeRec id { r with loc := 3, haddr := w.field (offATT + 0x20) 47 14 * 2 ^ 14 + k * 16384 }
      .next { x with hpages := hbmTake w.hpages id k r.slotsOf.length } := by
  refine congrArg Host.Outcome.next ((if_neg (demotion_due hl hi hg hd)).trans ?_)
  simp only [hp, Option.bind_some, hk]

/-- Without a page to move, or without room in HBM, an append that waits for a slot is reported. -/
theorem exec_pageDemotion_stuck
    (hn : (s.demotionPick g.val).1.bind (fun x => (s.demotionPick g.val).2.freeHbm x.2.2.slotsOf.length) = none) :
    exec (.pageDemotion g) s =
      let w := (s.demotionPick g.val).2
      let free := (s.freeSlots g.val).length
      .next (if s.appendWaits g.val = true ∧ free = 0 then
        (w.setBit (offATT + 0x30) 57).event 4 0 (clusterUnit g.val) (BitVec.ofNat 64 free) 0#64 else w) := by
  refine congrArg Host.Outcome.next ((if_neg (demotion_due hl hi hg hd)).trans ?_)
  simp only [hn, Bool.and_eq_true, decide_eq_true_eq]
  cases (s.demotionPick g.val).1 <;> rfl

end

end

section
variable {s : State} {page : BitVec 24} (hl : s.live = true) (hg : s.pagesGo = true)
include hl hg

omit hl hg in
theorem exec_demotionComplete_none (hn : tabGet? s.hpages (2 * page.toNat) = none) :
    exec (.demotionComplete page) s = .next s := by
  refine congrArg Host.Outcome.next (if_pos ?_)
  rw [hn]
  simp

theorem exec_demotionComplete (hn : (tabGet? s.hpages (2 * page.toNat)).isSome = true) : exec (.demotionComplete page) s =
    let r := s.readRec page.toNat
    let o := r.2.fieldReadVia (r.2.downGroups r.1.pos) r.1.pos (r.1.slot * 16384) (if r.1.bf then 32768 else 16384)
    let u := o.s.memFlitsFor (mgmtOf 0) 1 r.1.haddr (flitsWith o.bytes o.pois)
    let w := u.writeRec page.toNat { r.1 with loc := 2 }
    .next (if r.1.loc ≠ 3 then r.2 else { w with slotNext := u.slotNext ++ r.1.slotsOf }) := by
  have hnone : (tabGet? s.hpages (2 * page.toNat)).isNone = false := by rw [← Option.not_isSome, hn]; rfl
  refine congrArg Host.Outcome.next (if_neg ?_)
  rw [hl, hg, hnone]
  decide

end

end Sys2Proof.Machine
end

section
/-!
PROOFS. Waves, checkpoints, replay and attention: the obligation of the scheduler and of the attention pipelines (R297 to R371, R641 to
R655).
-/
namespace Sys2Proof.Machine

/-- Settles O54: each command by its equation, one lemma for each way it can go. -/
theorem wavesCheckpointsAndAttention : Obligations.WavesCheckpointsAndAttention := by
  unfold Obligations.WavesCheckpointsAndAttention
  refine ⟨fun s hs => ?prefill, fun s hs => ?decode, fun b s => exec_waveStart_held b,
    fun l s hl => ⟨exec_waveBoundary_idle hl, exec_waveBoundary_waits hl, fun w hw => exec_waveBoundary_ends hl hw⟩,
    fun n e s r t a cnt => ?backfill,
    fun n s => ⟨fun h => exec_gapEnd.trans (congrArg _ (if_pos h)),
      fun h => exec_gapEnd.trans (congrArg _ (if_neg (by simp [h])))⟩,
    fun num l s w hl hw hp hc => ⟨fun hcm => ?waits, fun hcm => ?commits⟩,
    fun num stall l s w ck hl hw hp hck => ⟨fun hr => ?poison, exec_layerReplay_fault hl hw hp hck stall,
      exec_layerReplay_none hl hw hp hck stall⟩,
    fun page s hs hp => ⟨exec_pageRegeneration_unmapped hs hp, fun i a b p hn => ?regen⟩,
    fun period s => ⟨exec_degradedMeasurement_none period, fun m hm => ?measured⟩,
    fun q lane key val s op ops x hl hg hq hph hb => ?append,
    fun q lane key val i g page s hg => ⟨exec_kvAppend_held hg q lane key val, exec_stagedPageAttend_held hg q i,
      exec_pageDemotion_held hg g, exec_demotionComplete_held hg page⟩,
    fun q i k page id status s u op ops hl hg hq hph hb hi hu => ?staged,
    fun q k s u x op ops hl => ?merge,
    fun q s hl hi => ⟨fun hr hq => ?refills, fun h => ?keeps⟩,
    fun g s hl hi hg => ⟨exec_pageDemotion_none hl hi hg, fun hd => ⟨fun p id k r => ?starts, fun hn => ?stuck⟩⟩,
    fun page s hl hg => ⟨exec_demotionComplete_none, fun hn => ?demoted⟩⟩
  case prefill =>
    intro u p lanes ins
    rw [exec_waveStart_prefill hs]
    refine ⟨fun hp => congrArg _ (if_pos (prefillWaits_iff.mpr (.inl hp))),
      fun hp hr hgo => congrArg _ ((if_neg (mt prefillWaits_iff.mp ?_)).trans (prefillStarted_prefillLanes u p)),
      fun hp hd hins hbf => congrArg _ (if_pos (prefillWaits_iff.mpr (.inr (.inr ⟨hd, hins, hbf⟩))))⟩
    rintro (h | h | ⟨hd, hins, hbf⟩)
    · exact hp h
    · exact h hr
    · rcases hgo with hgo | hgo | hgo
      · exact Bool.eq_false_iff.mp hgo hd
      · exact Bool.eq_false_iff.mp hins hgo
      · exact Bool.eq_false_iff.mp hbf hgo
  case decode =>
    intro u stalled
    rw [exec_waveStart_decode hs]
    refine ⟨fun h => congrArg _ (if_pos (decodeWaits_iff.mpr h)),
      fun hn hst hr hw => congrArg _ (if_neg (mt decodeWaits_iff.mp ?_))⟩
    rintro (h | h | h | ⟨w, hm, h⟩)
    · exact hn h
    · exact Bool.eq_false_iff.mp hst h
    · exact h hr
    · exact Bool.eq_false_iff.mp h (hw w hm)
  case backfill =>
    intro g hw fits
    rw [exec_backfillIssue hw]
    refine ⟨fun hlive hfit hroom => congrArg _ (if_pos ⟨hlive, hfit.imp_left fitsGap_iff.mpr, hroom⟩),
      fun h => congrArg _ (if_neg ?_)⟩
    rintro ⟨hlive, hfit, hroom⟩
    obtain h | ⟨hd, h⟩ | h := h
    · exact Bool.eq_false_iff.mp h hlive
    · obtain ⟨hbf, hf⟩ := fitsGap_iff.mp (hfit.resolve_right (by simp [hd]))
      exact h.elim (fun h => Bool.eq_false_iff.mp h hbf) fun h => h hf
    · exact Nat.not_le.mpr h hroom
  case waits => rw [exec_checkpointCommit hl hw hp hc, if_neg (Bool.eq_false_iff.mp hcm)]
  case commits =>
    refine ⟨s.committed w l.val, s.checkpointOf w l.val, rfl, rfl, rfl, rfl, rfl, rfl, rfl, rfl, rfl, ?_⟩
    rw [exec_checkpointCommit hl hw hp hc, if_pos hcm]
  case poison =>
    intro u v
    exact ⟨exec_layerReplay_unblamed hl hw hp hck stall hr, fun c => exec_layerReplay_blamed hl hw hp hck stall hr⟩
  case regen =>
    intro done k lanes u
    rw [exec_pageRegeneration hs hp hn]
    refine ⟨fun h => congrArg _ (if_pos h), fun hk he => congrArg _ (if_neg ?_)⟩
    exact fun h => h.elim (Nat.pos_iff_ne_zero.mp hk) (Bool.eq_false_iff.mp he)
  case measured =>
    intro budget u w
    rw [exec_degradedMeasurement period hm]
    refine ⟨fun hg hin => congrArg _ (if_pos ⟨hg, hin⟩), fun h => congrArg _ (if_neg ?_)⟩
    exact fun ⟨hg, hin⟩ => h.elim (fun h => Bool.eq_false_iff.mp h hg) fun h => Nat.not_lt.mpr hin h
  case append =>
    intro p sh hx ha he hk hv done
    have happend := exec_kvAppend hl hg hq hph hb hx ha he hk hv
    exact ⟨fun hd => happend.trans (congrArg _ (congrArg (Option.elim · s _) hd)),
      fun t hd => happend.trans (congrArg _ (congrArg (Option.elim · s _) hd))⟩
  case staged =>
    intro r a w
    exact ⟨fun hst => attendPage_pois (by simp [hst]), exec_stagedPageAttend hl hg hq hph hb hi hu⟩
  case merge => exact fun hq hph hb hx hk hu => exec_partialMerge hl hq hph hb hx hk hu
  case refills => rw [exec_reserveTopUp hl hi, if_pos ⟨hq, hr⟩]
  case keeps => rw [exec_reserveTopUp hl hi, if_neg (by omega)]
  case starts => exact fun hp hk => exec_pageDemotion_starts hl hi hg hd hp hk
  case stuck =>
    have hnone : (s.demotionPick g.val).1.bind (fun x => (s.demotionPick g.val).2.freeHbm x.2.2.slotsOf.length) = none := by
      obtain hn | ⟨p, id, r, hp, hk⟩ := hn
      · rw [hn]; rfl
      · rw [hp]; exact hk
    rw [exec_pageDemotion_stuck hl hi hg hd hnone]
    refine ⟨fun h => congrArg _ (if_neg ?_), fun hw hf => congrArg _ ((if_pos ⟨hw, hf⟩).trans (by rw [hf]))⟩
    exact fun ⟨hw, hf⟩ => h.elim (fun h => Bool.eq_false_iff.mp h hw) fun h => h hf
  case demoted =>
    intro r
    rw [exec_demotionComplete hl hg hn]
    exact ⟨fun h => congrArg _ (if_pos h), fun h => congrArg _ (if_neg (not_not_intro h))⟩

end Sys2Proof.Machine
end

section
/-!
PROOFS. ACFG and ASTART into the attention pipelines, and TMV into the tier queue (R332, R335, R421 to R423, R429, R439).
-/
namespace Sys2Proof.Machine

section
variable (f : Fields)

/-- The pipeline of its cluster that an attention instruction selects (R421). -/
theorem attPipe_eq (u : Issue) : attPipe u f = 2 * (u.core.val / 13) + (if f.imm.getLsbD 33 then 1 else 0) := by
  have hbit : f.imm.toNat / 2 ^ 33 % 2 ^ (33 + 1 - 33) = if f.imm.getLsbD 33 then 1 else 0 := by
    simp only [BitVec.getLsbD, Nat.testBit_eq_decide_div_mod_eq, decide_eq_true_eq]
    split <;> omega
  rw [attPipe, immBits_eq, hbit]

theorem immBits_attPhase : immBits f 32 31 = f.imm.toNat / 2 ^ 31 % 4 := immBits_eq f 32 31
theorem immBits_attIn : immBits f 22 19 = f.imm.toNat / 2 ^ 19 % 16 := immBits_eq f 22 19
theorem immBits_attOut : immBits f 18 15 = f.imm.toNat / 2 ^ 15 % 16 := immBits_eq f 18 15

/-- The lane mask of ASTART: the mask's own width cuts the field. -/
theorem attMask_eq : BitVec.ofNat 8 (immBits f 30 23) = BitVec.ofNat 8 (f.imm.toNat / 2 ^ 23) := by
  apply BitVec.eq_of_toNat_eq
  rw [immBits_eq]
  simp

theorem tmvMover_eq : Fin.ofNat 16 (immBits f 33 30) = Fin.ofNat 16 (f.imm.toNat / 2 ^ 30) := by
  apply Fin.ext
  rw [immBits_eq]
  simp

end

/-- The checks of a record or descriptor in the core store: ALIGN, then CSTORE. -/
theorem exec_inStore {i : Instr} {s t : State} {u : Issue} {a : Nat} {e : Eff}
    (hi : exec i s = .next (Eff.ends s u (if a % 64 ≠ 0 then .fault t fALIGN else if a > 0xFFFFF then .fault t fCSTORE else e))) :
    (a % 64 ≠ 0 → exec i s = .next (Eff.ends s u (.fault t fALIGN))) ∧
    (a % 64 = 0 → 0xFFFFF < a → exec i s = .next (Eff.ends s u (.fault t fCSTORE))) ∧
    (a % 64 = 0 → a ≤ 0xFFFFF → exec i s = .next (e.ends s u)) :=
  ⟨fun hal => exec_ends hi (if_pos hal), fun hal hout => exec_ends hi ((if_neg (not_not_intro hal)).trans (if_pos hout)),
    fun hal hin => exec_ends hi ((if_neg (not_not_intro hal)).trans (if_neg (Nat.not_lt.mpr hin)))⟩

section
variable {u : Issue} {f : Fields} {s : State}

/-! ACFG (R332, R335, R421). -/

/-- With room in its pipeline, ACFG reads its record and enters it if it lies within its limits. -/
theorem exec_acfg (h : s.issues (.acfg u f))
    (hroom : ((s.taintIf u ((s.at u).poisA f.srca.toNat)).pipe (attPipe u f)).queue.length < 4) :
    exec (.acfg u f) s =
      let n := u.core.val
      let po := (s.at u).poisA f.srca.toNat
      let t := s.taintIf u po
      let a := ((s.at u).getA f.srca.toNat + (f.imm.setWidth 20).setWidth 64).toNat
      let r := t.storeRead n a 64
      .next (Eff.ends s u (if a % 64 ≠ 0 then .fault t fALIGN else if a > 0xFFFFF then .fault t fCSTORE
        else if !cfgOk (wordsOf r.bytes) then .fault r.s fACFG
        else .next (r.s.pushAtt (attPipe u f)
          { core := n, c := u.ctx, phase := 4, wave := t.waveNum u, mask := 0#8, inS := none, outS := none, addr := a,
            cfg := wordsOf r.bytes, bad := r.pois.any id || po, begun := false }))) := by
  rw [← addrOf_low20]
  exact congrArg Host.Outcome.next ((issue_ends h _).trans (congrArg (Eff.ends s u) (if_neg (Nat.not_le.mpr hroom))))

/-! ASTART (R421, R422). -/

/-- The operation of an ASTART with the streams that its handles name. -/
def State.attStarted (s : State) (u : Issue) (f : Fields) (phase : Nat) (inS : Option (Nat × Bool)) (outS : Option Nat) : AttOp :=
  let po := (s.at u).poisA f.srca.toNat
  { core := u.core.val, c := u.ctx, phase := phase, wave := (s.taintIf u po).waveNum u,
    mask := BitVec.ofNat 8 (f.imm.toNat / 2 ^ 23), inS := inS, outS := outS, addr := ((s.at u).getA f.srca.toNat).toNat,
    cfg := [], bad := po, begun := false }

theorem exec_astart_reserved (h : s.issues (.astart u f)) (hp : f.imm.toNat / 2 ^ 31 % 4 = 3) :
    exec (.astart u f) s = .next (Eff.ends s u (.fault s fILL)) := by
  rw [← immBits_attPhase] at hp
  exact congrArg Host.Outcome.next ((issue_ends h _).trans (congrArg (Eff.ends s u) (if_pos hp)))

section
variable {phase : Nat} (h : s.issues (.astart u f)) (hp : f.imm.toNat / 2 ^ 31 % 4 = phase) (h3 : phase ≠ 3)
  (hroom : ((s.taintIf u ((s.at u).poisA f.srca.toNat)).pipe (attPipe u f)).queue.length < 4)
include h hp h3 hroom

/-- With room in its pipeline, a legal ASTART is checked for CSTORE and HANDLE and enters it. -/
theorem exec_astart : exec (.astart u f) s =
    let t := s.taintIf u ((s.at u).poisA f.srca.toNat)
    let inH := s.handle u (f.imm.toNat / 2 ^ 19 % 16)
    let outH := s.handle u (f.imm.toNat / 2 ^ 15 % 16)
    .next (Eff.ends s u (if phase ≠ 0 ∧ ((s.at u).getA f.srca.toNat).toNat > 0xFFFFF then .fault t fCSTORE
      else if (phase ≠ 0 && !inH.any fun e => !e.1.sending) || (phase = 2 && !outH.any fun e => e.1.sending) then
        .fault t fHANDLE
      else .next (t.pushAtt (attPipe u f) (s.attStarted u f phase
        (if phase = 0 then none else inH.map fun e => (e.1.idx, e.2)) (if phase = 2 then outH.map fun e => e.1.idx else none))))) := by
  subst hp
  refine (congrArg Host.Outcome.next (issue_ends h _)).trans ?_
  simp only [immBits_attPhase, immBits_attIn, immBits_attOut, attMask_eq, if_neg h3, if_neg (Nat.not_le.mpr hroom),
    State.attStarted]

/-- An ASTART whose record lies in the core store, and whose handles are bound as its phase needs them, enters its pipeline. -/
theorem exec_astart_enters (ha : phase = 0 ∨ ((s.at u).getA f.srca.toNat).toNat ≤ 0xFFFFF)
    (hin : phase = 0 ∨ ((s.handle u (f.imm.toNat / 2 ^ 19 % 16)).any fun e => !e.1.sending) = true)
    (hout : phase = 2 → ((s.handle u (f.imm.toNat / 2 ^ 15 % 16)).any fun e => e.1.sending) = true) :
    exec (.astart u f) s = .next (Eff.ends s u (.next ((s.taintIf u ((s.at u).poisA f.srca.toNat)).pushAtt (attPipe u f)
      (s.attStarted u f phase
        (if phase = 0 then none else (s.handle u (f.imm.toNat / 2 ^ 19 % 16)).map fun e => (e.1.idx, e.2))
        (if phase = 2 then (s.handle u (f.imm.toNat / 2 ^ 15 % 16)).map fun e => e.1.idx else none))))) := by
  refine exec_ends (exec_astart h hp h3 hroom) ((if_neg ?_).trans (if_neg ?_))
  · exact fun ⟨h0, hbeyond⟩ => ha.elim h0 (Nat.not_le.mpr hbeyond)
  · simp only [Bool.or_eq_true, Bool.and_eq_true, Bool.not_eq_true', decide_eq_true_eq]
    rintro (⟨h0, hno⟩ | ⟨h2, hno⟩)
    · exact hin.elim h0 (Bool.eq_false_iff.mp hno)
    · exact Bool.eq_false_iff.mp hno (hout h2)

/-- An ASTART that scores or attends without an input stream causes HANDLE. -/
theorem exec_astart_unbound (h0 : phase ≠ 0) (ha : ((s.at u).getA f.srca.toNat).toNat ≤ 0xFFFFF)
    (hin : s.handle u (f.imm.toNat / 2 ^ 19 % 16) = none) :
    exec (.astart u f) s = .next (Eff.ends s u (.fault (s.taintIf u ((s.at u).poisA f.srca.toNat)) fHANDLE)) := by
  refine exec_ends (exec_astart h hp h3 hroom) ((if_neg fun hbeyond => Nat.not_lt.mpr ha hbeyond.2).trans (if_pos ?_))
  rw [hin]
  simp [h0]

end

/-! TMV (R423, R429, R439). -/

/-- TMV with no open store of its context and room in the tier queue reads its descriptor and puts it there. -/
theorem exec_tmv (h : s.issues (.tmv u f)) (hstores : (s.taintIf u ((s.at u).poisA f.srca.toNat)).storesOpen u.core.val u.ctx = false)
    (hroom : ((s.taintIf u ((s.at u).poisA f.srca.toNat)).core u.core.val).tierQ.length < 4) :
    exec (.tmv u f) s =
      let n := u.core.val
      let t := s.taintIf u ((s.at u).poisA f.srca.toNat)
      let a := ((s.at u).getA f.srca.toNat + (f.imm.setWidth 20).setWidth 64).toNat
      let r := t.storeRead n a 64
      let w := if r.pois.any id then r.s.taintIf u true else r.s
      .next (Eff.ends s u (if a % 64 ≠ 0 then .fault t fALIGN else if a > 0xFFFFF then .fault t fCSTORE
        else .next ((w.setCore n { w.core n with tierQ := (w.core n).tierQ ++
          [(u.ctx, Fin.ofNat 16 (f.imm.toNat / 2 ^ 30), if f.imm.getLsbD 29 then 3 else 2, descOf r.bytes)] }).drainTier
            n 4))) := by
  have hfree : ¬ ((s.taintIf u ((s.at u).poisA f.srca.toNat)).storesOpen u.core.val u.ctx ||
      decide (((s.taintIf u ((s.at u).poisA f.srca.toNat)).core u.core.val).tierQ.length ≥ 4)) = true := by
    rw [hstores, decide_eq_false (Nat.not_le.mpr hroom)]
    decide
  rw [← addrOf_low20, ← tmvMover_eq]
  exact congrArg Host.Outcome.next ((issue_ends h _).trans (congrArg (Eff.ends s u) (if_neg hfree)))

end

/-- Settles O35: ACFG and TMV by the checks of their place in the core store; ASTART by its phase, whose literal decides which
of its checks apply and which handles it names. -/
theorem attentionTierAndGroupLaunchInstructions : Obligations.AttentionTierAndGroupLaunchInstructions := by
  unfold Obligations.AttentionTierAndGroupLaunchInstructions
  intro u f s x n po s' q off a go fault r phase inH outH
  have hq : attPipe u f = q := attPipe_eq f u
  refine ⟨fun h hroom => ?acfg, fun h => ⟨exec_astart_reserved h, fun h3 hroom => ?astart⟩,
    fun h hstores hroom => exec_inStore (exec_tmv h hstores hroom)⟩
  case acfg =>
    have hi := exec_acfg h (hq ▸ hroom)
    rw [hq] at hi
    obtain ⟨hmisaligned, hbeyond, hin⟩ := exec_inStore hi
    refine ⟨hmisaligned, hbeyond, fun hal hle hbad => exec_ends (hin hal hle) (if_pos ?_),
      fun hal hle hok => exec_ends (hin hal hle) (if_neg ?_)⟩
    · rw [hbad]; rfl
    · rw [hok]; decide
  case astart =>
    have henters {k : Nat} (hk : phase = k) := exec_astart_enters h hk (hk ▸ h3) (hq ▸ hroom)
    rw [hq] at henters
    refine ⟨fun h0 hout => exec_ends (exec_astart h rfl h3 (hq ▸ hroom)) (if_pos ⟨h0, hout⟩), ?attend, ?score,
      fun hk => henters hk (.inl rfl) (.inl rfl) nofun, ?unbound⟩
    case attend =>
      intro inE outE hk hle (hin : s.handle u (f.imm.toNat / 2 ^ 19 % 16) = some inE) hrecv
        (hout : s.handle u (f.imm.toNat / 2 ^ 15 % 16) = some outE) hsend
      have hi := henters hk (.inr hle) (.inr (by rw [hin]; exact congrArg (!·) hrecv)) fun _ => by rw [hout]; exact hsend
      rwa [hin, hout] at hi
    case score =>
      intro inE hk hle (hin : s.handle u (f.imm.toNat / 2 ^ 19 % 16) = some inE) hrecv
      have hi := henters hk (.inr hle) (.inr (by rw [hin]; exact congrArg (!·) hrecv)) nofun
      rwa [hin] at hi
    case unbound =>
      exact fun hk hle hnone => exec_astart_unbound h rfl h3 (hq ▸ hroom) (by omega) hle hnone

end Sys2Proof.Machine
end

section
/-!
PROOFS. Instruction words of station code and of thread groups: the fields and the code of a word, and the tables of codes read both
ways (R386, R388, R453).
-/
namespace Sys2Proof

/-! Words (R386). -/

/-- A bit of an instruction word, by the field it lies in. -/
theorem wordOf_getLsbD (c : BitVec 12) (f : Fields) (i : Nat) : (wordOf c f).getLsbD i =
    if i < 34 then f.imm.getLsbD i else if i < 40 then f.srcb.getLsbD (i - 34)
    else if i < 46 then f.srca.getLsbD (i - 40) else if i < 52 then f.dst.getLsbD (i - 46) else c.getLsbD (i - 52) := by
  rw [wordOf, BitVec.getLsbD_append, BitVec.getLsbD_append, BitVec.getLsbD_append, BitVec.getLsbD_append]
  simp only [Nat.sub_sub]
  grind

theorem wordFields_wordOf (c : BitVec 12) (f : Fields) : wordFields (wordOf c f) = f := by
  obtain ⟨d, a, b, m⟩ := f
  simp only [wordFields, Fields.mk.injEq]
  refine ⟨?_, ?_, ?_, ?_⟩ <;>
  · refine BitVec.eq_of_getLsbD_eq fun i hi => ?_
    rw [BitVec.getLsbD_extractLsb', wordOf_getLsbD]
    grind

theorem wordCode_wordOf (c : BitVec 12) (f : Fields) : wordCode (wordOf c f) = c := by
  refine BitVec.eq_of_getLsbD_eq fun i hi => ?_
  rw [wordCode, BitVec.getLsbD_extractLsb', wordOf_getLsbD]
  grind

theorem wordOf_wordCode_wordFields (w : BitVec 64) : wordOf (wordCode w) (wordFields w) = w := by
  refine BitVec.eq_of_getLsbD_eq fun i hi => ?_
  simp only [wordOf_getLsbD, wordCode, wordFields, BitVec.getLsbD_extractLsb']
  grind

/-! The tables of codes. -/

section
variable {i : Instr} {u : Issue} {g : GIssue} {c : BitVec 12} {f : Fields}

/-- No two instructions share a code: each is the one that its code gives. -/
theorem stationInstr_of_parts (h : stationParts i = some (u, c, f)) : stationInstr u c f = some i := by
  cases i
  all_goals cases h
  all_goals rfl

theorem stationParts_of_instr (h : stationInstr u c f = some i) : stationParts i = some (u, c, f) := by
  unfold stationInstr at h
  split at h
  all_goals cases h
  all_goals rfl

theorem groupInstr_of_parts (h : groupParts i = some (g, c, f)) : groupInstr g c f = some i := by
  cases i
  all_goals cases h
  all_goals rfl

theorem groupParts_of_instr (h : groupInstr g c f = some i) : groupParts i = some (g, c, f) := by
  unfold groupInstr at h
  split at h
  all_goals cases h
  all_goals rfl

theorem encodeStation_of_parts (h : stationParts i = some (u, c, f)) : encodeStation i = some (wordOf c f) := by
  rw [encodeStation, h]
  rfl

theorem encodeGroup_of_parts (h : groupParts i = some (g, c, f)) : encodeGroup i = some (wordOf c f) := by
  rw [encodeGroup, h]
  rfl

end

/-- Settles O6: a word is its code and its fields, and the table of codes reads the same both ways. -/
theorem stationWordsDecodeBack : Obligations.StationWordsDecodeBack := by
  unfold Obligations.StationWordsDecodeBack
  intro i u c f hi
  refine ⟨?_, encodeStation_of_parts hi, fun w j hj => ?_⟩
  · rw [decodeStation, wordCode_wordOf, wordFields_wordOf]
    exact stationInstr_of_parts hi
  · rw [encodeStation_of_parts (stationParts_of_instr hj), wordOf_wordCode_wordFields]

/-- Settles O7: as O6, by the table of group codes. -/
theorem groupWordsDecodeBack : Obligations.GroupWordsDecodeBack := by
  unfold Obligations.GroupWordsDecodeBack
  intro i g c f hi
  refine ⟨?_, encodeGroup_of_parts hi, fun w j hj => ?_⟩
  · rw [decodeGroup, wordCode_wordOf, wordFields_wordOf]
    exact groupInstr_of_parts hi
  · rw [encodeGroup_of_parts (groupParts_of_instr hj), wordOf_wordCode_wordFields]

end Sys2Proof
end

section
/-!
PROOFS. Issue of station code: instructions that do not issue, encodings that fault, program faults, and what follows an effect
(R380, R387, R390, R425 to R427, R431, R442, R444, R650, R762).
-/
namespace Sys2Proof.Machine

/-! What holds an issue (R380, R425 to R427, R431). -/

/-- Every station-code instruction issues with the operands that useOf gives it. -/
theorem exec_stationInstr {i : Instr} {u : Issue} {f : Fields} {use : Use} (h : useOf i = some (u, f, use)) (s : State) :
    ∃ body, exec i s = .next (s.issue u f use body) := by
  cases i
  all_goals cases h <;> exact ⟨_, rfl⟩

theorem Context.issuing_iff {x : Context} : x.issuing = true ↔
    x.active = true ∧ x.stopped = false ∧ x.held = false ∧ x.wait = .none := by
  simp [Context.issuing, and_assoc]

section
variable {s : State} {u : Issue} {f : Fields} {use : Use} {body : State → Eff}

theorem issue_held (h : s.coreLive u.core.val = false ∨ (s.at u).issuing = false) : s.issue u f use body = s := by
  refine if_pos ?_
  rw [show s.ctx u.core.val u.ctx = s.at u from rfl]
  obtain h | h := h <;> simp [h]

theorem issue_awaits (hf : use.fault f = none) (hh : use.hazard f (s.at u) = true) : s.issue u f use body = s := by
  simp only [State.issue, hf, if_pos (show use.hazard f (s.ctx u.core.val u.ctx) = true from hh), ite_self]

theorem issue_encoding_fault {code : Nat} (hl : s.coreLive u.core.val = true) (hi : (s.at u).issuing = true)
    (hf : use.fault f = some code) : s.issue u f use body = s.programFault u.core.val u.ctx code (s.at u).pc.toNat := by
  have hi' : (s.ctx u.core.val u.ctx).issuing = true := hi
  simp only [State.issue, hf, hl, hi']
  rfl

end

/-- Settles O9: each of the first five conditions keeps a context from issuing, and the last one its instruction. -/
theorem stationCodeHeldWhenNotIssuing : Obligations.StationCodeHeldWhenNotIssuing := by
  unfold Obligations.StationCodeHeldWhenNotIssuing
  intro i u f use s hi h
  obtain ⟨body, hexec⟩ := exec_stationInstr hi s
  rw [hexec]
  refine congrArg _ ?_
  have hnot (h : ¬ (s.at u).issuing = true) : s.issue u f use body = s := issue_held (.inr (Bool.eq_false_iff.mpr h))
  rw [Context.issuing_iff] at hnot
  obtain h | h | h | h | h | ⟨hf, hh⟩ := h
  · exact issue_held (.inl h)
  · exact hnot (by simp [h])
  · exact hnot (by simp [h])
  · exact hnot (by simp [h])
  · exact hnot (by simp [h])
  · exact issue_awaits hf hh

/-! Encodings that fault (R387). -/

section
variable {k : RegKind} {r : BitVec 6}

theorem regFault_ill_iff : regFault k r = some fILL ↔ k = .unused ∧ r ≠ 0#6 := by
  cases k <;> simp [regFault, fILL, fREG]

theorem regFault_reg_iff : regFault k r = some fREG ↔ (k = .scalar ∧ 32 ≤ r.toNat) ∨ (k = .pred ∧ 8 ≤ r.toNat) := by
  cases k <;> simp [regFault, fILL, fREG]

end

section
variable {use : Use} {f : Fields}

/-- The faults of the three register fields. -/
def Use.regFaults (use : Use) (f : Fields) : List (Option Nat) :=
  [regFault use.dst f.dst, regFault use.a f.srca, regFault use.b f.srcb]

theorem regFaults_contains_iff (code : Nat) : (use.regFaults f).contains (some code) = true ↔
    regFault use.dst f.dst = some code ∨ regFault use.a f.srca = some code ∨ regFault use.b f.srcb = some code := by
  simp only [Use.regFaults, List.contains_iff_mem, List.mem_cons, List.not_mem_nil, or_false, eq_comm (a := some code)]

/-- An unused operand or a reserved bit of IMM is not zero. -/
def Use.illegal (use : Use) (f : Fields) : Prop :=
  (use.dst = .unused ∧ f.dst ≠ 0#6) ∨ (use.a = .unused ∧ f.srca ≠ 0#6) ∨ (use.b = .unused ∧ f.srcb ≠ 0#6) ∨
    f.imm.toNat &&& use.rsv ≠ 0

/-- A register number lies beyond its file. -/
def RegKind.beyond (k : RegKind) (r : BitVec 6) : Prop := (k = .scalar ∧ 32 ≤ r.toNat) ∨ (k = .pred ∧ 8 ≤ r.toNat)

theorem illegal_iff : ((use.regFaults f).contains (some fILL) || f.imm.toNat &&& use.rsv != 0) = true ↔ use.illegal f := by
  rw [Bool.or_eq_true, regFaults_contains_iff, bne_iff_ne]
  simp only [regFault_ill_iff, Use.illegal, or_assoc]

theorem beyond_iff : (use.regFaults f).contains (some fREG) = true ↔
    use.dst.beyond f.dst ∨ use.a.beyond f.srca ∨ use.b.beyond f.srcb := by
  rw [regFaults_contains_iff]
  simp only [regFault_reg_iff, RegKind.beyond]

theorem fault_of_illegal (h : use.illegal f) : use.fault f = some fILL := if_pos (illegal_iff.mpr h)

theorem fault_of_legal (h : ¬ use.illegal f) :
    use.fault f = if (use.regFaults f).contains (some fREG) then some fREG else none := if_neg (mt illegal_iff.mp h)

end

/-- Settles O10: ILL by the unused operands and reserved bits, else REG by the ranges of the register files. -/
theorem stationEncodingFaults : Obligations.StationEncodingFaults := by
  unfold Obligations.StationEncodingFaults
  intro i u f use s hi hlive hissuing bad unused large
  obtain ⟨body, hexec⟩ := exec_stationInstr hi s
  rw [hexec]
  refine ⟨fun h => ?_, fun h hn => ?_, fun hn h => ?_⟩
  · exact congrArg _ (issue_encoding_fault hlive hissuing (fault_of_illegal h))
  · exact congrArg _ (issue_encoding_fault hlive hissuing ((fault_of_legal hn).trans (if_pos (beyond_iff.mpr h))))
  · exact (fault_of_legal hn).trans (if_neg (mt beyond_iff.mp h))

/-! Cores and contexts written twice. -/

theorem tabSet_tabSet {α : Type} (t : List (Nat × α)) (key : Nat) (v w : α) : tabSet (tabSet t key v) key w = tabSet t key w := by
  induction t with
  | nil => simp [tabSet]
  | cons x t ih =>
    obtain ⟨k, y⟩ := x
    rcases Nat.lt_trichotomy key k with h | h | h
    · simp [tabSet, h]
    · simp [tabSet, h]
    · have hle : ¬ key < k := by omega
      have hne : key ≠ k := by omega
      simp [tabSet, hle, hne, ih]

@[simp] theorem setCore_setCore (s : State) (n : Nat) (k k' : Core) : (s.setCore n k).setCore n k' = s.setCore n k' := by
  simp only [State.setCore, tabSet_tabSet]

@[simp] theorem setCtx_setCtx (s : State) (n : Nat) (c : Ctx) (x y : Context) : (s.setCtx n c x).setCtx n c y = s.setCtx n c y := by
  simp only [State.setCtx, core_setCore_same, setCore_setCore]
  cases c <;> rfl

/-! Program faults (R431, R442, R444, R650). -/

/-- What STN_SEQ_FLT reads once it has taken a fault: FLT, the context, the code and the PC (R442). -/
def faultWord (c : Ctx) (code pc : Nat) : Word :=
  BitVec.ofNat 64 (2 ^ 63 + (if c = .p then 2 ^ 40 else 0) + code * 2 ^ 32 + pc % 2 ^ 20)

section
variable {c : Ctx} {code pc : Nat} (hcode : code < 16) (hpc : pc < 2 ^ 20)
include hcode hpc

theorem faultWord_toNat : (faultWord c code pc).toNat = 2 ^ 63 + (if c = .p then 2 ^ 40 else 0) + code * 2 ^ 32 + pc := by
  rw [faultWord, BitVec.toNat_ofNat, Nat.mod_eq_of_lt hpc, Nat.mod_eq_of_lt]
  split <;> omega

theorem faultWord_flt : bitOf (faultWord c code pc) 63 = true := by
  rw [bitOf, BitVec.getLsbD, faultWord_toNat hcode hpc, Nat.testBit_eq_decide_div_mod_eq, decide_eq_true_eq]
  split <;> omega

theorem faultWord_ctx : bitOf (faultWord c code pc) 40 = decide (c = .p) := by
  rw [bitOf, BitVec.getLsbD, faultWord_toNat hcode hpc, Nat.testBit_eq_decide_div_mod_eq, decide_eq_decide]
  cases c <;> simp <;> omega

theorem faultWord_code : fieldOf (faultWord c code pc) 35 32 = code := by
  rw [fieldOf, faultWord_toNat hcode hpc, bitsOf, Nat.shiftRight_eq_div_pow]
  split <;> omega

theorem faultWord_pc : fieldOf (faultWord c code pc) 19 0 = pc := by
  rw [fieldOf, faultWord_toNat hcode hpc, bitsOf, Nat.shiftRight_eq_div_pow]
  split <;> omega

end

/-- STN_SEQ_FLT and STN_SEQ_FLTW keep the first program fault since FLT was cleared. -/
def State.recordFault (s : State) (n : Nat) (v : Word) (wave : Nat) : State :=
  if s.bit (offSTN n + 8) 63 then s else (s.setReg (offSTN n + 8) v).setReg (offSTN n + 0x18) (BitVec.ofNat 64 wave)

section
variable (s : State) (n : Nat) (v : Word) (wave : Nat)

theorem recordFault_eq : ∃ regs, s.recordFault n v wave = { s with regs := regs } := by
  unfold State.recordFault
  split
  · exact ⟨_, rfl⟩
  · exact ⟨_, rfl⟩

@[simp] theorem core_recordFault (m : Nat) : (s.recordFault n v wave).core m = s.core m := by
  obtain ⟨regs, hr⟩ := recordFault_eq s n v wave
  rw [hr]
  rfl

theorem reg_recordFault_other {off : Nat} (h : off ≠ offSTN n + 8) (h' : off ≠ offSTN n + 0x18) :
    (s.recordFault n v wave).reg off = s.reg off := by
  unfold State.recordFault
  split
  · rfl
  · rw [reg_setReg_other _ _ h', reg_setReg_other _ _ h]

theorem recordFault_setCore (k : Core) : (s.setCore n k).recordFault n v wave = (s.recordFault n v wave).setCore n k := by
  unfold State.recordFault
  rw [show (s.setCore n k).bit (offSTN n + 8) 63 = s.bit (offSTN n + 8) 63 from rfl]
  split <;> rfl

end

/-- A program fault stops its context and is recorded; whether it has come before at its PC decides the rest. -/
theorem programFault_eq (s : State) (n : Nat) (c : Ctx) (code pc : Nat) :
    s.programFault n c code pc =
      let wave := fieldOf (s.ctx n c).waveWord 47 0
      let t := (s.setCtx n c { s.ctx n c with stopped := true }).recordFault n (faultWord c code pc) wave
      if (t.core n).faults.contains (c, BitVec.ofNat 20 pc) then
        ((t.abortAll 4).stopWaves).event 9 4 (posUnit 1 n 0) (BitVec.ofNat 64 (pc % 2 ^ 20)) (BitVec.ofNat 64 wave)
      else t.setCore n { t.core n with faults := (t.core n).faults ++ [(c, BitVec.ofNat 20 pc)] } := by
  unfold State.programFault State.recordFault faultWord
  rfl

/-- A core after the first program fault of a context at a PC. -/
def Core.faulted (k : Core) (c : Ctx) (pc : Nat) : Core :=
  { k.setCtx c { k.ctx c with stopped := true } with faults := k.faults ++ [(c, BitVec.ofNat 20 pc)] }

section
variable {k : Core} {c e : Ctx} {pc : Nat}

theorem Core.ctx_faulted_same : (k.faulted c pc).ctx c = { k.ctx c with stopped := true } := by cases c <;> rfl

theorem Core.ctx_faulted_other (h : e ≠ c) : (k.faulted c pc).ctx e = k.ctx e := by
  rw [← k.ctx_setCtx_other { k.ctx c with stopped := true } h]
  cases e <;> rfl

end

/-- A context that faults for the first time at a PC stops and its fault is recorded; nothing else changes. -/
theorem programFault_first {s : State} {n : Nat} {c : Ctx} {code pc : Nat} (h : (c, BitVec.ofNat 20 pc) ∉ (s.core n).faults) :
    s.programFault n c code pc =
      (s.recordFault n (faultWord c code pc) (fieldOf (s.ctx n c).waveWord 47 0)).setCore n ((s.core n).faulted c pc) := by
  have hfaults (x : Context) : ((s.core n).setCtx c x).faults = (s.core n).faults := by cases c <;> rfl
  simp only [programFault_eq, State.setCtx, recordFault_setCore, core_setCore_same, setCore_setCore, hfaults]
  rw [if_neg (mt List.contains_iff_mem.mp h)]
  rfl

/-- Settles O11: the record of STN_SEQ_FLT by FLT, the context by its core, and nothing else is written. -/
theorem programFaultStopsContext : Obligations.ProgramFaultStopsContext := by
  unfold Obligations.ProgramFaultStopsContext
  intro s n c code pc hcode hpc hnew t
  let wave := fieldOf (s.ctx n.val c).waveWord 47 0
  let r := s.recordFault n.val (faultWord c code pc) wave
  have ht : t = r.setCore n.val ((s.core n.val).faulted c pc) := programFault_first hnew
  have hcore : t.core n.val = (s.core n.val).faulted c pc := by rw [ht, core_setCore_same]
  have hctx (m : Nat) (e : Ctx) (h : (m, e) ≠ (n.val, c)) : t.ctx m e = s.ctx m e := by
    by_cases hm : m = n.val
    · subst hm
      rw [State.ctx, hcore]
      exact Core.ctx_faulted_other fun he => h (by rw [he])
    · rw [State.ctx, ht, core_setCore_other _ _ hm, core_recordFault]
      rfl
  have hreg (off : Nat) : t.reg off = r.reg off := by rw [ht]; rfl
  have hkept (h : s.bit (offSTN n.val + 8) 63 = true) : r = s := if_pos h
  have htaken (h : s.bit (offSTN n.val + 8) 63 = false) : t.reg (offSTN n.val + 8) = faultWord c code pc ∧
      t.reg (offSTN n.val + 0x18) = BitVec.ofNat 64 wave := by
    have hr : r = _ := if_neg (Bool.eq_false_iff.mp h)
    rw [hreg, hreg, hr]
    exact ⟨(reg_setReg_other _ _ (by omega)).trans (reg_setReg_same ..), reg_setReg_same ..⟩
  refine ⟨?stopped, hctx, ?faults, fun h => ?kept, fun h => ?taken,
    fun off h h' => (hreg off).trans (reg_recordFault_other s _ _ _ h h'), ?rest⟩
  case stopped =>
    rw [State.ctx, hcore, Core.ctx_faulted_same]
  case faults =>
    rw [hcore]
    rfl
  case kept =>
    rw [hreg, hreg, hkept h]
    exact ⟨rfl, rfl⟩
  case taken =>
    obtain ⟨hflt, hwave⟩ := htaken h
    simp only [State.bit, State.field, hflt]
    exact ⟨faultWord_flt hcode hpc, faultWord_code hcode hpc, faultWord_pc hcode hpc, faultWord_ctx hcode hpc, hwave⟩
  case rest =>
    obtain ⟨regs, hregs⟩ := recordFault_eq s n.val (faultWord c code pc) wave
    rw [ht, show r = _ from hregs]
    exact ⟨rfl, rfl, rfl, rfl, rfl⟩

/-! What follows an effect (R390, R427, R762). -/

theorem Context.pcOk_iff {x : Context} {pc : Int} : x.pcOk pc = true ↔ (x.lo : Int) ≤ pc ∧ pc < x.hi ∧ pc % 8 = 0 := by
  simp [Context.pcOk, and_assoc]

section
variable {t : State} {n : Nat} {c : Ctx} {pc : Int}

theorem goTo_ok (h : (t.ctx n c).pcOk pc = true) :
    t.goTo n c pc = t.setCtx n c { t.ctx n c with pc := BitVec.ofInt 20 pc } := if_pos h

theorem goTo_fault (h : ¬ (t.ctx n c).pcOk pc = true) : t.goTo n c pc =
    (t.setCtx n c { t.ctx n c with pc := BitVec.ofInt 20 pc }).programFault n c fPC (BitVec.ofInt 20 pc).toNat := if_neg h

theorem reachWbars_none (hw : (t.ctx n c).wait = .none) (hb : (t.ctx n c).wbars = []) : t.reachWbars n c = t := by
  unfold State.reachWbars
  simp only [hw, hb]
  rfl

theorem wake_none (hw : (t.ctx n c).wait = .none) : t.wake n c = t := by
  unfold State.wake
  simp only [hw, State.waitOver, Bool.false_eq_true, if_false, ite_self]

theorem settleCtx_none (hw : (t.ctx n c).wait = .none) (hb : (t.ctx n c).wbars = []) : t.settleCtx n c = t := by
  rw [State.settleCtx, reachWbars_none hw hb, wake_none hw]

end

/-- Settles O13: a PC is taken when it lies in the region and is a multiple of 8. -/
theorem pcOutsideProgramFaults : Obligations.PcOutsideProgramFaults := by
  unfold Obligations.PcOutsideProgramFaults
  intro t n c pc m x
  refine ⟨fun h => goTo_fault fun hok => ?_, fun hlo hhi h8 => goTo_ok (Context.pcOk_iff.mpr ⟨hlo, hhi, h8⟩)⟩
  obtain ⟨hlo, hhi, h8⟩ : (x.lo : Int) ≤ pc ∧ pc < x.hi ∧ pc % 8 = 0 := Context.pcOk_iff.mp hok
  omega

/-- A count of one that does not wrap. -/
theorem count_one {s : State} {bank idx : Nat} (h : tabGetD s.cnt.vals (bank * 256 + idx) 0 + 1 < 2 ^ 48) :
    s.count bank idx 1 =
      let k := bank * 256 + idx
      { s with cnt := { s.cnt with vals := tabSet s.cnt.vals k (tabGetD s.cnt.vals k 0 + 1) } } := by
  unfold State.count
  rw [if_neg Nat.one_ne_zero]
  simp only [if_pos h, Nat.mod_eq_of_lt h]

@[simp] theorem core_count (s : State) (bank idx amt n : Nat) : (s.count bank idx amt).core n = s.core n := by
  rw [State.core, (count_reports s bank idx amt).kept.2.1]
  rfl

@[simp] theorem ctx_count (s : State) (bank idx amt n : Nat) (c : Ctx) : (s.count bank idx amt).ctx n c = s.ctx n c := by
  rw [State.ctx, core_count]
  rfl

/-- Settles O12: the issue is counted and the PC taken; a context without a wait and without an open WBAR settles as it is. -/
theorem issueAdvancesPcAndChangesNothingElse : Obligations.IssueAdvancesPcAndChangesNothingElse := by
  unfold Obligations.IssueAdvancesPcAndChangesNothingElse
  intro t u pc hpc hwait hwbars hroom r
  let y : Context := { t.at u with pc := BitVec.ofInt 20 pc }
  have hr : r = (t.count (0x100 + u.core.val) 9 1).setCtx u.core.val u.ctx y := by
    show ((t.count (0x100 + u.core.val) 9 1).goTo u.core.val u.ctx pc).settleCtx u.core.val u.ctx = _
    rw [goTo_ok (by rw [ctx_count]; exact hpc), ctx_count]
    exact settleCtx_none (by rw [ctx_setCtx_same]; exact hwait) (by rw [ctx_setCtx_same]; exact hwbars)
  have hat : r.at u = y := hr ▸ ctx_setCtx_same ..
  have hctx (m : Nat) (e : Ctx) (h : (m, e) ≠ (u.core.val, u.ctx)) : r.ctx m e = t.ctx m e := by
    rw [hr, ctx_setCtx_other _ _ h, ctx_count]
  rw [count_one hroom] at hr
  refine ⟨hat, hctx, ?_⟩
  rw [hr]
  exact ⟨tabGetD_tabSet_same .., rfl, rfl, rfl, rfl, rfl, rfl, rfl, rfl, rfl, rfl, rfl, rfl, rfl, rfl, rfl⟩

end Sys2Proof.Machine
end

section
/-!
PROOFS. Registers of a context, branches and jumps, instructions that wait, and HINT (R379, R384, R389 to R394, R437, R641, R708).
-/
namespace Sys2Proof.Machine

/-! Registers of a context (R379). -/

section
variable (x : Context) {i j : Nat}

theorem Context.poisA_setA_same (w : Word) (po : Bool) (h0 : 0 < i) (h : i < 32) : (x.setA i w po).poisA i = po := by
  cases po <;> simp [Context.setA, Context.poisA, h0, h, Nat.ne_of_gt h0]

theorem Context.poisA_setA_other (w : Word) (po : Bool) (hj : j < 32) (h : j ≠ i) :
    (x.setA i w po).poisA j = x.poisA j := by
  unfold Context.setA
  split
  · cases po <;> simp [Context.poisA, hj, h]
  · rfl

theorem Context.getP_setP_same (w : Word) (h0 : 0 < i) (h : i < 8) : (x.setP i w).getP i = w := by
  simp [Context.setP, Context.getP, h0, h, Nat.ne_of_gt h0]

theorem Context.getP_setP_other (w : Word) (h : j ≠ i) : (x.setP i w).getP j = x.getP j := by
  unfold Context.setP
  split
  · simp only [Context.getP]
    split
    · rfl
    · split
      · exact Vector.getElem_set_ne _ _ (Ne.symm h)
      · rfl
  · rfl

end

/-- Settles O14: a0 and p0 by their definitions, the other registers by reading after writing. -/
theorem hardwiredRegisters : Obligations.HardwiredRegisters := by
  unfold Obligations.HardwiredRegisters
  intro x v po i hi
  exact ⟨rfl, rfl, rfl, rfl, rfl,
    fun h0 => ⟨x.getA_setA_same v po h0 hi, x.poisA_setA_same v po h0 hi,
      fun j hj hne => ⟨x.getA_setA_other v po hne, x.poisA_setA_other v po hj hne⟩⟩,
    fun h0 h8 => ⟨x.getP_setP_same v h0 h8, fun j _ hne => x.getP_setP_other v hne⟩⟩

/-! Branches (R384, R389). -/

/-- An effect that branches goes to its target or to the next instruction. -/
theorem ends_branch (s t : State) (u : Issue) (p : Prop) [Decidable p] (target : Int) :
    (if p then Eff.jump t target else Eff.next t).ends s u = t.afterIssue u (if p then target else s.nextPc u) := by
  split <;> rfl

section
variable {u : Issue} {f : Fields} {s : State} {k : Cond} {p : Prop} [Decidable p]

/-- A conditional branch, whatever its condition: the six have the same operands. -/
theorem branch_eq (h : s.issues (.beq u f)) : s.branch u f k =
    (s.taintIf u ((s.at u).poisA f.srca.toNat || (s.at u).poisA f.srcb.toNat)).afterIssue u
      (if k.holds ((s.at u).getA f.srca.toNat) ((s.at u).getA f.srcb.toNat) then branchTarget (s.at u) f else s.nextPc u) :=
  (issue_ends h _).trans (ends_branch ..)

/-- A branch that is taken when p holds. -/
theorem branch_if (h : s.issues (.beq u f))
    (hp : k.holds ((s.at u).getA f.srca.toNat) ((s.at u).getA f.srcb.toNat) = decide p) : s.branch u f k =
      (s.taintIf u ((s.at u).poisA f.srca.toNat || (s.at u).poisA f.srcb.toNat)).afterIssue u
        (if p then branchTarget (s.at u) f else s.nextPc u) := by
  rw [branch_eq h, hp]
  simp only [decide_eq_true_eq]

/-- A branch that is taken unless p holds. -/
theorem branch_unless (h : s.issues (.beq u f))
    (hp : k.holds ((s.at u).getA f.srca.toNat) ((s.at u).getA f.srcb.toNat) = !decide p) : s.branch u f k =
      (s.taintIf u ((s.at u).poisA f.srca.toNat || (s.at u).poisA f.srcb.toNat)).afterIssue u
        (if p then s.nextPc u else branchTarget (s.at u) f) := by
  rw [branch_eq h, hp]
  simp only [Bool.not_eq_true', decide_eq_false_iff_not, ite_not]

/-- A branch on a predicate register; both have the same operands. -/
theorem branchPred_eq (h : s.issues (.bpz u f)) (onZero : Bool) : s.branchPred u f onZero =
    s.afterIssue u (if decide ((s.at u).getP f.srca.toNat = 0#64) == onZero then branchTarget (s.at u) f else s.nextPc u) :=
  (issue_ends h _).trans (ends_branch ..)

end

/-- Settles O15: the branches by the comparison that decides each, the others by their target. -/
theorem branchesAndJumps : Obligations.BranchesAndJumps := by
  unfold Obligations.BranchesAndJumps
  intro u f s x a b dest on s'
  have done {s t : State} (h : s = t) : Host.Outcome.next (φ := Fault) (ρ := Refusal) s = .next t := congrArg _ h
  refine ⟨fun h => done ?nop, fun h => done ?br, fun h => done ?beq, fun h => done ?bne, fun h => done ?blt, fun h => done ?bge,
    fun h => done ?bltu, fun h => done ?bgeu, fun h => done ?bpz, fun h => done ?bpnz, fun h => done ?jal, fun h => done ?jr⟩
  case nop => exact issue_next h rfl
  case br => exact issue_jump h rfl
  case beq => exact branch_if h rfl
  case bne => exact branch_unless h decide_not
  case blt => exact branch_if h rfl
  case bge => exact branch_unless h rfl
  case bltu => exact branch_if h rfl
  case bgeu => exact branch_unless h rfl
  case bpz =>
    refine (branchPred_eq h true).trans ?_
    simp only [beq_true, decide_eq_true_eq]
    rfl
  case bpnz =>
    refine (branchPred_eq h false).trans ?_
    simp only [beq_false, Bool.not_eq_true', decide_eq_false_iff_not, ite_not]
    rfl
  case jal => exact issue_jump h rfl
  case jr => exact issue_jump h rfl

/-! Instructions that wait (R384, R391 to R394, R437, R641). -/

/-- The low bits of IMM. -/
theorem immBits_low (f : Fields) (hi : Nat) {k : Nat} (hk : 2 ^ (hi + 1) = k) : immBits f hi 0 = f.imm.toNat % k := by
  rw [immBits_eq, Nat.pow_zero, Nat.div_one, ← hk]
  rfl

theorem immBits_byte (f : Fields) : immBits f 7 0 = f.imm.toNat % 256 := immBits_low f 7 rfl

section
variable {u : Issue} {f : Fields} {s : State}

theorem exec_fence (h : s.issues (.fence u f)) : exec (.fence u f) s =
    .next ((s.waitFor u (.fence (BitVec.ofNat 3 (f.imm.toNat % 8)))).afterIssue u (s.nextPc u)) :=
  congrArg Host.Outcome.next (issue_next h (by rw [immBits_low f 2 (k := 8) rfl]))

theorem exec_wnext (h : s.issues (.wnext u f)) : exec (.wnext u f) s =
    .next ((s.putAt u { s.at u with taint := false, wait := .wnext f.dst.toNat }).afterIssue u (s.nextPc u)) := by
  refine congrArg Host.Outcome.next (issue_next h ?_)
  simp only [State.waitFor, State.putAt, State.at, setCtx_setCtx, ctx_setCtx_same]

theorem exec_gap (h : s.issues (.gap u f)) (hd : u.ctx = .d) (hl : 320 ≤ f.imm.toNat % 65536) : exec (.gap u f) s =
    .next ((s.waitFor u (.gap (f.imm.toNat % 65536))).afterIssue u (s.nextPc u)) := by
  refine congrArg Host.Outcome.next (issue_next h ?_)
  simp only [immBits_low f 15 (k := 65536) rfl, hd, reduceCtorEq, if_false, Nat.not_lt.mpr hl]

theorem exec_gap_refused (h : s.issues (.gap u f)) (hbad : u.ctx = .p ∨ f.imm.toNat % 65536 < 320) : exec (.gap u f) s =
    .next (s.programFault u.core.val u.ctx 1 (s.at u).pc.toNat) := by
  refine congrArg Host.Outcome.next (issue_fault h ?_)
  simp only [immBits_low f 15 (k := 65536) rfl]
  by_cases hp : u.ctx = .p
  · exact if_pos hp
  · exact (if_neg hp).trans (if_pos (hbad.resolve_left hp))

/-- A save kept in a wave changes the waves alone. -/
theorem at_keepSave (u : Issue) (s : State) (n : Nat) (c : Ctx) (layer : Nat) (v : CtxSave) :
    (s.keepSave n c layer v).at u = s.at u := rfl

theorem exec_wbar (h : s.issues (.wbar u f)) : exec (.wbar u f) s =
    let t := s.keepSave u.core.val u.ctx (f.imm.toNat % 256) (s.ctxSave u.core.val u.ctx ((s.at u).pc + 8#20))
    .next ((t.putAt u (if f.imm.getLsbD 33 then { s.at u with wait := .wbar (f.imm.toNat % 256) }
      else { s.at u with wbars := (s.at u).wbars ++ [f.imm.toNat % 256] })).afterIssue u (s.nextPc u)) := by
  refine congrArg Host.Outcome.next (issue_next h ?_)
  simp only [immBits_byte, immBit, State.waitFor, at_keepSave]
  split <;> rfl

end

/-- Settles O16: each by the wait that its effect begins. -/
theorem waitingInstructionsIssue : Obligations.WaitingInstructionsIssue := by
  unfold Obligations.WaitingInstructionsIssue
  intro u f s
  exact ⟨exec_fence, exec_wnext, exec_gap, exec_gap_refused, exec_wbar⟩

/-! HINT (R391, R708). -/

/-- What a HINT of each kind leaves of the power control: rise, fall, steady. -/
def State.hinted (s : State) (kind lead : Nat) : State :=
  let p := s.power
  match kind with
  | 0 => { s with power := { p with idleShed := false, hintRaise := s.field (offPWR + 0x28) 23 16,
                                    hintRise := some (s.time + 2 * lead + 8000) } }
  | 1 => { s with power := { p with hintFall := some (s.time + lead) } }
  | _ => { s with power := { p with hintRaise := 0, hintRise := none, hintFall := none } }

section
variable {u : Issue} {f : Fields} {s : State} (h : s.issues (.hint u f))
include h

theorem exec_hint_reserved (hk : 3 ≤ f.imm.toNat / 2 ^ 28 % 16) :
    exec (.hint u f) s = .next (s.programFault u.core.val u.ctx 1 (s.at u).pc.toNat) :=
  congrArg Host.Outcome.next (issue_fault h (if_pos (by rw [immBits_eq]; exact hk)))

theorem exec_hint_elsewhere (hk : f.imm.toNat / 2 ^ 28 % 16 < 3) (hc : u.core.val ≠ 0 ∨ u.ctx ≠ .d) :
    exec (.hint u f) s = .next (s.afterIssue u (s.nextPc u)) := by
  refine congrArg Host.Outcome.next (issue_next h ?_)
  simp only [immBits_eq]
  exact (if_neg (Nat.not_lt.mpr (Nat.le_of_lt_succ hk))).trans (if_pos hc)

theorem exec_hint_acts (hk : f.imm.toNat / 2 ^ 28 % 16 < 3) (hn : u.core.val = 0) (hc : u.ctx = .d) : exec (.hint u f) s =
    .next ((s.hinted (f.imm.toNat / 2 ^ 28 % 16) (f.imm.toNat % 2 ^ 28)).afterIssue u (s.nextPc u)) := by
  refine congrArg Host.Outcome.next (issue_next h ?_)
  have hkind : immBits f 31 28 = f.imm.toNat / 2 ^ 28 % 16 := immBits_eq f 31 28
  simp only [hkind, immBits_low f 27 (k := 2 ^ 28) rfl]
  refine (if_neg (Nat.not_lt.mpr (Nat.le_of_lt_succ hk))).trans ((if_neg (by simp [hn, hc])).trans ?_)
  generalize f.imm.toNat / 2 ^ 28 % 16 = kind
  match kind with
  | 0 => rfl
  | 1 => rfl
  | _ + 2 => rfl

end

/-- Settles O18: a reserved kind, another context, and the three kinds of context D of S0.C0.K0. -/
theorem stationHintActsOnPowerControl : Obligations.StationHintActsOnPowerControl := by
  unfold Obligations.StationHintActsOnPowerControl
  intro u f s h kind lead p
  have hacts (hn : u.core.val = 0) (hc : u.ctx = .d) {k : Nat} (h3 : k < 3) (hk : kind = k) :
      exec (.hint u f) s = .next ((s.hinted k lead).afterIssue u (s.nextPc u)) := 
    hk ▸ exec_hint_acts h (Nat.lt_of_le_of_lt (Nat.le_of_eq hk) h3) hn hc
  exact ⟨exec_hint_reserved h, exec_hint_elsewhere h, fun hn hc =>
    ⟨hacts hn hc (by decide), hacts hn hc (by decide), hacts hn hc (by decide)⟩⟩

end Sys2Proof.Machine
end

section
/-!
PROOFS. The ends of waits: FENCE, GAP and WNEXT (R391, R394, R427, R437).
-/
namespace Sys2Proof.Machine

/-! The wave that a context takes (R298, R391). -/

/-- A fold that keeps what it has or takes the element at hand ends with what it began with or with a member. -/
theorem mem_of_foldl_choice {α : Type} {f : Option α → α → Option α} (hf : ∀ acc x, f acc x = some x ∨ f acc x = acc)
    {l : List α} {acc : Option α} {w : α} (h : l.foldl f acc = some w) : acc = some w ∨ w ∈ l := by
  induction l generalizing acc with
  | nil => exact .inl h
  | cons y l ih =>
    obtain h | h := ih h
    · obtain hy | hy := hf acc y
      · exact .inr (List.mem_cons.mpr (.inl (Option.some.inj (h.symm.trans hy))))
      · exact .inl (hy.symm.trans h)
    · exact .inr (List.mem_cons_of_mem y h)

theorem nextWaveOf_some {s : State} {n : Nat} {c : Ctx} {w : Wave} (h : s.nextWaveOf n c = some w) :
    w ∈ s.waves ∧ w.prefill = ctxPrefill c ∧ ((s.ctx n c).inWave = true → fieldOf (s.ctx n c).waveWord 47 0 < w.num.toNat) := by
  obtain ⟨hfol, -⟩ := Option.filter_eq_some_iff.mp h
  refine (mem_of_foldl_choice (fun acc v => ?choice) hfol).elim (fun hnone => nomatch hnone) fun hmem => ?_
  case choice =>
    cases acc with
    | none => exact .inl rfl
    | some y =>
      show (if _ then some v else some y) = some v ∨ (if _ then some v else some y) = some y
      split
      · exact .inl rfl
      · exact .inr rfl
  obtain ⟨hw, hp⟩ := List.mem_filter.mp hmem
  simp only [Bool.and_eq_true, Bool.or_eq_true, Bool.not_eq_true', decide_eq_true_eq] at hp
  obtain ⟨⟨-, hpre⟩, hlow⟩ := hp
  exact ⟨hw, hpre, fun hin => hlow.resolve_left (by simp [hin])⟩

section
variable (w : Wave)

theorem flag_le (b : Bool) : flag b ≤ 1 := by cases b <;> decide

theorem Wave.word_toNat : w.word.toNat = w.num.toNat + w.mask.toNat * 2 ^ 48 + flag w.prefill * 2 ^ 56 := by
  have hn := w.num.isLt
  have hm := w.mask.isLt
  have hp := flag_le w.prefill
  rw [Wave.word, BitVec.toNat_ofNat, Nat.mod_eq_of_lt]
  omega

/-- The result of WNEXT by its fields: the number, the lanes, the kind, and zero. -/
theorem Wave.word_fields : fieldOf w.word 47 0 = w.num.toNat ∧ fieldOf w.word 55 48 = w.mask.toNat ∧
    fieldOf w.word 56 56 = flag w.prefill ∧ fieldOf w.word 63 57 = 0 := by
  have hn := w.num.isLt
  have hm := w.mask.isLt
  have hp := flag_le w.prefill
  simp only [fieldOf, bitsOf, w.word_toNat, Nat.shiftRight_eq_div_pow]
  omega

theorem bitOf_eq_field (v : Word) (i : Nat) : bitOf v i = decide (fieldOf v i i = 1) := by
  rw [bitOf, fieldOf, bitsOf, BitVec.getLsbD, Nat.testBit_eq_decide_div_mod_eq, Nat.shiftRight_eq_div_pow, Nat.add_sub_cancel_left, Nat.pow_one]

theorem decide_flag (b : Bool) : decide (flag b = 1) = b := by cases b <;> rfl

end

/-! Waits (R391, R394, R427, R437). -/

section
variable {s : State} {n : Nat} {c : Ctx}

/-- A context without an open WBAR settles as its wait does. -/
theorem settleCtx_eq_wake (hb : (s.ctx n c).wbars = []) (hw : ∀ l, (s.ctx n c).wait ≠ .wbar l) : s.settleCtx n c = s.wake n c := by
  have hreach : s.reachWbars n c = s := by
    refine if_pos ?_
    rw [hb, List.nil_append, Bool.or_eq_true]
    refine .inl ?_
    split
    · rename_i l hl
      exact absurd hl (hw l)
    · rfl
  rw [State.settleCtx, hreach]

variable (hs : (s.ctx n c).stopped = false) (hh : (s.ctx n c).held = false)
include hs hh

theorem wake_eq : s.wake n c = if s.waitOver n c (s.ctx n c).wait then s.endWait n c else s := by
  unfold State.wake
  rw [if_neg (by simp [hs, hh])]

end

/-- A context whose wait has ended. -/
def Context.freed (x : Context) : Context := { x with wait := .none }

/-- What WNEXT leaves in its context with the word of a wave (R391). -/
def Context.taken (x : Context) (rd : Nat) (v : Word) : Context :=
  { x.freed.setA rd v false with waveWord := v, inWave := true }

section
variable (x : Context) (v : Word) {rd : Nat}

theorem Context.taken_kept : (x.taken rd v).wait = .none ∧ (x.taken rd v).pc = x.pc ∧
    (x.taken rd v).inWave = true ∧ (x.taken rd v).waveWord = v := by
  unfold Context.taken Context.setA
  split <;> exact ⟨rfl, rfl, rfl, rfl⟩

theorem Context.getA_taken_same (h0 : 0 < rd) (h : rd < 32) :
    (x.taken rd v).getA rd = v ∧ (x.taken rd v).poisA rd = false :=
  ⟨x.freed.getA_setA_same v false h0 h, x.freed.poisA_setA_same v false h0 h⟩

theorem Context.getA_taken_other {j : Nat} (h : j ≠ rd) : (x.taken rd v).getA j = x.getA j :=
  x.freed.getA_setA_other v false h

end

section
variable {s : State} {n : Nat} {c : Ctx}

theorem endWait_fence {b : BitVec 3} (h : (s.ctx n c).wait = .fence b) : s.endWait n c = s.setCtx n c (s.ctx n c).freed := by
  unfold State.endWait
  simp only [h]
  rfl

theorem endWait_gap {len : Nat} (h : (s.ctx n c).wait = .gap len) : s.endWait n c =
    s.setCore n { (s.core n).setCtx c (s.ctx n c).freed with gap := some len } := by
  unfold State.endWait
  simp only [h, State.setCtx, core_setCore_same, setCore_setCore]
  rfl

theorem ctx_endWait_wnext {rd : Nat} {w : Wave} (h : (s.ctx n c).wait = .wnext rd) (hw : s.nextWaveOf n c = some w) :
    (s.endWait n c).ctx n c = (s.ctx n c).taken rd w.word := by
  unfold State.endWait
  simp only [h, hw]
  exact ctx_setCtx_same ..

theorem waitOver_fence (b : BitVec 3) : s.waitOver n c (.fence b) = true ↔
    ¬ ((b.getLsbD 0 = true ∧ s.loadsOpen n c = true) ∨ (b.getLsbD 1 = true ∧ s.storesOpen n c = true) ∨
      (b.getLsbD 2 = true ∧ s.sendsOpen n c = true)) := by
  simp only [State.waitOver, Bool.not_eq_true', ← Bool.not_eq_true, Bool.or_eq_true, Bool.and_eq_true, or_assoc]

end

/-- Settles O17: each wait by its condition and by what its end leaves. -/
theorem waitsEndWhenTheirConditionHolds : Obligations.WaitsEndWhenTheirConditionHolds := by
  unfold Obligations.WaitsEndWhenTheirConditionHolds
  intro s n c x t hs hh hb
  have hset (hw : ∀ l, x.wait ≠ .wbar l) : t = if s.waitOver n c x.wait then s.endWait n c else s :=
    (settleCtx_eq_wake hb hw).trans (wake_eq hs hh)
  refine ⟨fun b hw => ?fence, fun len hw => ?gap, fun rd hw h0 h32 => ⟨fun hnone => ?waits, fun w hsome => ?takes⟩⟩
  case fence =>
    rw [hset (by simp [hw]), hw]
    simp only [waitOver_fence, ite_not]
    split
    · exact hw
    · rw [endWait_fence hw, ctx_setCtx_same]
      rfl
  case gap =>
    have ht := hset (by simp [hw])
    rw [hw] at ht
    refine ⟨fun hg => ?_, fun hg => ht.trans (if_neg ?_)⟩
    · rw [ht, if_pos (by simp [State.waitOver, hg]), endWait_gap hw, State.ctx, core_setCore_same]
      exact ⟨by cases c <;> rfl, rfl⟩
    · simp [State.waitOver, hg]
  case waits =>
    refine (hset (by simp [hw])).trans (if_neg ?_)
    simp [hw, State.waitOver, hnone]
  case takes =>
    have ht : t = s.endWait n c := (hset (by simp [hw])).trans (if_pos (by simp [hw, State.waitOver, hsome]))
    have hy : t.ctx n c = x.taken rd w.word := ht ▸ ctx_endWait_wnext hw hsome
    obtain ⟨hmem, hpre, hlow⟩ := nextWaveOf_some hsome
    obtain ⟨hwait, hpc, hin, hword⟩ := x.taken_kept w.word (rd := rd)
    obtain ⟨ha, hpo⟩ := x.getA_taken_same w.word h0 h32
    obtain ⟨hnum, hmask, hkind, hrest⟩ := w.word_fields
    have hpref : w.prefill = decide (c = .p) := hpre.trans (by cases c <;> rfl)
    refine ⟨hmem, hpref, hlow, ?_⟩
    simp only [hy, hword]
    exact ⟨hwait, hin, ha, hpo, hnum, hmask, by rw [bitOf_eq_field, hkind, decide_flag], hrest, hpc,
      fun j _ hj => x.getA_taken_other w.word hj⟩

end Sys2Proof.Machine
end

section
/-!
PROOFS. Scalar arithmetic, and vector instructions of the floating-point and the integer units (R383, R395, R397 to R401, R405, R808).
-/
namespace Sys2Proof.Machine

/-! Choices by a signed comparison. -/

/-- The choice between two words may be made by < or by ≤ where equal words leave no choice. -/
theorem ite_slt_eq_ite_le {w : Nat} {α : Type} {a b : BitVec w} {v v' : α} (h : a = b → v = v') :
    (if a.slt b then v else v') = if a.toInt ≤ b.toInt then v else v' := by
  simp only [BitVec.slt_iff_toInt_lt]
  by_cases hab : a.toInt = b.toInt
  · rw [h (BitVec.eq_of_toInt_eq hab), ite_self, ite_self]
  · have hlt : a.toInt < b.toInt ↔ a.toInt ≤ b.toInt := by omega
    simp only [hlt]

/-! Scalar arithmetic (R395). -/

theorem shAmt_eq (b : Word) : shAmt b = b.toNat % 64 := by simp [shAmt, fieldOf, bitsOf]

theorem ofNat_flag (p : Prop) [Decidable p] : BitVec.ofNat 64 (flag (decide p)) = if p then 1#64 else 0#64 := by
  by_cases h : p <;> simp [flag, h]

/-- The high half, from the product of 128 bits. -/
theorem mulHigh_eq (a b : Word) : mulHigh a b = (a.signExtend 128 * b.signExtend 128).extractLsb' 64 64 := by
  have hprod : a.signExtend 128 * b.signExtend 128 = BitVec.ofInt 128 (a.toInt * b.toInt) := (BitVec.ofInt_mul ..).symm
  rw [hprod, mulHigh]
  apply BitVec.eq_of_toNat_eq
  simp only [BitVec.extractLsb'_toNat, BitVec.toNat_ofInt, Nat.shiftRight_eq_div_pow]
  omega

theorem movHigh_eq (a b : Word) : movHigh a b = b.extractLsb' 0 32 ++ a.extractLsb' 0 32 := by
  apply BitVec.eq_of_toNat_eq
  have hlt : (BitVec.extractLsb' 0 32 a).toNat < 2 ^ 32 := BitVec.isLt _
  rw [BitVec.toNat_append, ← Nat.shiftLeft_add_eq_or_of_lt hlt, Nat.shiftLeft_eq, movHigh, BitVec.toNat_ofNat,
    BitVec.extractLsb'_toNat, BitVec.extractLsb'_toNat]
  simp only [fieldOf, bitsOf]
  omega

theorem aluB_eq (f : Fields) (x : Context) :
    aluB f x = if f.imm.getLsbD 33 then (f.imm.setWidth 32).signExtend 64 else x.getA f.srcb.toNat := by
  have hlow : BitVec.ofNat 32 (immBits f 31 0) = f.imm.setWidth 32 := by
    apply BitVec.eq_of_toNat_eq
    rw [immBits_low f 31 (k := 2 ^ 32) rfl]
    simp
  rw [aluB, sext64, signedOf, hlow]
  rfl

/-- What an instruction of major 0x04 does; all have the same operands. -/
theorem exec_alu {u : Issue} {f : Fields} {s : State} (h : s.issues (.add u f)) {op : Word → Word → Word} {v : Word}
    (hv : op ((s.at u).getA f.srca.toNat)
      (if f.imm.getLsbD 33 then (f.imm.setWidth 32).signExtend 64 else (s.at u).getA f.srcb.toNat) = v) :
    Host.Outcome.next (φ := Fault) (ρ := Refusal) (s.alu u f op) =
      .next ((s.putAt u ((s.at u).setA f.dst.toNat v (aluPois f (s.at u)))).afterIssue u (s.nextPc u)) := by
  rw [← aluB_eq] at hv
  subst hv
  exact congrArg _ (issue_next h rfl)

/-- Settles O19: each instruction by its operation on aA and B. -/
theorem scalarArithmetic : Obligations.ScalarArithmetic := by
  unfold Obligations.ScalarArithmetic
  intro u f s x a imm b po put k
  have hmin : (if a.slt b then a else b) = if a.toInt ≤ b.toInt then a else b := ite_slt_eq_ite_le id
  have hmax : (if a.slt b then b else a) = if a.toInt ≤ b.toInt then b else a := ite_slt_eq_ite_le Eq.symm
  exact ⟨fun h => exec_alu h rfl, fun h => exec_alu h rfl, fun h => exec_alu h rfl, fun h => exec_alu h (mulHigh_eq a b),
    fun h => exec_alu h rfl, fun h => exec_alu h rfl, fun h => exec_alu h rfl,
    fun h => exec_alu h (congrArg (a <<< ·) (shAmt_eq b)), fun h => exec_alu h (congrArg (a >>> ·) (shAmt_eq b)),
    fun h => exec_alu h (congrArg a.sshiftRight (shAmt_eq b)), fun h => exec_alu h (ofNat_flag _),
    fun h => exec_alu h (ofNat_flag _), fun h => exec_alu h hmin, fun h => exec_alu h hmax,
    fun h => exec_alu h (movHigh_eq a b)⟩

/-! Floating point (R397, R399, R401). -/

theorem typeOf_eq (f : Fields) : typeOf f = f.imm.toNat / 2 ^ 28 % 4 := immBits_eq f 29 28

section
variable {u : Issue} {f : Fields} {s : State} {n : Nat} {wide : Bool} (op : CodeOp)

/-- What an instruction of major 0x08 leaves with source B and the poison of its sources. -/
def State.fpDone (s : State) (u : Issue) (f : Fields) (b : Nat → Lane) (po : BitVec 4) (op : CodeOp) :
    Host.Outcome State Fault Refusal :=
  .next ((s.elemWise u f ((s.at u).getV f.srca.toNat).lane b ((s.at u).getV (f.imm.toNat / 2 ^ 22 % 64)).lane po
    (if f.imm.toNat / 2 ^ 28 % 4 = 1 then laneOp16 (s.mode16 u.core.val) op else laneOp32 (s.mode32 u.core.val) op)).afterIssue
      u (s.nextPc u))

/-- The outcome of a TYPE that the instruction does not take. -/
def State.fpRefused (s : State) (u : Issue) : Host.Outcome State Fault Refusal :=
  .next (s.programFault u.core.val u.ctx 1 (s.at u).pc.toNat)

theorem vfp_refused (h : s.canIssue u f (fpUse f n))
    (ht : 2 ≤ f.imm.toNat / 2 ^ 28 % 4 ∨ (wide = true ∧ f.imm.toNat / 2 ^ 28 % 4 ≠ 0)) :
    .next (s.vfp u f n wide op) = s.fpRefused u := by
  refine congrArg Host.Outcome.next (issue_fault h (if_pos ?_))
  rw [typeOf_eq]
  simpa using ht

theorem vfp_done (h : s.canIssue u f (fpUse f n))
    (ht : f.imm.toNat / 2 ^ 28 % 4 < 2 ∧ (wide = true → f.imm.toNat / 2 ^ 28 % 4 = 0)) :
    .next (s.vfp u f n wide op) = s.fpDone u f (if n ≥ 2 then vecB (s.at u) f else fun _ => 0#32)
      (((s.at u).getV f.srca.toNat).pois ||| (if n ≥ 2 then poisB (s.at u) f else 0#4) |||
        (if n = 3 then ((s.at u).getV (f.imm.toNat / 2 ^ 22 % 64)).pois else 0#4)) op := by
  have hvc : immBits f 27 22 = f.imm.toNat / 2 ^ 22 % 64 := immBits_eq f 27 22
  refine congrArg Host.Outcome.next (issue_next h ?_)
  simp only [State.fpLane, typeOf_eq, hvc]
  refine if_neg ?_
  simpa using ht

/-- An instruction with one source takes FP32 and FP16. -/
theorem vfp_one (h : s.canIssue u f (fpUse f 1)) :
    (f.imm.toNat / 2 ^ 28 % 4 < 2 → .next (s.vfp u f 1 false op) =
      s.fpDone u f (fun _ => 0#32) ((s.at u).getV f.srca.toNat).pois op) ∧
    (2 ≤ f.imm.toNat / 2 ^ 28 % 4 → .next (s.vfp u f 1 false op) = s.fpRefused u) := by
  refine ⟨fun ht => (vfp_done (wide := false) op h ⟨ht, nofun⟩).trans ?_, fun ht => vfp_refused op h (.inl ht)⟩
  simp

/-- An instruction with two sources. -/
theorem vfp_two (h : s.canIssue u f (fpUse f 2)) :
    (f.imm.toNat / 2 ^ 28 % 4 < 2 → .next (s.vfp u f 2 false op) =
      s.fpDone u f (vecB (s.at u) f) (((s.at u).getV f.srca.toNat).pois ||| poisB (s.at u) f) op) ∧
    (2 ≤ f.imm.toNat / 2 ^ 28 % 4 → .next (s.vfp u f 2 false op) = s.fpRefused u) := by
  refine ⟨fun ht => (vfp_done (wide := false) op h ⟨ht, nofun⟩).trans ?_, fun ht => vfp_refused op h (.inl ht)⟩
  simp

/-- An instruction with three sources. -/
theorem vfp_three (h : s.canIssue u f (fpUse f 3)) :
    (f.imm.toNat / 2 ^ 28 % 4 < 2 → .next (s.vfp u f 3 false op) =
      s.fpDone u f (vecB (s.at u) f) (((s.at u).getV f.srca.toNat).pois ||| poisB (s.at u) f |||
        ((s.at u).getV (f.imm.toNat / 2 ^ 22 % 64)).pois) op) ∧
    (2 ≤ f.imm.toNat / 2 ^ 28 % 4 → .next (s.vfp u f 3 false op) = s.fpRefused u) := by
  refine ⟨fun ht => (vfp_done (wide := false) op h ⟨ht, nofun⟩).trans ?_, fun ht => vfp_refused op h (.inl ht)⟩
  simp

/-- An estimate takes FP32 alone (R401). -/
theorem vfp_estimate (h : s.canIssue u f (fpUse f 1)) :
    (f.imm.toNat / 2 ^ 28 % 4 = 0 → .next (s.vfp u f 1 true op) =
      s.fpDone u f (fun _ => 0#32) ((s.at u).getV f.srca.toNat).pois op) ∧
    (f.imm.toNat / 2 ^ 28 % 4 ≠ 0 → .next (s.vfp u f 1 true op) = s.fpRefused u) := by
  refine ⟨fun ht => (vfp_done op h ⟨by omega, fun _ => ht⟩).trans ?_, fun ht => vfp_refused op h (.inr ⟨rfl, ht⟩)⟩
  simp

end

/-- Settles O21: each instruction by the number of its sources and the formats that it takes. -/
theorem vectorFloatingPoint : Obligations.VectorFloatingPoint := by
  unfold Obligations.VectorFloatingPoint
  intro u f s
  exact ⟨fun h => vfp_two _ h, fun h => vfp_two _ h, fun h => vfp_two _ h, fun h => vfp_three _ h, fun h => vfp_three _ h,
    fun h => vfp_two _ h, fun h => vfp_one _ h, fun h => vfp_two _ h, fun h => vfp_two _ h, fun h => vfp_two _ h,
    fun h => vfp_two _ h, fun h => vfp_one _ h, fun h => vfp_estimate _ h, fun h => vfp_estimate _ h,
    fun h => vfp_estimate _ h, fun h => vfp_estimate _ h⟩

/-! Integer, logic and moves (R405, R808). -/

section
variable {u : Issue} {f : Fields} {s : State}

/-- What an instruction of major 0x0A on two sources does; all have the same operands. -/
theorem exec_vint (h : s.issues (.viadd u f)) {op op' : Lane → Lane → Lane} (ho : ∀ a b, op a b = op' a b) :
    Host.Outcome.next (φ := Fault) (ρ := Refusal) (s.vint u f op) =
      .next ((s.elemWise u f ((s.at u).getV f.srca.toNat).lane (vecB (s.at u) f) (fun _ => 0#32)
        (((s.at u).getV f.srca.toNat).pois ||| poisB (s.at u) f) (fun a b _ => (op' a b, 0#5))).afterIssue u (s.nextPc u)) := by
  obtain rfl : op = op' := funext fun a => funext (ho a)
  exact congrArg _ (issue_next h rfl)

theorem exec_vmov (h : s.issues (.vmov u f)) : exec (.vmov u f) s =
    .next ((s.elemWise u f (if immBit f 21 then vecB (s.at u) f else ((s.at u).getV f.srca.toNat).lane)
      (fun _ => 0#32) (fun _ => 0#32) (if immBit f 21 then poisB (s.at u) f else ((s.at u).getV f.srca.toNat).pois)
      (fun a _ _ => (a, 0#5))).afterIssue u (s.nextPc u)) := by
  refine congrArg Host.Outcome.next (issue_next h ?_)
  cases immBit f 21 <;> rfl

theorem exec_vsel (h : s.issues (.vsel u f)) : exec (.vsel u f) s =
    .next (((s.putAt u ((s.at u).setV f.dst.toNat (VReg.ofFn
      (fun i => if (predOf (s.at u) f).getLsbD i then ((s.at u).getV f.srca.toNat).lane i else vecB (s.at u) f i)
      (((s.at u).getV f.srca.toNat).pois ||| poisB (s.at u) f)))).vecIssue u).afterIssue u (s.nextPc u)) :=
  congrArg Host.Outcome.next (issue_next h rfl)

end

/-- Settles O23: each instruction by its operation on two lanes, and the two that move. -/
theorem vectorIntegerAndSelect : Obligations.VectorIntegerAndSelect := by
  unfold Obligations.VectorIntegerAndSelect
  intro u f s
  have hmin (a b : Lane) : (if a.slt b then a else b) = if a.toInt ≤ b.toInt then a else b := ite_slt_eq_ite_le id
  have hmax (a b : Lane) : (if a.slt b then b else a) = if a.toInt ≤ b.toInt then b else a := ite_slt_eq_ite_le Eq.symm
  exact ⟨fun h => exec_vint h fun _ _ => rfl, fun h => exec_vint h fun _ _ => rfl, fun h => exec_vint h fun _ _ => rfl,
    fun h => exec_vint h fun _ _ => rfl, fun h => exec_vint h fun _ _ => rfl, fun h => exec_vint h fun _ _ => rfl,
    fun h => exec_vint h fun _ _ => rfl, fun h => exec_vint h fun _ _ => rfl, fun h => exec_vint h fun _ _ => rfl,
    fun h => exec_vint h hmin, fun h => exec_vint h hmax, exec_vsel, exec_vmov⟩

end Sys2Proof.Machine
end

section
/-!
PROOFS. Cross-lane and predicate instructions, and VCMP (R383, R397, R400, R406, R808).
-/
namespace Sys2Proof.Machine

/-! Quarters of a mask. -/

/-- Some lane of quarter j is active. -/
def hitsQuarter (m : Word) (j : Nat) : Prop := ∃ k, 16 * j ≤ k ∧ k < 16 * j + 16 ∧ m.getLsbD k = true

/-- Every lane of quarter j is active. -/
def fillsQuarter (m : Word) (j : Nat) : Prop := ∀ k, 16 * j ≤ k → k < 16 * j + 16 → m.getLsbD k = true

theorem quarterFull_iff (m : Word) (j : Nat) : quarterFull m j = true ↔ fillsQuarter m j := by
  rw [quarterFull_eq]
  simp only [Bool.not_eq_true', List.any_eq_false, List.mem_range, Bool.not_eq_false]
  constructor
  · intro h k hlo hhi
    have hk := h (k - 16 * j) (by omega)
    rwa [Nat.add_sub_cancel' hlo] at hk
  · exact fun h i hi => h (16 * j + i) (by omega) (by omega)

theorem quarterAny_iff (m : Word) (j : Nat) : quarterAny m j = true ↔ hitsQuarter m j := by
  have hbit (i : Nat) : (fieldOf m (16 * j + 15) (16 * j)).testBit i = (decide (i < 16) && m.getLsbD (16 * j + i)) := by
    rw [fieldOf_testBit]
    congr 2
    exact propext ⟨fun h => by omega, fun h => by omega⟩
  rw [quarterAny, decide_eq_true_eq]
  constructor
  · intro h
    obtain ⟨i, hi⟩ := Nat.exists_testBit_of_ne_zero h
    obtain ⟨hlt, hm⟩ := (Bool.and_eq_true _ _).mp ((hbit i).symm.trans hi)
    have hlt := of_decide_eq_true hlt
    exact ⟨16 * j + i, by omega, by omega, hm⟩
  · rintro ⟨k, hlo, hhi, hm⟩ hzero
    have hk := hbit (k - 16 * j)
    rw [show fieldOf m _ _ = 0 from hzero, Nat.zero_testBit, Nat.add_sub_cancel' hlo, hm, decide_eq_true (by omega)] at hk
    exact nomatch hk

theorem otherPois_getLsbD (old : BitVec 4) (m : Word) (src : Bool) {j : Nat} (h : j < 4) :
    (otherPois old m src).getLsbD j = true ↔
      (hitsQuarter m j ∧ src = true) ∨ (¬ fillsQuarter m j ∧ old.getLsbD j = true) := by
  rw [otherPois, maskBy_getLsbD, decide_eq_true h, Bool.true_and]
  simp only [Bool.or_eq_true, Bool.and_eq_true, Bool.not_eq_true', ← Bool.not_eq_true, quarterAny_iff, quarterFull_iff]

/-! What these instructions leave (R397, R762). -/

section
variable (s : State) (u : Issue) (x : Context) (fl : FpFlags)

/-- Without flags an instruction leaves its registers and its count. -/
theorem vecDone_no_flags : (s.putAt u x).vecIssue u = s.vecDone u x 0#5 := rfl

theorem vecDone_units : (s.vecDone u x fl).streams = s.streams ∧ (s.vecDone u x fl).reqs = s.reqs ∧
    (s.vecDone u x fl).lines = s.lines := by
  have hcount : ((s.putAt u x).raiseFlags u.core.val fl).Reports (s.vecDone u x fl) :=
    count_reports _ (0x100 + u.core.val) 7 1
  obtain ⟨regs, hr⟩ := raiseFlags_eq (s.putAt u x) u.core.val fl
  rw [hr] at hcount
  rw [show s.vecDone u x fl = _ from hcount]
  exact ⟨rfl, rfl, rfl⟩

/-- t is s outside the context of the issue and VMODE. -/
def State.sameBut (s : State) (u : Issue) (t : State) : Prop :=
  (∀ (k : Nat) (c : Ctx), (k, c) ≠ (u.core.val, u.ctx) → t.ctx k c = s.ctx k c) ∧
  t.mem = s.mem ∧ t.cmem = s.cmem ∧ t.streams = s.streams ∧ t.reqs = s.reqs ∧ t.lines = s.lines ∧
  (s.vecRoom u → t.host = s.host ∧ ∀ off, off ≠ offVMODE u.core.val → t.reg off = s.reg off)

theorem vecDone_sameBut : s.sameBut u (s.vecDone u x fl) := by
  obtain ⟨-, hmem, hcmem, hctx⟩ := vecDone_kept s u x fl
  obtain ⟨hstreams, hreqs, hlines⟩ := vecDone_units s u x fl
  exact ⟨hctx, hmem, hcmem, hstreams, hreqs, hlines,
    fun hroom => ⟨vecDone_host x fl hroom, fun off ho => reg_vecDone_other x fl hroom ho⟩⟩

/-- An instruction completes with x in its context, and nothing else changes. -/
def State.endsWith (s : State) (u : Issue) (i : Instr) (x : Context) : Prop :=
  ∃ t : State, exec i s = .next (t.afterIssue u (s.nextPc u)) ∧ t.at u = x ∧ s.sameBut u t ∧
    (s.vecRoom u → t.reg (offVMODE u.core.val) = s.reg (offVMODE u.core.val))

variable {s u x}

theorem endsWith_of_exec {i : Instr} (h : exec i s = .next ((s.vecDone u x 0#5).afterIssue u (s.nextPc u))) : s.endsWith u i x := by
  obtain ⟨hat, -⟩ := vecDone_kept s u x 0#5
  refine ⟨_, h, hat, vecDone_sameBut s u x 0#5, fun hroom => ?_⟩
  rw [reg_vecDone_vmode x 0#5 hroom]
  exact BitVec.or_zero

end

/-! The instructions. -/

section
variable {u : Issue} {f : Fields} {s : State}

/-- A value written under PRED into a predicate register (R808). -/
def underPred (x : Context) (f : Fields) (v : Word) : Word :=
  (v &&& predOf x f) ||| (x.getP f.dst.toNat &&& ~~~ predOf x f)

theorem underPred_getLsbD (x : Context) (f : Fields) (v : Word) {k : Nat} (h : k < 64) : (underPred x f v).getLsbD k =
    if (predOf x f).getLsbD k then v.getLsbD k else (x.getP f.dst.toNat).getLsbD k := by
  rw [underPred, BitVec.getLsbD_or, BitVec.getLsbD_and, BitVec.getLsbD_and, BitVec.getLsbD_not, decide_eq_true h, Bool.true_and]
  cases (predOf x f).getLsbD k <;> simp

theorem immBits_plog (f : Fields) : immBits f 20 19 = f.imm.toNat / 2 ^ 19 % 4 := immBits_eq f 20 19

theorem exec_vperm (h : s.issues (.vperm u f)) : s.endsWith u (.vperm u f) ((s.at u).setV f.dst.toNat
    (((s.at u).getV f.dst.toNat).merge (predOf (s.at u) f)
      (fun i => ((s.at u).getV f.srca.toNat).lane ((vecB (s.at u) f i).toNat % 64))
      (otherPois ((s.at u).getV f.dst.toNat).pois (predOf (s.at u) f)
        (decide (((s.at u).getV f.srca.toNat).pois ≠ 0#4) || decide (poisB (s.at u) f ≠ 0#4))))) :=
  endsWith_of_exec (congrArg Host.Outcome.next (issue_next h rfl))

theorem exec_vext (h : s.issues (.vext u f)) : s.endsWith u (.vext u f) ((s.at u).setA f.dst.toNat
    ((((s.at u).getV f.srca.toNat).lane (f.imm.toNat % 64)).setWidth 64)
    (((s.at u).getV f.srca.toNat).pois.getLsbD (f.imm.toNat % 64 / 16))) :=
  endsWith_of_exec (congrArg Host.Outcome.next (issue_next h (by simp only [immBits_low f 5 (k := 64) rfl]; rfl)))

/-- The lane that VINS writes, as a mask. -/
def insertMask (x : Context) (f : Fields) : Word := predOf x f &&& BitVec.twoPow 64 (f.imm.toNat % 64)

theorem exec_vins (h : s.issues (.vins u f)) : s.endsWith u (.vins u f) ((s.at u).setV f.dst.toNat
    (((s.at u).getV f.dst.toNat).merge (insertMask (s.at u) f) (fun _ => ((s.at u).getA f.srcb.toNat).setWidth 32)
      (otherPois ((s.at u).getV f.dst.toNat).pois (insertMask (s.at u) f) ((s.at u).poisA f.srcb.toNat)))) :=
  endsWith_of_exec (congrArg Host.Outcome.next (issue_next h (by simp only [immBits_low f 5 (k := 64) rfl]; rfl)))

theorem exec_plog (h : s.issues (.plog u f)) : s.endsWith u (.plog u f) ((s.at u).setP f.dst.toNat (underPred (s.at u) f
    (plogOp (f.imm.toNat / 2 ^ 19 % 4) ((s.at u).getP f.srca.toNat) ((s.at u).getP f.srcb.toNat)))) :=
  endsWith_of_exec (congrArg Host.Outcome.next (issue_next h (by simp only [immBits_plog]; rfl)))

theorem exec_pset (h : s.issues (.pset u f)) : s.endsWith u (.pset u f)
    ((s.at u).setP f.dst.toNat (underPred (s.at u) f ((s.at u).getA f.srca.toNat))) :=
  endsWith_of_exec (congrArg Host.Outcome.next (issue_next h rfl))

theorem exec_pget (h : s.issues (.pget u f)) : s.endsWith u (.pget u f)
    ((s.at u).setA f.dst.toNat ((s.at u).getP f.srca.toNat) false) :=
  endsWith_of_exec (congrArg Host.Outcome.next (issue_next h rfl))

/-! VCMP (R400). -/

/-- The comparison of lane i of the two sources. -/
def State.compared (s : State) (u : Issue) (f : Fields) (i : Nat) : Bool × FpFlags :=
  cmpLane f (((s.at u).getV f.srca.toNat).lane i) (vecB (s.at u) f i)

/-- The mask of a comparison over the active lanes. -/
def State.compareMask (s : State) (u : Issue) (f : Fields) : Word :=
  maskBy 64 fun i => active (predOf (s.at u) f) i && (s.compared u f i).1

/-- The flags of a comparison over the active lanes. -/
def State.compareFlags (s : State) (u : Issue) (f : Fields) : FpFlags :=
  laneFlags (predOf (s.at u) f) fun i => (0#32, (s.compared u f i).2)

theorem exec_vcmp (h : s.issues (.vcmp u f)) (ht : f.imm.toNat / 2 ^ 28 % 4 < 2) : exec (.vcmp u f) s =
    .next ((s.vecDone u ((s.at u).setP f.dst.toNat (s.compareMask u f)) (s.compareFlags u f)).afterIssue u (s.nextPc u)) := by
  refine congrArg Host.Outcome.next (issue_next h ((if_neg ?_).trans rfl))
  rw [typeOf_eq]
  omega

theorem exec_vcmp_refused (h : s.issues (.vcmp u f)) (ht : 2 ≤ f.imm.toNat / 2 ^ 28 % 4) : exec (.vcmp u f) s =
    .next (s.programFault u.core.val u.ctx 1 (s.at u).pc.toNat) := by
  refine congrArg Host.Outcome.next (issue_fault h ((if_pos ?_).trans rfl))
  rw [typeOf_eq]
  exact ht

/-- A comparison by its TYPE: one of FP32, or two of FP16 that must both hold. -/
def compareByType (f : Fields) (a b : Lane) : Bool × FpFlags :=
  let one (t : FpFmt) (p q : Nat) : Bool × FpFlags := fpCompare (f.imm.toNat / 2 ^ 18 % 8) (unpack t p) (unpack t q)
  if f.imm.toNat / 2 ^ 28 % 4 = 1 then
    let lo := one fmt16 (a.toNat % 65536) (b.toNat % 65536)
    let hi := one fmt16 (a.toNat / 65536) (b.toNat / 65536)
    (lo.1 && hi.1, lo.2 ||| hi.2)
  else one fmt32 a.toNat b.toNat

theorem cmpLane_eq (f : Fields) (a b : Lane) : cmpLane f a b = compareByType f a b := by
  have hcode : immBits f 20 18 = f.imm.toNat / 2 ^ 18 % 8 := immBits_eq f 20 18
  rw [cmpLane, typeOf_eq, hcode]
  rfl

end

/-- A lane of source B, and its poison. -/
theorem vecB_apply (x : Context) (f : Fields) (j : Nat) : vecB x f j =
    if immBit f 21 then (x.getA f.srcb.toNat).setWidth 32 else (x.getV f.srcb.toNat).lane j := by
  rw [vecB]
  cases immBit f 21 <;> rfl

theorem poisB_ne_zero (x : Context) (f : Fields) : poisB x f ≠ 0#4 ↔
    if immBit f 21 then x.poisA f.srcb.toNat = true else (x.getV f.srcb.toNat).pois ≠ 0#4 := by
  rw [poisB]
  cases immBit f 21
  · rfl
  · cases x.poisA f.srcb.toNat <;> simp

section
variable (x : Context) (f : Fields)

theorem insertMask_getLsbD (k : Nat) : (insertMask x f).getLsbD k = true ↔
    k = f.imm.toNat % 64 ∧ (predOf x f).getLsbD (f.imm.toNat % 64) = true := by
  have hlt : f.imm.toNat % 64 < 64 := Nat.mod_lt _ (by decide)
  rw [insertMask, BitVec.getLsbD_and, BitVec.getLsbD_twoPow, decide_eq_true hlt, Bool.true_and, Bool.and_eq_true, decide_eq_true_eq]
  constructor
  · rintro ⟨hm, rfl⟩
    exact ⟨rfl, hm⟩
  · rintro ⟨rfl, hm⟩
    exact ⟨hm, rfl⟩

theorem hitsQuarter_insertMask (j : Nat) : hitsQuarter (insertMask x f) j ↔
    j = f.imm.toNat % 64 / 16 ∧ (predOf x f).getLsbD (f.imm.toNat % 64) = true := by
  simp only [hitsQuarter, insertMask_getLsbD]
  constructor
  · rintro ⟨k, hlo, hhi, rfl, hm⟩
    exact ⟨by omega, hm⟩
  · rintro ⟨hj, hm⟩
    exact ⟨_, by omega, by omega, rfl, hm⟩

/-- One lane does not fill a quarter. -/
theorem not_fillsQuarter_insertMask (j : Nat) : ¬ fillsQuarter (insertMask x f) j := by
  intro h
  obtain ⟨h0, -⟩ := (insertMask_getLsbD x f _).mp (h (16 * j) (by omega) (by omega))
  obtain ⟨h1, -⟩ := (insertMask_getLsbD x f _).mp (h (16 * j + 1) (by omega) (by omega))
  omega

end

/-- The operation of PLOG by its code. -/
theorem plogOp_eq {k : Nat} {a b v : Word} (hk : k < 4) (h0 : k = 0 → v = a &&& b) (h1 : k = 1 → v = a ||| b)
    (h2 : k = 2 → v = a &&& ~~~ b) (h3 : k = 3 → v = a ^^^ b) : plogOp k a b = v := by
  match k, hk with
  | 0, _ => exact (h0 rfl).symm
  | 1, _ => exact (h1 rfl).symm
  | 2, _ => exact (h2 rfl).symm
  | 3, _ => exact (h3 rfl).symm

/-- What VCMP leaves of its flags in VMODE (R400). -/
theorem bit_compareFlags {s : State} {u : Issue} (f : Fields) (x : Context) (hroom : s.vecRoom u) {k : Nat} (hk : k < 64) :
    (s.vecDone u x (s.compareFlags u f)).bit (offVMODE u.core.val) k = true ↔ s.bit (offVMODE u.core.val) k = true ∨
      (8 ≤ k ∧ k < 13 ∧ ∃ j, j < 64 ∧ (predOf (s.at u) f).getLsbD j = true ∧ (s.compared u f j).2.getLsbD (k - 8) = true) := by
  rw [bit_vecDone x _ hroom hk, Bool.or_eq_true, Bool.and_eq_true, decide_eq_true_eq, State.compareFlags, laneFlags_getLsbD]
  refine or_congr_right (and_congr_right fun h8 => ⟨fun hj => ⟨?_, hj⟩, fun hj => hj.2⟩)
  obtain ⟨j, -, -, hbit⟩ := hj
  have := BitVec.lt_of_getLsbD hbit
  omega

/-- Settles O24: each instruction by its equation; lanes and poison by the mask that it writes under. -/
theorem crossLaneAndPredicates : Obligations.CrossLaneAndPredicates := by
  unfold Obligations.CrossLaneAndPredicates
  intro u f s x n m d va vb old bl pb i hit full room same done
  have hbl (j : Nat) : vecB x f j = bl j := vecB_apply x f j
  have hpb : poisB x f ≠ 0#4 ↔ pb := poisB_ne_zero x f
  refine ⟨fun h => ⟨_, exec_vperm h, fun j hj => ?lanes, fun j hj => ?pois⟩, exec_vext,
    fun h => ⟨_, exec_vins h, fun j hj => ?lane, fun j hj => ?lanePois⟩, fun j v hv h => ?masked, exec_pget,
    fun h => ⟨fun ht => ?compares, exec_vcmp_refused h⟩⟩
  case lanes =>
    rw [VReg.merge, VReg.lane_ofFn _ _ hj, hbl]
    rfl
  case pois =>
    refine (otherPois_getLsbD _ _ _ hj).trans ?_
    rw [Bool.or_eq_true, decide_eq_true_eq, decide_eq_true_eq]
    exact or_congr_left (and_congr_right fun _ => or_congr_right hpb)
  case lane =>
    rw [VReg.merge, VReg.lane_ofFn _ _ hj]
    exact ite_congr (propext (insertMask_getLsbD x f j)) (fun _ => rfl) (fun _ => rfl)
  case lanePois =>
    refine (otherPois_getLsbD _ _ _ hj).trans ?_
    rw [hitsQuarter_insertMask, and_assoc, and_iff_right (not_fillsQuarter_insertMask x f j)]
    exact or_comm
  case masked =>
    refine ⟨underPred x f v, ?_, fun k hk => underPred_getLsbD x f v hk⟩
    obtain ⟨rfl, h0, h1, h2, h3⟩ | ⟨rfl, rfl⟩ := hv
    · rw [← plogOp_eq (Nat.mod_lt _ (by decide)) h0 h1 h2 h3]
      exact exec_plog h
    · exact exec_pset h
  case compares =>
    obtain ⟨hat, -⟩ := vecDone_kept s u (x.setP d (s.compareMask u f)) (s.compareFlags u f)
    have hcmp (j : Nat) : s.compared u f j = compareByType f (va.lane j) (bl j) :=
      (cmpLane_eq ..).trans (congrArg (compareByType f (va.lane j)) (hbl j))
    refine ⟨_, _, exec_vcmp h ht, hat, vecDone_sameBut s u _ _, fun j hj => ?_, fun hroom k hk => ?_⟩
    · rw [State.compareMask, maskBy_getLsbD, decide_eq_true hj, Bool.true_and, hcmp]
      rfl
    · refine (bit_compareFlags f _ hroom hk).trans ?_
      simp only [hcmp]
      rfl

end Sys2Proof.Machine
end

section
/-!
PROOFS. Stores of station code: the bytes that a store leaves, quarter by quarter (R385, R412, R414, R632, R686).
-/
namespace Sys2Proof.Machine

/-! One quarter. -/

/-- A store of memory after a write with its poison mark (R632). -/
def Store.writeMarked (st : Store) (a : Nat) (bs : List Byte) (po : Bool) : Store :=
  if bs.isEmpty then st
  else if po then (flitsOf a bs.length).foldl Store.markSram (st.write a bs) else st.write a bs

section
variable (st : Store) (a : Nat) (bs : List Byte) (po : Bool)

/-- Marks of poison change neither the bytes nor the marks of DRAM. -/
theorem foldl_markSram_kept (l : List Nat) : (l.foldl Store.markSram st).bytes = st.bytes ∧ (l.foldl Store.markSram st).pois = st.pois := by
  induction l generalizing st with
  | nil => exact ⟨rfl, rfl⟩
  | cons f l ih => exact ih (st.markSram f)

theorem foldl_markSram_ok {st : Store} (l : List Nat) (h : st.ok) : (l.foldl Store.markSram st).ok := by
  induction l generalizing st with
  | nil => exact h
  | cons f l ih => exact ih (Store.markSram_ok f h)

theorem Store.pois_writeMarked : (st.writeMarked a bs po).pois = st.pois := by
  unfold Store.writeMarked
  split
  · rfl
  · split
    · exact (foldl_markSram_kept _ _).2
    · rfl

theorem Store.writeMarked_ok {st : Store} (h : st.ok) : (st.writeMarked a bs po).ok := by
  unfold Store.writeMarked
  split
  · exact h
  · split
    · exact foldl_markSram_ok _ (Store.write_ok a bs h)
    · exact Store.write_ok a bs h

theorem Store.bytes_writeMarked : (st.writeMarked a bs po).bytes = if bs.isEmpty then st.bytes else memWrite st.bytes a bs := by
  unfold Store.writeMarked
  split
  · rfl
  · split
    · exact (foldl_markSram_kept _ _).1
    · rfl

theorem memByte_writeMarked (k : Nat) : memByte (st.writeMarked a bs po).bytes k =
    if a ≤ k ∧ k < a + bs.length then bs.getD (k - a) 0#8 else memByte st.bytes k := by
  rw [st.bytes_writeMarked]
  split
  · rename_i hnil
    rw [List.isEmpty_iff.mp hnil, if_neg (by simp)]
  · split
    · rename_i hin
      have hw := memByte_memWrite_in st.bytes a bs (k - a) (by omega)
      rwa [Nat.add_sub_cancel' hin.1] at hw
    · exact memByte_memWrite_out _ _ _ (by omega)

end

theorem writeSram_unarmed {s : State} (h : s.bit (offERR + 0x20) 0 = false) (a : Nat) (bs : List Byte) (po : Bool) :
    s.writeSram a bs po = { s with mem := s.mem.writeMarked a bs po } := by
  unfold State.writeSram Store.writeMarked
  have hflip (st : Store) (n : Nat) : State.flipMem { s with mem := st } a n = { s with mem := st } := by
    unfold State.flipMem State.flipArmed
    rw [show ({ s with mem := st } : State).bit (offERR + 0x20) 0 = false from h]
    rfl
  split
  · rfl
  · split <;> exact hflip ..

/-! The quarters of a store. -/

/-- A store of memory after the quarters of a register, each with its mark. -/
def Store.writeQuarters (st : Store) (key : Nat) (bs : List Byte) : List Bool → Store
  | [] => st
  | po :: rest => (st.writeMarked key (bs.take 64) po).writeQuarters (key + 64) (bs.drop 64) rest

theorem writeQuarters_unarmed {s : State} (h : s.bit (offERR + 0x20) 0 = false) (key : Nat) (bs : List Byte) (marks : List Bool) :
    s.writeQuarters key bs marks = { s with mem := s.mem.writeQuarters key bs marks } := by
  induction marks generalizing s key bs with
  | nil => rfl
  | cons po rest ih =>
    rw [State.writeQuarters, writeSram_unarmed h]
    exact ih (s := { s with mem := s.mem.writeMarked key (bs.take 64) po }) h _ _

section
variable (st : Store) (key : Nat) (bs : List Byte) (marks : List Bool)

theorem Store.pois_writeQuarters : (st.writeQuarters key bs marks).pois = st.pois := by
  induction marks generalizing st key bs with
  | nil => rfl
  | cons po rest ih => exact (ih _ _ _).trans (st.pois_writeMarked key _ po)

theorem Store.writeQuarters_ok {st : Store} (h : st.ok) : (st.writeQuarters key bs marks).ok := by
  induction marks generalizing st key bs with
  | nil => exact h
  | cons po rest ih => exact ih _ _ (Store.writeMarked_ok key _ po h)

/-- Every byte of the store stands in memory, and every other byte as before. -/
theorem memByte_writeQuarters (hlen : bs.length ≤ 64 * marks.length) (k : Nat) : memByte (st.writeQuarters key bs marks).bytes k =
    if key ≤ k ∧ k < key + bs.length then bs.getD (k - key) 0#8 else memByte st.bytes k := by
  induction marks generalizing st key bs with
  | nil =>
    rw [List.length_nil, Nat.mul_zero] at hlen
    rw [if_neg (by omega)]
    rfl
  | cons po rest ih =>
    have hrest : (bs.drop 64).length ≤ 64 * rest.length := by
      simp only [List.length_drop, List.length_cons] at hlen ⊢
      omega
    rw [Store.writeQuarters, ih _ _ _ hrest, memByte_writeMarked]
    simp only [List.length_drop, List.length_take, List.getD_eq_getElem?_getD, List.getElem?_drop, List.getElem?_take]
    by_cases h64 : k < key + 64
    · have hin : (key ≤ k ∧ k < key + min 64 bs.length) ↔ key ≤ k ∧ k < key + bs.length := by omega
      rw [if_neg (by omega), if_pos (show k - key < 64 by omega)]
      simp only [hin]
    · have hin : (key + 64 ≤ k ∧ k < key + 64 + (bs.length - 64)) ↔ key ≤ k ∧ k < key + bs.length := by omega
      have hk : 64 + (k - (key + 64)) = k - key := by omega
      rw [if_neg (show ¬ (key ≤ k ∧ k < key + min 64 bs.length) by omega), hk]
      simp only [hin]

end

/-- Settles O29: the store by its quarters; memory alone changes. -/
theorem storesWriteTheirBytesAndNothingElse : Obligations.StoresWriteTheirBytesAndNothingElse := by
  unfold Obligations.StoresWriteTheirBytesAndNothingElse
  intro s key bs marks hflip hlen hok t
  have ht : t = { s with mem := s.mem.writeQuarters key bs marks } := writeQuarters_unarmed hflip key bs marks
  have hbyte (k : Nat) := memByte_writeQuarters s.mem key bs marks (by omega) k
  obtain ⟨hb, hf, hc, hrest⟩ := hok
  obtain ⟨hb', hf', hc'⟩ := Store.writeQuarters_ok key bs marks (show s.mem.ok from ⟨hb, hf, hc⟩)
  rw [ht]
  exact ⟨fun a h1 h2 => (hbyte a).trans (if_pos ⟨h1, h2⟩), fun a h => (hbyte a).trans (if_neg (by omega)), ⟨hb', hf', hc', hrest⟩,
    s.mem.pois_writeQuarters key bs marks, rfl, rfl, rfl, rfl, rfl, rfl, rfl, rfl, rfl⟩

end Sys2Proof.Machine
end

section
/-!
PROOFS. Stream instructions: SRX, STX, SWT and HSET by the binding of their handle (R385, R418 to R420, R429).
-/
namespace Sys2Proof.Machine

theorem hnd_eq (f : Fields) : hnd f = f.imm.toNat / 2 ^ 30 % 16 := immBits_eq f 33 30
theorem immBits_flits (f : Fields) : immBits f 29 28 = f.imm.toNat / 2 ^ 28 % 4 := immBits_eq f 29 28
theorem immBits_swt (f : Fields) : immBits f 13 0 = f.imm.toNat % 16384 := immBits_low f 13 rfl

/-- Core n takes a stream operation into its queue and goes on with it (R429). -/
def State.streamPush (s : State) (n : Nat) (o : StreamOp) : State :=
  (s.setCore n { s.core n with streamQ := (s.core n).streamQ ++ [o] }).streamRun n

/-! Handles (R419). -/

/-- The effect of an instruction on the stream that its handle is bound to, where the handle is not misused. -/
def State.withHandle (s : State) (u : Issue) (f : Fields) (misused : StreamEnd → Bool) (go : StreamEnd → Bool → Eff) : Eff :=
  match s.handle u (f.imm.toNat / 2 ^ 30 % 16) with
  | none => .fault s fHANDLE
  | some (e, last) => if misused e then .fault s fHANDLE else go e last

/-- Program fault HANDLE. -/
def State.handleFault (s : State) (u : Issue) : Host.Outcome State Fault Refusal :=
  .next (s.programFault u.core.val u.ctx 9 (s.at u).pc.toNat)

section
variable {u : Issue} {f : Fields} {s : State} {e : StreamEnd} {last : Bool} {misused : StreamEnd → Bool} {go : StreamEnd → Bool → Eff}

theorem withHandle_unbound (hb : s.handle u (f.imm.toNat / 2 ^ 30 % 16) = none) :
    .next ((s.withHandle u f misused go).ends s u) = s.handleFault u := by
  rw [State.withHandle, hb]
  rfl

variable (hb : s.handle u (f.imm.toNat / 2 ^ 30 % 16) = some (e, last))
include hb

theorem withHandle_misused (h : misused e = true) : .next ((s.withHandle u f misused go).ends s u) = s.handleFault u := by
  rw [State.withHandle, hb]
  exact congrArg (fun x => Host.Outcome.next (Eff.ends s u x)) (if_pos h)

theorem withHandle_bound (h : misused e = false) : .next ((s.withHandle u f misused go).ends s u) =
    (.next ((go e last).ends s u) : Host.Outcome State Fault Refusal) := by
  rw [State.withHandle, hb]
  exact congrArg (fun x => Host.Outcome.next (Eff.ends s u x)) (if_neg (Bool.eq_false_iff.mp h))

end

section
variable {u : Issue} {f : Fields} {s : State}

/-! SRX, STX and SWT (R385, R418 to R420, R427). -/

theorem exec_srx (h : s.issues (.srx u f)) : exec (.srx u f) s =
    let n := u.core.val
    let cnt := f.imm.toNat / 2 ^ 28 % 4 + 1
    .next ((s.withHandle u f (fun e => e.sending || decide (e.sd.cap < cnt)) fun e last =>
      if (s.core n).streamQ.length ≥ 16 then .stall
      else .next ((s.putAt u { s.at u with pendV := (s.at u).pendV ||| BitVec.twoPow 64 f.dst.toNat }).streamPush n
        (.srx u.ctx f.dst.toNat e.idx cnt last))).ends s u) := by
  refine congrArg Host.Outcome.next ((issue_ends h _).trans ?_)
  rw [hnd_eq, immBits_flits, State.withHandle]
  cases s.handle u (f.imm.toNat / 2 ^ 30 % 16) <;> rfl

/-- The flits of a vector register: 64 bytes each, with the mark of the quarter or of the context. -/
def Context.flit (x : Context) (v : VReg) (q : Nat) : Flit :=
  Flit.of ((v.bytes.drop (64 * q)).take 64) (x.taint || v.pois.getLsbD q)

theorem exec_stx (h : s.issues (.stx u f)) : exec (.stx u f) s =
    let n := u.core.val
    let cnt := f.imm.toNat / 2 ^ 28 % 4 + 1
    .next ((s.withHandle u f (fun e => !e.sending || decide (e.sd.cap < cnt)) fun e _ =>
      if (s.core n).streamQ.length ≥ 16 then .stall
      else .next (s.streamPush n (.stx u.ctx e.idx
        ((List.range cnt).map ((s.at u).flit ((s.at u).getV f.srca.toNat)))))).ends s u) := by
  refine congrArg Host.Outcome.next ((issue_ends h _).trans ?_)
  rw [hnd_eq, immBits_flits, State.withHandle]
  cases s.handle u (f.imm.toNat / 2 ^ 30 % 16) <;> rfl

theorem exec_swt (h : s.issues (.swt u f)) : exec (.swt u f) s =
    let k := f.imm.toNat % 16384
    .next ((s.withHandle u f (fun e => decide (k = 0 ∨ e.sd.cap < k)) fun e _ =>
      .next (s.waitFor u (.swt e.idx (!e.sending) k))).ends s u) := by
  refine congrArg Host.Outcome.next ((issue_ends h _).trans ?_)
  simp only [hnd_eq, immBits_swt, State.withHandle, decide_eq_true_eq] <;> rfl

/-! HSET (R418, R419). -/

/-- The handles of a context after an HSET. -/
def Context.handleSet (x : Context) (f : Fields) : Vector (Option Handle) 16 :=
  Vector.ofFn fun i => if i.val = f.imm.toNat / 2 ^ 30 % 16
    then some { entry := f.imm.setWidth 16, last := f.imm.getLsbD 29 } else x.h[i]

theorem exec_hset (h : s.issues (.hset u f)) : exec (.hset u f) s =
    .next ((s.putAt u { s.at u with h := (s.at u).handleSet f }).afterIssue u (s.nextPc u)) := by
  have hentry : BitVec.ofNat 16 (immBits f 15 0) = f.imm.setWidth 16 := by
    apply BitVec.eq_of_toNat_eq
    rw [immBits_low f 15 (k := 2 ^ 16) rfl]
    simp
  refine congrArg Host.Outcome.next (issue_next h ?_)
  simp only [hentry, hnd_eq]
  rfl

end

/-- Settles O33: each instruction by what its handle is bound to. -/
theorem streamInstructions : Obligations.StreamInstructions := by
  unfold Obligations.StreamInstructions
  intro u f s
  refine ⟨
    fun h => ⟨fun hb => (exec_srx h).trans (withHandle_unbound hb), fun e last hb => ⟨fun hbad => ?srxBad, fun hr hc hq => ?srx⟩⟩,
    fun h => ⟨fun hb => (exec_stx h).trans (withHandle_unbound hb), fun e last hb => ⟨fun hbad => ?stxBad, fun hr hc hq => ?stx⟩⟩,
    fun h => ⟨fun hb => (exec_swt h).trans (withHandle_unbound hb), fun e last hb => ⟨fun hbad => ?swtBad, fun h0 hc => ?swt⟩⟩,
    fun h => ⟨_, exec_hset h, fun i => Vector.getElem_ofFn i.isLt, rfl⟩⟩
  case srxBad => exact (exec_srx h).trans (withHandle_misused hb (by simpa using hbad))
  case srx =>
    exact (exec_srx h).trans ((withHandle_bound hb (by simpa [hr] using hc)).trans
      (congrArg (fun x => Host.Outcome.next (Eff.ends s u x)) (if_neg (Nat.not_le.mpr hq))))
  case stxBad => exact (exec_stx h).trans (withHandle_misused hb (by simpa using hbad))
  case stx =>
    exact (exec_stx h).trans ((withHandle_bound hb (by simpa [hr] using hc)).trans
      (congrArg (fun x => Host.Outcome.next (Eff.ends s u x)) (if_neg (Nat.not_le.mpr hq))))
  case swtBad => exact (exec_swt h).trans (withHandle_misused hb (decide_eq_true hbad))
  case swt => exact (exec_swt h).trans (withHandle_bound hb (decide_eq_false (not_or.mpr ⟨h0, Nat.not_lt.mpr hc⟩)))

end Sys2Proof.Machine
end

section
/-!
PROOFS. Launches of thread groups: GLN and GWT (R424, R447, R450, R485).
-/
namespace Sys2Proof.Machine

theorem immBits_kernel (f : Fields) : immBits f 29 20 = f.imm.toNat / 2 ^ 20 % 1024 := immBits_eq f 29 20

theorem immBits_groups (f : Fields) : immBits f 33 30 = f.imm.toNat / 2 ^ 30 :=
  (immBits_eq f 33 30).trans (Nat.mod_eq_of_lt (by have := f.imm.isLt; omega))

/-- A core after GLN: the launches that stay known, and the new one at their end (R450). -/
def Core.withLaunch (k : Core) (l : Launch) : Core :=
  { k with
    launches := (k.launches.filter fun x => decide (0 < x.live) || decide ((k.nextLaunch.toNat + 65536 - x.id) % 65536 < 64)) ++ [l],
    nextLaunch := k.nextLaunch + 1#16 }

/-- The launch that GLN adds, with its uniform block and the poison of it (R447). -/
def State.newLaunch (s : State) (u : Issue) (f : Fields) (r : ReadOut) : Launch :=
  { id := (s.core u.core.val).nextLaunch.toNat, c := u.ctx, kernel := f.imm.toNat / 2 ^ 20 % 1024, count := f.imm.toNat / 2 ^ 30 + 1,
    live := f.imm.toNat / 2 ^ 30 + 1, killed := 0, started := false, uniform := r.bytes,
    uniPois := maskBy 32 fun j => r.pois.getD (j / 8) false }

/-- The state after a GLN: the launch queued and its identifier in aD. -/
def State.launches (s : State) (u : Issue) (f : Fields) (l : Launch) (po : Bool) : State :=
  (s.setCore u.core.val ((s.core u.core.val).withLaunch l)).putA u f.dst ((s.core u.core.val).nextLaunch.setWidth 64) po

section
variable (s : State) (u : Issue) (f : Fields) (l : Launch) (po : Bool)

theorem core_launches : (s.launches u f l po).core u.core.val =
    ((s.core u.core.val).withLaunch l).setCtx u.ctx ((s.at u).setA f.dst.toNat ((s.core u.core.val).nextLaunch.setWidth 64) po) := by
  simp only [State.launches, State.putA, State.putAt, State.setCtx, State.at, State.ctx, core_setCore_same]
  cases u.ctx <;> rfl

theorem at_launches : (s.launches u f l po).at u = (s.at u).setA f.dst.toNat ((s.core u.core.val).nextLaunch.setWidth 64) po := by
  rw [State.at, State.ctx, core_launches, Core.ctx_setCtx_same]

theorem core_launches_nextLaunch : ((s.launches u f l po).core u.core.val).nextLaunch = (s.core u.core.val).nextLaunch + 1#16 := by
  rw [core_launches]
  cases u.ctx <;> rfl

theorem core_launches_last : ((s.launches u f l po).core u.core.val).launches.getLast? = some l := by
  have hlaunches (k : Core) (c : Ctx) (x : Context) : (k.setCtx c x).launches = k.launches := by cases c <;> rfl
  rw [core_launches, hlaunches]
  exact List.getLast?_concat

end

/-- The kernel of an image with a number (R447). -/
def State.kernelNumbered (s : State) (num : Nat) : Option KernelDef :=
  s.image.bind fun img => img.kernels.find? fun k => decide (k.num = num)

theorem kernelNumbered_isNone_iff {s : State} {num : Nat} : (s.kernelNumbered num).isNone = true ↔
    ¬ ∃ img k, s.image = some img ∧ k ∈ img.kernels ∧ k.num = num := by
  rw [State.kernelNumbered]
  cases s.image with
  | none => simp
  | some img => simp

section
variable {u : Issue} {f : Fields} {s : State}

theorem exec_gln (h : s.issues (.gln u f)) : exec (.gln u f) s =
    let n := u.core.val
    let po := (s.at u).poisA f.srca.toNat
    let s' := s.taintIf u po
    let off := ((s.at u).getA f.srca.toNat + (f.imm.setWidth 20).setWidth 64).toNat
    let r := s'.storeRead n off 256
    .next (Eff.ends s u (
      if (s'.kernelNumbered (f.imm.toNat / 2 ^ 20 % 1024)).isNone then .fault s' fILL
      else if off % 256 ≠ 0 then .fault s' fALIGN
      else if off > 0xFFFFF then .fault s' fCSTORE
      else if ((s'.core n).launches.filter fun l => !l.started).length ≥ 4 then .stall
      else .next (r.s.launches u f (r.s.newLaunch u f r) po))) := by
  refine congrArg Host.Outcome.next ((issue_ends h _).trans (congrArg (Eff.ends s u) ?_))
  simp only [addrOf_low20, immBits_kernel, immBits_groups, BitVec.ofNat_toNat]
  rfl

theorem exec_gwt (h : s.issues (.gwt u f)) : exec (.gwt u f) s =
    let id := ((s.at u).getA f.srca.toNat).toNat
    .next ((s.waitFor u (.gwt f.dst.toNat (if (s.core u.core.val).recent id then id else 65536)
      ((s.at u).poisA f.srca.toNat))).afterIssue u (s.nextPc u)) :=
  congrArg Host.Outcome.next (issue_next h rfl)

end

/-- Settles O36: the checks of GLN in their order; a launch reads its uniform block and queues, with the identifier in aD. -/
theorem groupLaunchAndWait : Obligations.GroupLaunchAndWait := by
  unfold Obligations.GroupLaunchAndWait
  intro u f s
  have ends {e e' : Eff} (h : e = e') : .next (e.ends s u) = (.next (e'.ends s u) : Host.Outcome State Fault Refusal) := by rw [h]
  refine ⟨fun h => ⟨fun hk => ?unknown, fun hk ha => ?align, fun hk ha hc => ?cstore, fun hk ha hc hq => ?launch⟩, exec_gwt⟩
  case unknown => exact (exec_gln h).trans (ends (if_pos (kernelNumbered_isNone_iff.mpr hk)))
  case' align | cstore | launch => have hn := mt kernelNumbered_isNone_iff.mp (not_not_intro hk)
  case align => exact (exec_gln h).trans (ends ((if_neg hn).trans (if_pos ha)))
  case cstore => exact (exec_gln h).trans (ends ((if_neg hn).trans ((if_neg (not_not_intro ha)).trans (if_pos hc))))
  case launch =>
    exact ⟨_, (exec_gln h).trans (ends ((if_neg hn).trans ((if_neg (not_not_intro ha)).trans ((if_neg (Nat.not_lt.mpr hc)).trans
      (if_neg (Nat.not_le.mpr hq)))))), core_launches_nextLaunch .., core_launches_last .., at_launches .., rfl, rfl⟩

end Sys2Proof.Machine
end

section
/-!
PROOFS. Control and divergence of group code: branches, the stack, reconvergence, GFENCE and GEXIT (R455, R459, R464 to R471, R483).
-/
namespace Sys2Proof.Machine

/-! What follows the effect of an instruction that one subgroup issues alone (R461, R483). -/

/-- The state that an effect leaves, the issue of subgroup b included. -/
def GEff.ends (s : State) (g : GIssue) (b : Subgroup) : GEff → State
  | .stall => s
  | .fault t code => t.killGroup g.core.val g.gctx code b.pc.toNat
  | .subs t x => t.afterSplit g x
  | .jump t x p => if x.pcOk p then t.afterGroup g b x p
      else ((t.count (0x100 + g.core.val) 8 1).setGrp g.core.val g.gctx x).killGroup g.core.val g.gctx gPC (BitVec.ofInt 20 p).toNat
  | .next t x => t.afterGroup g b x (b.pc.toNat + 8)

section
variable {s : State} {g : GIssue} {f : Fields} {b : Subgroup}

theorem gIssue_ends {w : GUse} {pairs : List Nat} (h : s.subgroupReady g b ∧ w.fault f = none ∧
      ∀ r ∈ w.regs f pairs, ∀ l, l < 32 → l * 64 + r ∉ (s.grp g.core.val g.gctx).pend)
    (hl : w.lanes = false) (body : GIssue → State → GroupCtx → Subgroup → GEff) :
    s.gIssue g f w pairs body = (body g s (s.grp g.core.val g.gctx) { b with fence := none }).ends s g b := by
  obtain ⟨hr, hf, hp⟩ := h
  have hstep := gStep_first (body := body) hr hf hp
  have halone := partners_of_not_lanes s g f pairs (Or.inl hl)
  cases hb : body g s (s.grp g.core.val g.gctx) { b with fence := none } with
  | stall => exact gIssue_of_no_step (by rw [hstep, hb])
  | _ => exact gIssue_alone hr halone (by rw [hstep, hb]; rfl)

theorem jump_ends (x : GroupCtx) (pc : Int) : (.next ((GEff.jump s x pc).ends s g b) : Host.Outcome State Fault Refusal) =
    if x.pcOk pc then .next (s.afterGroup g b x pc)
    else .next (((s.count (0x100 + g.core.val) 8 1).setGrp g.core.val g.gctx x).killGroup g.core.val g.gctx 6 (BitVec.ofInt 20 pc).toNat) :=
  apply_ite Host.Outcome.next ..

end

/-! Operands. -/

theorem uv_taintIf (x : GroupCtx) (po : Bool) (r : Nat) : (x.taintIf po).uv r = x.uv r := by cases po <;> rfl
theorem stack_taintIf (x : GroupCtx) (po : Bool) : (x.taintIf po).stack = x.stack := by cases po <;> rfl
theorem subs_taintIf (x : GroupCtx) (po : Bool) : (x.taintIf po).subs = x.subs := by cases po <;> rfl
theorem regs_taintIf (x : GroupCtx) (po : Bool) : (x.taintIf po).t = x.t ∧ (x.taintIf po).u = x.u := by cases po <;> exact ⟨rfl, rfl⟩

/-- The target offset of BRD. -/
theorem signedOf_high17 (f : Fields) : signedOf 17 (immBits f 33 17) = (f.imm.extractLsb' 17 17).toInt := by
  refine congrArg BitVec.toInt (BitVec.eq_of_toNat_eq ?_)
  rw [immBits_eq]
  simp [Nat.shiftRight_eq_div_pow]

/-- The offset of BRD to the reconvergence PC. -/
theorem signedOf_low17 (f : Fields) : signedOf 17 (immBits f 16 0) = (f.imm.setWidth 17).toInt := by
  refine congrArg BitVec.toInt (BitVec.eq_of_toNat_eq ?_)
  rw [immBits_eq]
  simp

/-! The stack (R465 to R471). -/

theorem le_foldl_max (l : List Nat) (a : Nat) : a ≤ l.foldl Nat.max a ∧ ∀ d ∈ l, d ≤ l.foldl Nat.max a := by
  induction l generalizing a with
  | nil => exact ⟨Nat.le_refl a, by simp⟩
  | cons c l ih =>
    obtain ⟨hmax, htail⟩ := ih (Nat.max a c)
    exact ⟨Nat.le_trans (Nat.le_max_left a c) hmax, List.forall_mem_cons.mpr ⟨Nat.le_trans (Nat.le_max_right a c) hmax, htail⟩⟩

theorem freshEntry_ne (x : GroupCtx) {d : StackEntry} (h : d ∈ x.stack) : d.id ≠ freshEntry x :=
  Nat.ne_of_lt (Nat.lt_succ_of_le ((le_foldl_max _ 0).2 _ (List.mem_map_of_mem h)))

theorem mergeAt_kept (x : GroupCtx) (e : StackEntry) :
    (x.mergeAt e).t = x.t ∧ (x.mergeAt e).u = x.u ∧ ∀ d ∈ (x.mergeAt e).stack, d ∈ x.stack := by
  unfold GroupCtx.mergeAt
  dsimp only
  split
  · exact ⟨rfl, rfl, fun d hd => (List.mem_filter.mp hd).1⟩
  · exact ⟨rfl, rfl, fun _ => id⟩

theorem foldl_mergeAt_kept (l : List StackEntry) (x : GroupCtx) :
    (l.foldl GroupCtx.mergeAt x).t = x.t ∧ (l.foldl GroupCtx.mergeAt x).u = x.u ∧
      ∀ d ∈ (l.foldl GroupCtx.mergeAt x).stack, d ∈ x.stack := by
  induction l generalizing x with
  | nil => exact ⟨rfl, rfl, fun _ => id⟩
  | cons e l ih =>
    obtain ⟨ht, hu, hs⟩ := ih (x.mergeAt e)
    obtain ⟨ht', hu', hs'⟩ := mergeAt_kept x e
    exact ⟨ht.trans ht', hu.trans hu', fun d hd => hs' d (hs d hd)⟩

/-- The stack after lanes leave every entry; an entry without lanes is freed (R471). -/
def stackWithout (stack : List StackEntry) (mask : BitVec 32) : List StackEntry :=
  (stack.map fun e => { e with mask := e.mask &&& ~~~ mask }).filter fun e => decide (e.mask ≠ 0#32)

theorem mem_stackWithout {stack : List StackEntry} {mask : BitVec 32} {e : StackEntry} (h : e ∈ stackWithout stack mask) :
    ∃ d ∈ stack, e.id = d.id ∧ e.rpc = d.rpc ∧ e.mask = d.mask &&& ~~~ mask ∧ e.mask ≠ 0#32 := by
  obtain ⟨hmem, hne⟩ := List.mem_filter.mp h
  obtain ⟨d, hd, rfl⟩ := List.mem_map.mp hmem
  exact ⟨d, hd, rfl, rfl, rfl, of_decide_eq_true hne⟩

/-! Branches (R464, R465). -/

section
variable {s : State} {g : GIssue} {f : Fields} {b : Subgroup}

/-- The lanes of a subgroup whose condition is not zero. -/
def GroupCtx.takenLanes (x : GroupCtx) (f : Fields) (b : Subgroup) : BitVec 32 :=
  maskBy 32 fun i => b.mask.getLsbD i && decide (x.tv f.srca.toNat i ≠ 0#32)

/-- A context with the mark of a poisoned condition. -/
def GroupCtx.condTaint (x : GroupCtx) (f : Fields) (b : Subgroup) : GroupCtx :=
  x.taintIf ((List.range 32).any fun i => b.mask.getLsbD i && x.tp f.srca.toNat i)

/-- The target of a BRD. -/
def brdTarget (f : Fields) (b : Subgroup) : Int := b.pc.toNat + 8 * ((f.imm.extractLsb' 17 17).toInt)

/-- The stack entry that a BRD pushes. -/
def brdEntry (x : GroupCtx) (f : Fields) (b : Subgroup) : StackEntry :=
  { id := freshEntry x, mask := b.mask, parent := b.entry, rpc := BitVec.ofInt 20 (b.pc.toNat + 8 * ((f.imm.setWidth 17).toInt)) }

/-- A context after a BRD that splits its subgroup. -/
def GroupCtx.split (x : GroupCtx) (g : GIssue) (f : Fields) (b : Subgroup) (taken : BitVec 32) : GroupCtx :=
  let e := brdEntry x f b
  { x with
    subs := (x.subs.filter fun y => !y.mask.getLsbD g.lane.val) ++
      [{ b with pc := BitVec.ofInt 20 (brdTarget f b), mask := taken, entry := some e.id, fence := none },
       { b with pc := b.pc + 8#20, mask := b.mask &&& ~~~ taken, entry := some e.id, fence := none }],
    stack := x.stack ++ [e] }

theorem exec_bru (h : s.groupIssues (.bru g f) b) : exec (.bru g f) s =
    let x := s.grp g.core.val g.gctx
    let y := x.taintIf (x.uPois.getLsbD f.srca.toNat)
    .next (GEff.ends s g b (if x.uv f.srca.toNat = 0#64 then .next s y else .jump s y (b.pc.toNat + 8 * f.imm.toInt))) := by
  refine congrArg Host.Outcome.next ((gIssue_ends h rfl _).trans (congrArg (GEff.ends s g b) ?_))
  simp only [uv_taintIf, ne_eq, ite_not]
  rfl

theorem stack_condTaint (x : GroupCtx) : (x.condTaint f b).stack = x.stack := stack_taintIf ..

theorem exec_brd (h : s.groupIssues (.brd g f) b) : exec (.brd g f) s =
    let x := s.grp g.core.val g.gctx
    let y := x.condTaint f b
    let taken := x.takenLanes f b
    .next (GEff.ends s g b (
      if taken = 0#32 then .next s y
      else if taken = b.mask then .jump s y (brdTarget f b)
      else if 16 ≤ y.stack.length then .fault (s.setGrp g.core.val g.gctx y) gSTACK
      else if y.pcOk (brdTarget f b) = false then .jump s y (brdTarget f b)
      else .subs s (y.split g f b taken))) := by
  refine congrArg Host.Outcome.next ((gIssue_ends h rfl _).trans (congrArg (GEff.ends s g b) ?_))
  simp only [signedOf_high17, signedOf_low17, Bool.not_eq_true']
  rfl

theorem exec_rcv (h : s.groupIssues (.rcv g f) b) : exec (.rcv g f) s =
    let x := s.grp g.core.val g.gctx
    .next (GEff.ends s g b (match x.stack.find? (fun e => decide (b.entry = some e.id)) with
      | none => .next s x
      | some e => if e.rpc ≠ b.pc then .next s x
        else .subs s ((x.putSub g.lane { b with atRcv := true, fence := none }).mergeAt e))) :=
  congrArg Host.Outcome.next (gIssue_ends h rfl _)

/-- The context after the lanes of a subgroup have ended, before its entries merge. -/
def GroupCtx.exited (x : GroupCtx) (g : GIssue) (b : Subgroup) : GroupCtx :=
  { x with subs := x.subs.filter fun y => !y.mask.getLsbD g.lane.val, stack := stackWithout x.stack b.mask }

theorem exec_gexit (h : s.groupIssues (.gexit g f) b) : exec (.gexit g f) s =
    let x := s.grp g.core.val g.gctx
    .next (s.afterSplit g ((stackWithout x.stack b.mask).foldl GroupCtx.mergeAt (x.exited g b))) :=
  congrArg Host.Outcome.next (gIssue_ends h rfl _)

end

/-- Settles O43: each instruction by the branches of its effect. -/
theorem groupBranchesAndDivergence : Obligations.GroupBranchesAndDivergence := by
  unfold Obligations.GroupBranchesAndDivergence
  intro g f s b
  have ends {e e' : GEff} (h : e = e') : .next (e.ends s g b) = (.next (e'.ends s g b) : Host.Outcome State Fault Refusal) := by rw [h]
  refine ⟨fun h => congrArg Host.Outcome.next (gIssue_ends h rfl _),
    fun h => (congrArg Host.Outcome.next (gIssue_ends h rfl _)).trans (jump_ends ..), fun h => ?bru,
    fun h => ⟨fun h0 => ?none, fun h0 h1 => ?all, fun h0 h1 hs => ?stack, fun h0 h1 hs hd => ?split, fun h0 h1 hs hd => ?out⟩,
    fun h => ⟨fun hne => ?elsewhere, fun e he hpc => ?merge⟩,
    fun h => congrArg Host.Outcome.next (gIssue_ends h rfl _), fun h => ?gexit⟩
  case bru =>
    rw [exec_bru h]
    dsimp only
    split
    · rfl
    · exact jump_ends ..
  case none => exact (exec_brd h).trans (ends (if_pos h0))
  case all => exact (exec_brd h).trans ((ends ((if_neg h0).trans (if_pos h1))).trans (jump_ends ..))
  case' stack | split | out => rw [← stack_condTaint (f := f) (b := b)] at hs
  case stack => exact (exec_brd h).trans (ends ((if_neg h0).trans ((if_neg h1).trans (if_pos hs))))
  case out =>
    exact (exec_brd h).trans ((ends ((if_neg h0).trans ((if_neg h1).trans ((if_neg (Nat.not_le.mpr hs)).trans (if_pos hd))))).trans
      (jump_ends ..))
  case split =>
    refine ⟨brdEntry ((s.grp g.core.val g.gctx).condTaint f b) f b, _, (exec_brd h).trans (ends ((if_neg h0).trans ((if_neg h1).trans
      ((if_neg (Nat.not_le.mpr hs)).trans (if_neg (ne_false_of_eq_true hd)))))), rfl, rfl, rfl,
      fun d hd => freshEntry_ne _ (by rwa [stack_condTaint]), congrArg (· ++ [_]) (stack_condTaint _), ?_, regs_taintIf ..⟩
    exact congrArg (fun l : List Subgroup => l.filter (fun z => !z.mask.getLsbD g.lane.val) ++ _) (subs_taintIf ..)
  case elsewhere =>
    rw [exec_rcv h]
    dsimp only
    split
    · rfl
    · rename_i e he
      exact ends (if_pos (hne e (List.mem_of_find?_eq_some he) (by simpa using List.find?_some he)))
  case merge =>
    rw [exec_rcv h]
    dsimp only
    rw [he]
    exact ends (if_neg (not_not_intro hpc))
  case gexit =>
    obtain ⟨ht, hu, hstack⟩ := foldl_mergeAt_kept (stackWithout (s.grp g.core.val g.gctx).stack b.mask)
      ((s.grp g.core.val g.gctx).exited g b)
    exact ⟨_, exec_gexit h, ht, hu, fun e he => mem_stackWithout (hstack e he)⟩

end Sys2Proof.Machine
end
